-- ==== Sys2Proof/Word.lean ====
section
/-! DEFINITION. The machine words of the B8 (00 R4; 03 R75; 06 R221). -/
namespace Sys2Proof

/-- A 64-bit scalar register value (01 R9). -/
abbrev Word := BitVec 64
/-- One byte of memory, scratchpad or accumulator. -/
abbrev Byte := BitVec 8
/-- One halfword of an instruction stream (02 R42). -/
abbrev Half := BitVec 16
/-- An 8-bit cause code (06 R221). -/
abbrev Cause := BitVec 8

end Sys2Proof
end

