-- ==== Sys2Proof/Machine/Bits.lean ====
section
/-! DEFINITION. Bit fields, sign extension and byte order (00 R4, R7). Every helper works on plain numbers or on bit
vectors and names no state. -/
namespace Sys2Proof.Machine

/-- Bits hi:lo of a number, as an unsigned value (00 R7). -/
def bits (v hi lo : Nat) : Nat := (v >>> lo) % 2 ^ (hi + 1 - lo)

/-- Bit n of a number. -/
def bit (v n : Nat) : Bool := v.testBit n

/-- `v` with bits hi:lo replaced by the low bits of `f`. -/
def setBits (v hi lo f : Nat) : Nat :=
  let w := hi + 1 - lo
  v - (bits v hi lo) * 2 ^ lo + (f % 2 ^ w) * 2 ^ lo

/-- 1 for true, 0 for false. -/
def b2n (b : Bool) : Nat := if b then 1 else 0

/-- The integer that the low n bits of `v` hold in two's complement (00 R7, sext). -/
def sextI (v n : Nat) : Int :=
  let u := v % 2 ^ n
  if n = 0 then 0 else if u < 2 ^ (n - 1) then (u : Int) else (u : Int) - (2 ^ n : Nat)

/-- The low 64 bits of an integer (00 R7: an assignment keeps the low n bits). -/
def wordOfInt (i : Int) : Word := BitVec.ofInt 64 i

/-- The low n bits of an integer, as a number. -/
def lowBits (i : Int) (n : Nat) : Nat := (i % ((2 ^ n : Nat) : Int)).toNat

/-- Bits hi:lo of a word. -/
def fld (w : Word) (hi lo : Nat) : Nat := bits w.toNat hi lo

/-- A word with bits hi:lo replaced. -/
def setFld (w : Word) (hi lo v : Nat) : Word := BitVec.ofNat 64 (setBits w.toNat hi lo v)

/-- Sign extension of the low n bits of a number to a word. -/
def sextW (v n : Nat) : Word := wordOfInt (sextI v n)

/-- Zero extension of the low n bits of a number to a word. -/
def zextW (v n : Nat) : Word := BitVec.ofNat 64 (v % 2 ^ n)

/-- The little-endian bytes of a number: `n` bytes (00 R4). -/
def toBytes : Nat → Nat → List Byte
  | 0, _ => []
  | n + 1, v => BitVec.ofNat 8 v :: toBytes n (v / 256)

/-- The number that bytes hold, the lowest address first (00 R4). -/
def ofBytes : List Byte → Nat
  | [] => 0
  | b :: r => b.toNat + 256 * ofBytes r

/-- Number of leading zero bits of a 64-bit value (03 R81); 64 of 0. -/
def clz64 (v : Nat) : Nat := if v = 0 then 64 else 63 - v.log2

/-- Number of trailing zero bits, looking at `n` bits from bit `i`. -/
def ctzFrom (v : Nat) : Nat → Nat → Nat
  | 0, i => i
  | n + 1, i => if v.testBit i then i else ctzFrom v n (i + 1)

/-- Number of trailing zero bits of a 64-bit value (03 R81); 64 of 0. -/
def ctz64 (v : Nat) : Nat := ctzFrom v 64 0

/-- Number of one bits among the low n. -/
def popcN (v : Nat) : Nat → Nat
  | 0 => 0
  | n + 1 => popcN v n + b2n (v.testBit n)

/-- The integer square root, by Newton's steps on `fuel`. -/
def isqrtGo (n : Nat) : Nat → Nat → Nat
  | 0, x => x
  | fuel + 1, x =>
    let y := (x + n / x) / 2
    if y < x then isqrtGo n fuel y else x

/-- floor of the square root. -/
def isqrt (n : Nat) : Nat := if n = 0 then 0 else isqrtGo n (n.log2 + 8) (2 ^ (n.log2 / 2 + 1))

/-- The positions 0..n-1 of the bits set in `v`. -/
def onesOf (v n : Nat) : List Nat := (List.range n).filter (fun i => v.testBit i)

end Sys2Proof.Machine
end

