-- ==== Sys2Proof/Machine/Fzr.lean ====
section
/-! DEFINITION. The draw function FZR4 (12 R367) and the line hash FZH64 (R370). -/
namespace Sys2Proof.Machine

/-- Rotation to the left. -/
def rotl64 (v : Word) (n : Nat) : Word := (v <<< n) ||| (v >>> (64 - n))

/-- FZR4 (12 R367). -/
def fzr4 (seed : Word) (id : Nat) (ctr : Word) : Word :=
  let r := [13, 29, 41, 53].foldl (fun (q : Word × Word × Word) n =>
    let a := q.1 + q.2.1
    let e := rotl64 (q.2.2 ^^^ a) n
    let b := q.2.1 + e
    (rotl64 (a ^^^ b) (n + 7), b, e))
    (seed, ctr ^^^ 0xC3A5D1E794B26F08, BitVec.ofNat 64 (id % 2 ^ 32) ^^^ 0x5E170B4DA29CE3F1)
  (r.1 + r.2.2) ^^^ r.2.1

/-- FZH64 of a line given as its 64 bytes, at VA `a` under ASID `n` (12 R370). -/
def fzh64 (a n : Nat) (line : List Byte) : Word :=
  let v := ofBytes line
  (List.range 8).foldl (fun h i => fzr4 h (0x1FFF0 + i) (BitVec.ofNat 64 (v / 2 ^ (64 * i))))
    (fzr4 (BitVec.ofNat 64 (bits a 55 6)) 0x1FFF8 (BitVec.ofNat 64 n))

end Sys2Proof.Machine
end

