-- ==== Sys2Proof/Syntax.lean ====
section
/-! DEFINITION. The instructions and events of the B8: one constructor for each row of the opcode table.
Pages 0 to 2 (02 R65–R67) carry the raw fields of their words, also those that must hold 0, because the checks on
fields come after decoding (02 R63 items 9–17). The rows without a word are steps of the machine's own units and inputs
from outside; they carry what the step names. -/
namespace Sys2Proof

/-- The prefix words of one instruction (02 R45). `imms` are the payloads of the IMM prefixes in chain order, `reg` and
`md` the payloads of a REG and a MOD prefix, `pg` the extension of an explicit PAGE prefix that selects page 0 (R48). -/
structure Pfx where
  imms : List (BitVec 11) := []
  reg : Option (BitVec 11) := none
  md : Option (BitVec 11) := none
  pg : Option (BitVec 9) := none
deriving DecidableEq, Repr

/-- The fields of an A-form base word other than `sub` (02 R42). -/
structure FA where
  d : BitVec 4
  s : BitVec 4
deriving DecidableEq, Repr

/-- The fields of an A-form base word with its `sub` field (02 R42). -/
structure FAZ where
  d : BitVec 4
  s : BitVec 4
  z : BitVec 2
deriving DecidableEq, Repr

/-- The fields of an I-form base word (02 R42). -/
structure FI where
  d : BitVec 4
  i : BitVec 6
deriving DecidableEq, Repr

/-- The fields of a V-form base word (02 R42) with the rounding field of its PAGE prefix (R48). -/
structure FV where
  d : BitVec 3
  a : BitVec 3
  b : BitVec 3
  h : BitVec 1
  r : BitVec 3
deriving DecidableEq, Repr

/-- One instruction or event of the B8: a row of the opcode table (02 R65–R67). -/
inductive Instr where
  -- page 0: integer (03 R79–R83)
  | add (p : Pfx) (f : FA)
  | sub (p : Pfx) (f : FA)
  | and (p : Pfx) (f : FA)
  | or (p : Pfx) (f : FA)
  | xor (p : Pfx) (f : FA)
  | andn (p : Pfx) (f : FA)
  | mov (p : Pfx) (f : FA)
  | shl (p : Pfx) (f : FA)
  | shr (p : Pfx) (f : FA)
  | sar (p : Pfx) (f : FA)
  | mul (p : Pfx) (f : FA)
  | mulh (p : Pfx) (f : FA)
  | mulhn (p : Pfx) (f : FA)
  | div (p : Pfx) (f : FA)
  | divn (p : Pfx) (f : FA)
  | rem (p : Pfx) (f : FA)
  | remn (p : Pfx) (f : FA)
  | min (p : Pfx) (f : FA)
  | minn (p : Pfx) (f : FA)
  | max (p : Pfx) (f : FA)
  | maxn (p : Pfx) (f : FA)
  | clz (p : Pfx) (f : FA)
  | ctz (p : Pfx) (f : FA)
  | popc (p : Pfx) (f : FA)
  | bext (p : Pfx) (f : FA)
  | bins (p : Pfx) (f : FA)
  -- page 0: predicates and selection (03 R84, R85)
  | cmpEq (p : Pfx) (f : FA)
  | cmpNe (p : Pfx) (f : FA)
  | cmpLt (p : Pfx) (f : FA)
  | cmpGe (p : Pfx) (f : FA)
  | cmpLtn (p : Pfx) (f : FA)
  | cmpGen (p : Pfx) (f : FA)
  | li (p : Pfx) (f : FI)
  | addi (p : Pfx) (f : FI)
  | sel (p : Pfx) (f : FA)
  -- page 0: control transfer (03 R86–R92); the B form carries off10
  | br (p : Pfx) (o : BitVec 10)
  | brc (p : Pfx) (f : FI)
  | call (p : Pfx) (o : BitVec 10)
  | loop (p : Pfx) (f : FI)
  | jmp (p : Pfx) (f : FA)
  | ret (p : Pfx) (f : FA)
  | stop (p : Pfx) (f : FA)
  | nop (p : Pfx) (f : FA)
  -- page 0: loads, stores, atomics (03 R93–R99); `z` is the `sub` field
  | ldSigned (p : Pfx) (f : FAZ)
  | ldUnsigned (p : Pfx) (f : FAZ)
  | st (p : Pfx) (f : FAZ)
  | spldSigned (p : Pfx) (f : FAZ)
  | spldUnsigned (p : Pfx) (f : FAZ)
  | spst (p : Pfx) (f : FAZ)
  | amo (p : Pfx) (f : FAZ)
  | cas (p : Pfx) (f : FAZ)
  | famo (p : Pfx) (f : FAZ)
  -- page 0: fences, queues, links, identity, status, traps (03 R100–R113)
  | fencePkg (p : Pfx) (f : FA)
  | fenceSys (p : Pfx) (f : FA)
  | qpop (p : Pfx) (f : FA)
  | qpush (p : Pfx) (f : FA)
  | lsend (p : Pfx) (f : FA)
  | lrecv (p : Pfx) (f : FA)
  | rng (p : Pfx) (f : FI)
  | rdid (p : Pfx) (f : FI)
  | csrr (p : Pfx) (f : FI)
  | csrw (p : Pfx) (f : FI)
  | trap (p : Pfx) (f : FI)
  | brk (p : Pfx) (f : FA)
  | eret (p : Pfx) (f : FA)
  | cut (p : Pfx) (f : FA)
  -- page 1 (04 R132–R154); `t` is the six-bit sub-operation where the row leaves it open
  | vadd (p : Pfx) (f : FV)
  | vsub (p : Pfx) (f : FV)
  | vmul (p : Pfx) (f : FV)
  | vfma (p : Pfx) (f : FV)
  | vfms (p : Pfx) (f : FV)
  | vmax (p : Pfx) (f : FV)
  | vmin (p : Pfx) (f : FV)
  | vand (p : Pfx) (f : FV)
  | vor (p : Pfx) (f : FV)
  | vxor (p : Pfx) (f : FV)
  | vshl (p : Pfx) (f : FV)
  | vshr (p : Pfx) (f : FV)
  | vmac (p : Pfx) (f : FV)
  | vcmp (p : Pfx) (f : FV) (t : BitVec 6)
  | vsel (p : Pfx) (f : FV)
  | vredsum (p : Pfx) (f : FV) (o : BitVec 1)
  | vredmax (p : Pfx) (f : FV) (o : BitVec 1)
  | vredmin (p : Pfx) (f : FV) (o : BitVec 1)
  | vdot (p : Pfx) (f : FV) (o : BitVec 1)
  | vexp2 (p : Pfx) (f : FV)
  | vlog2 (p : Pfx) (f : FV)
  | vrcp (p : Pfx) (f : FV)
  | vrsqrt (p : Pfx) (f : FV)
  | vsqrt (p : Pfx) (f : FV)
  | vtanh (p : Pfx) (f : FV)
  | vsig (p : Pfx) (f : FV)
  | vsin (p : Pfx) (f : FV)
  | vcos (p : Pfx) (f : FV)
  | vcvt (p : Pfx) (f : FV) (o : BitVec 1)
  | vqmx (p : Pfx) (f : FV) (o : BitVec 1)
  | vdqmx (p : Pfx) (f : FV)
  | vqbx (p : Pfx) (f : FV) (o : BitVec 1)
  | vdqbx (p : Pfx) (f : FV)
  | vtag (p : Pfx) (f : FV) (t : BitVec 6)
  | vgtag (p : Pfx) (f : FAZ) (r : BitVec 3)
  | vmov (p : Pfx) (f : FV)
  | vbcast (p : Pfx) (f : FAZ) (r : BitVec 3) (t : BitVec 6)
  | vperm (p : Pfx) (f : FV)
  | vshuf (p : Pfx) (f : FV) (o : BitVec 2)
  | vext (p : Pfx) (f : FAZ) (r : BitVec 3) (t : BitVec 6)
  | vins (p : Pfx) (f : FAZ) (r : BitVec 3) (t : BitVec 6)
  | vld (p : Pfx) (f : FAZ) (r : BitVec 3) (t : BitVec 6)
  | vst (p : Pfx) (f : FAZ) (r : BitVec 3) (t : BitVec 6)
  | aaddX (p : Pfx) (f : FA) (r : BitVec 3)
  | aaddA (p : Pfx) (f : FA) (r : BitVec 3)
  | ali (p : Pfx) (f : FI) (r : BitVec 3)
  | amovAx (p : Pfx) (f : FA) (r : BitVec 3)
  | amovXa (p : Pfx) (f : FA) (r : BitVec 3)
  | amovMx (p : Pfx) (f : FA) (r : BitVec 3)
  | amovXm (p : Pfx) (f : FA) (r : BitVec 3)
  -- page 2: threads, queues, gangs (05 R159–R179)
  | bcast (p : Pfx) (f : FI)
  | mtgo (p : Pfx) (f : FI)
  | mtjoin (p : Pfx) (f : FAZ)
  | mtstat (p : Pfx) (f : FAZ) (o : BitVec 3)
  | mtres (p : Pfx) (f : FAZ) (o : BitVec 1)
  | mtkill (p : Pfx) (f : FAZ)
  | qwr (p : Pfx) (f : FAZ)
  | qrd (p : Pfx) (f : FAZ)
  | gang (p : Pfx) (f : FI)
  | split (p : Pfx) (f : FAZ)
  -- page 2: copies, gathers, matrix, base-die multipliers (07 R250–R257; 08 R277–R284; 10 R328)
  | ctpl (p : Pfx) (f : FAZ) (o : BitVec 1)
  | cwait (p : Pfx) (f : FI)
  | cread (p : Pfx) (f : FAZ) (o : BitVec 2)
  | cset (p : Pfx) (f : FAZ)
  | wmrd (p : Pfx) (f : FAZ)
  | epush (p : Pfx) (f : FAZ)
  | epop (p : Pfx) (f : FAZ)
  | msetA (p : Pfx) (f : FAZ)
  | msetB (p : Pfx) (f : FAZ)
  | msetOp (p : Pfx) (f : FAZ)
  | mgo (p : Pfx) (f : FAZ)
  | mzero (p : Pfx) (f : FAZ)
  | mrd (p : Pfx) (f : FAZ)
  | mwr (p : Pfx) (f : FAZ)
  | msclSet (p : Pfx) (f : FAZ)
  | msclRd (p : Pfx) (f : FAZ)
  | msclClr (p : Pfx) (f : FAZ)
  | gemvh (p : Pfx) (f : FAZ)
  -- page 2: barriers, domains, shards, full/empty, network, translation, chunks, seeds
  -- (09 R291–R301; 12 R369–R378; 14 R420; 15 R440; 10 R320; 06 R220)
  | barinit (p : Pfx) (f : FAZ)
  | barv (p : Pfx) (f : FI)
  | barw (p : Pfx) (f : FAZ)
  | dsync (p : Pfx) (f : FI)
  | dmemCl (p : Pfx) (f : FAZ)
  | dmemDie (p : Pfx) (f : FAZ)
  | dmemPkg (p : Pfx) (f : FAZ)
  | ldsh (p : Pfx) (f : FAZ) (x : BitVec 1) (h : BitVec 6)
  | stsh (p : Pfx) (f : FAZ) (h : BitVec 6)
  | shfence (p : Pfx) (f : FI)
  | feld (p : Pfx) (f : FAZ) (m : BitVec 2)
  | fest (p : Pfx) (f : FAZ) (m : BitVec 3)
  | netpost (p : Pfx) (f : FAZ)
  | netpostM (p : Pfx) (f : FAZ)
  | tlbiPage (p : Pfx) (f : FAZ)
  | tlbiAsid (p : Pfx) (f : FAZ)
  | tlbiAll (p : Pfx) (f : FAZ)
  | tlbiWbinv (p : Pfx) (f : FAZ)
  | chkcfgLen (p : Pfx) (f : FAZ)
  | chkcfgStat (p : Pfx) (f : FAZ)
  | chkcfgOrder (p : Pfx) (f : FAZ)
  | seedrd (p : Pfx) (f : FAZ)
  | seedrdDepth (p : Pfx) (f : FAZ)
  | digrd (p : Pfx) (f : FAZ)
  | digrdQ (p : Pfx) (f : FAZ)
  -- inputs that carry what arrives (06; 07 R246; 10 R322; 12; 13; 14; 15); the unit they reach stands in State.cur
  | fqRplReady (v : BitVec 64)
  | fqRplDecline (v : BitVec 64)
  | stwSend1 (v : BitVec 64)
  | stwFwd (v : BitVec 64)
  | stwRun (v : BitVec 64)
  | cqTailWrite (v : BitVec 64)
  | featureNegotiation
  | powerAverageCheck (avg : Nat)
  | torusMessageDeliver (v : Nat)
  | errorDetect (v : Nat)
  | selfTestEnd (v : Nat)
  | coreMapWrite (v : BitVec 64)
  | bootCtlClr (v : BitVec 64)
  | packageReset (v : Nat)
  | dbgCmdResume (v : BitVec 64)
  | dbgCmdHalt (v : BitVec 64)
  | dbgCmdStep (v : BitVec 64)
  | attn (v : BitVec 64)
  | hostWrite (a n v : Nat)
  | peerLoad (v : Nat)
  | bundleRequest (v : Nat)
  | bundleAck (v : Nat)
  | leaseWrite (v : BitVec 64)
  | grantRevoke (v : BitVec 64)
  | leaseNotice (v : Nat)
  | leaseClose (v : Nat)
  | netPacketArrive (v : Nat)
  | netAck (v : Nat)
  | registerWrite (a : Nat) (v : BitVec 64)
  | illegalEncoding (c : Cause)
  | thermalThrottling (on : Bool)
  | dynamicCapacityEvent (v : Nat)
  | errorResponse (v : Nat)
  | shfenceMessage (v : Nat)
  | shfenceAck (v : Nat)
  -- steps of threads, chunks and contexts (01 R11; 05; 06): they act on the core, thread and unit of State.cur
  | farResultArrive
  | admitEntry
  | mtBeginEntry
  | mtjoinComplete
  | queueStallRelease
  | taskInstanceEnd
  | chunkCut
  | commitRequest
  | writeSignatureArrive
  | commitFinish
  | reservationRequest
  | reservationGrant
  | lateralWaitTimeout
  | lateralWaitRelease
  | steppedTrap
  | cutWatchdog
  | gangForm
  | contextSwitch
  | streaminComplete
  | drainComplete
  | streamoutComplete
  | quantumExpiry
  -- steps of translation and atomics (10)
  | pageFaultPark
  | faultRecordPost
  | l2MissTranslate
  | tlbiComplete
  | farAtomicApply
  | detUpdateArrive
  | detPhaseApply
  -- steps of copies, the steward and gathers (07)
  | copyLineWrite
  | copyComplete
  | engineFault
  | resumePacket
  | abandonPacket
  | stewardHalt
  | gatherElement
  -- steps of the matrix array (08) and the base-die multipliers (10)
  | rowBarrierClose
  | rowBarrierTimeout
  | exponentRecord
  | mgoComplete
  | mzeroExecute
  | mrdExecute
  | mwrExecute
  | msclClrExecute
  | gemvhExecute
  -- steps of barriers and domains (09)
  | barrierWake
  | barwTimeout
  | dsyncArrival
  | phaseEndReceive
  | dmemRelease
  -- steps of the HBM controllers (10 R329–R332)
  | scrubPass
  | scrubWrite
  | refreshInterval
  | heartbeat
  | refreshTakeover
  -- steps of launch and scheduling (12)
  | packetHeaderCheck
  | packetBegin
  | packetComplete
  | launchPlace
  | launchComplete
  | launchAging
  | passedOverLimit
  | replayHoldTimeout
  -- steps of debug (13), the scale-up fabric (14) and the network engine (15)
  | pcSample
  | traceFull
  | linkRequestTimeout
  | bundleStagingTimeout
  | feOperation
  | feRetry
  | feRetryTimeout
  | feWithdraw
  | leaseNoticeExpiry
  | netRequestStart
  | netAckTimer
  | netRetxTimeout
  | netRnr
  | netConnectionTimeout
  | rnrTimeout
deriving DecidableEq, Repr

end Sys2Proof
end

