-- ==== Sys2Proof/WellFormed.lean ====
section
/-! DEFINITION. Which terms of `Instr` are instructions that the word format can hold: at most four prefix words
(02 R51), and an explicit page-0 prefix only on page 0 (02 R48; the pages 1 and 2 carry their PAGE prefix
themselves), and an allocated `sub` field. Events have no words and are well-formed as they stand. -/
namespace Sys2Proof

/-- Whether an instruction stands on page 1 or 2, and its prefixes; none for an event. -/
def Instr.form : Instr → Option (Bool × Pfx)
  | .add p _ => some (false, p)
  | .sub p _ => some (false, p)
  | .and p _ => some (false, p)
  | .or p _ => some (false, p)
  | .xor p _ => some (false, p)
  | .andn p _ => some (false, p)
  | .mov p _ => some (false, p)
  | .shl p _ => some (false, p)
  | .shr p _ => some (false, p)
  | .sar p _ => some (false, p)
  | .mul p _ => some (false, p)
  | .mulh p _ => some (false, p)
  | .mulhn p _ => some (false, p)
  | .div p _ => some (false, p)
  | .divn p _ => some (false, p)
  | .rem p _ => some (false, p)
  | .remn p _ => some (false, p)
  | .min p _ => some (false, p)
  | .minn p _ => some (false, p)
  | .max p _ => some (false, p)
  | .maxn p _ => some (false, p)
  | .clz p _ => some (false, p)
  | .ctz p _ => some (false, p)
  | .popc p _ => some (false, p)
  | .bext p _ => some (false, p)
  | .bins p _ => some (false, p)
  | .cmpEq p _ => some (false, p)
  | .cmpNe p _ => some (false, p)
  | .cmpLt p _ => some (false, p)
  | .cmpGe p _ => some (false, p)
  | .cmpLtn p _ => some (false, p)
  | .cmpGen p _ => some (false, p)
  | .li p _ => some (false, p)
  | .addi p _ => some (false, p)
  | .sel p _ => some (false, p)
  | .br p _ => some (false, p)
  | .brc p _ => some (false, p)
  | .call p _ => some (false, p)
  | .loop p _ => some (false, p)
  | .jmp p _ => some (false, p)
  | .ret p _ => some (false, p)
  | .stop p _ => some (false, p)
  | .nop p _ => some (false, p)
  | .ldSigned p _ => some (false, p)
  | .ldUnsigned p _ => some (false, p)
  | .st p _ => some (false, p)
  | .spldSigned p _ => some (false, p)
  | .spldUnsigned p _ => some (false, p)
  | .spst p _ => some (false, p)
  | .amo p _ => some (false, p)
  | .cas p _ => some (false, p)
  | .famo p _ => some (false, p)
  | .fencePkg p _ => some (false, p)
  | .fenceSys p _ => some (false, p)
  | .qpop p _ => some (false, p)
  | .qpush p _ => some (false, p)
  | .lsend p _ => some (false, p)
  | .lrecv p _ => some (false, p)
  | .rng p _ => some (false, p)
  | .rdid p _ => some (false, p)
  | .csrr p _ => some (false, p)
  | .csrw p _ => some (false, p)
  | .trap p _ => some (false, p)
  | .brk p _ => some (false, p)
  | .eret p _ => some (false, p)
  | .cut p _ => some (false, p)
  | .vadd p _ => some (true, p)
  | .vsub p _ => some (true, p)
  | .vmul p _ => some (true, p)
  | .vfma p _ => some (true, p)
  | .vfms p _ => some (true, p)
  | .vmax p _ => some (true, p)
  | .vmin p _ => some (true, p)
  | .vand p _ => some (true, p)
  | .vor p _ => some (true, p)
  | .vxor p _ => some (true, p)
  | .vshl p _ => some (true, p)
  | .vshr p _ => some (true, p)
  | .vmac p _ => some (true, p)
  | .vcmp p _ _ => some (true, p)
  | .vsel p _ => some (true, p)
  | .vredsum p _ _ => some (true, p)
  | .vredmax p _ _ => some (true, p)
  | .vredmin p _ _ => some (true, p)
  | .vdot p _ _ => some (true, p)
  | .vexp2 p _ => some (true, p)
  | .vlog2 p _ => some (true, p)
  | .vrcp p _ => some (true, p)
  | .vrsqrt p _ => some (true, p)
  | .vsqrt p _ => some (true, p)
  | .vtanh p _ => some (true, p)
  | .vsig p _ => some (true, p)
  | .vsin p _ => some (true, p)
  | .vcos p _ => some (true, p)
  | .vcvt p _ _ => some (true, p)
  | .vqmx p _ _ => some (true, p)
  | .vdqmx p _ => some (true, p)
  | .vqbx p _ _ => some (true, p)
  | .vdqbx p _ => some (true, p)
  | .vtag p _ _ => some (true, p)
  | .vgtag p _ _ => some (true, p)
  | .vmov p _ => some (true, p)
  | .vbcast p _ _ _ => some (true, p)
  | .vperm p _ => some (true, p)
  | .vshuf p _ _ => some (true, p)
  | .vext p _ _ _ => some (true, p)
  | .vins p _ _ _ => some (true, p)
  | .vld p _ _ _ => some (true, p)
  | .vst p _ _ _ => some (true, p)
  | .aaddX p _ _ => some (true, p)
  | .aaddA p _ _ => some (true, p)
  | .ali p _ _ => some (true, p)
  | .amovAx p _ _ => some (true, p)
  | .amovXa p _ _ => some (true, p)
  | .amovMx p _ _ => some (true, p)
  | .amovXm p _ _ => some (true, p)
  | .bcast p _ => some (true, p)
  | .mtgo p _ => some (true, p)
  | .mtjoin p _ => some (true, p)
  | .mtstat p _ _ => some (true, p)
  | .mtres p _ _ => some (true, p)
  | .mtkill p _ => some (true, p)
  | .qwr p _ => some (true, p)
  | .qrd p _ => some (true, p)
  | .gang p _ => some (true, p)
  | .split p _ => some (true, p)
  | .ctpl p _ _ => some (true, p)
  | .cwait p _ => some (true, p)
  | .cread p _ _ => some (true, p)
  | .cset p _ => some (true, p)
  | .wmrd p _ => some (true, p)
  | .epush p _ => some (true, p)
  | .epop p _ => some (true, p)
  | .msetA p _ => some (true, p)
  | .msetB p _ => some (true, p)
  | .msetOp p _ => some (true, p)
  | .mgo p _ => some (true, p)
  | .mzero p _ => some (true, p)
  | .mrd p _ => some (true, p)
  | .mwr p _ => some (true, p)
  | .msclSet p _ => some (true, p)
  | .msclRd p _ => some (true, p)
  | .msclClr p _ => some (true, p)
  | .gemvh p _ => some (true, p)
  | .barinit p _ => some (true, p)
  | .barv p _ => some (true, p)
  | .barw p _ => some (true, p)
  | .dsync p _ => some (true, p)
  | .dmemCl p _ => some (true, p)
  | .dmemDie p _ => some (true, p)
  | .dmemPkg p _ => some (true, p)
  | .ldsh p _ _ _ => some (true, p)
  | .stsh p _ _ => some (true, p)
  | .shfence p _ => some (true, p)
  | .feld p _ _ => some (true, p)
  | .fest p _ _ => some (true, p)
  | .netpost p _ => some (true, p)
  | .netpostM p _ => some (true, p)
  | .tlbiPage p _ => some (true, p)
  | .tlbiAsid p _ => some (true, p)
  | .tlbiAll p _ => some (true, p)
  | .tlbiWbinv p _ => some (true, p)
  | .chkcfgLen p _ => some (true, p)
  | .chkcfgStat p _ => some (true, p)
  | .chkcfgOrder p _ => some (true, p)
  | .seedrd p _ => some (true, p)
  | .seedrdDepth p _ => some (true, p)
  | .digrd p _ => some (true, p)
  | .digrdQ p _ => some (true, p)
  | .fqRplReady _ => none
  | .fqRplDecline _ => none
  | .stwSend1 _ => none
  | .stwFwd _ => none
  | .stwRun _ => none
  | .cqTailWrite _ => none
  | .featureNegotiation => none
  | .powerAverageCheck _ => none
  | .torusMessageDeliver _ => none
  | .errorDetect _ => none
  | .selfTestEnd _ => none
  | .coreMapWrite _ => none
  | .bootCtlClr _ => none
  | .packageReset _ => none
  | .dbgCmdResume _ => none
  | .dbgCmdHalt _ => none
  | .dbgCmdStep _ => none
  | .attn _ => none
  | .hostWrite _ _ _ => none
  | .peerLoad _ => none
  | .bundleRequest _ => none
  | .bundleAck _ => none
  | .leaseWrite _ => none
  | .grantRevoke _ => none
  | .leaseNotice _ => none
  | .leaseClose _ => none
  | .netPacketArrive _ => none
  | .netAck _ => none
  | .registerWrite _ _ => none
  | .illegalEncoding _ => none
  | .thermalThrottling _ => none
  | .dynamicCapacityEvent _ => none
  | .errorResponse _ => none
  | .shfenceMessage _ => none
  | .shfenceAck _ => none
  | .farResultArrive => none
  | .admitEntry => none
  | .mtBeginEntry => none
  | .mtjoinComplete => none
  | .queueStallRelease => none
  | .taskInstanceEnd => none
  | .chunkCut => none
  | .commitRequest => none
  | .writeSignatureArrive => none
  | .commitFinish => none
  | .reservationRequest => none
  | .reservationGrant => none
  | .lateralWaitTimeout => none
  | .lateralWaitRelease => none
  | .steppedTrap => none
  | .cutWatchdog => none
  | .gangForm => none
  | .contextSwitch => none
  | .streaminComplete => none
  | .drainComplete => none
  | .streamoutComplete => none
  | .quantumExpiry => none
  | .pageFaultPark => none
  | .faultRecordPost => none
  | .l2MissTranslate => none
  | .tlbiComplete => none
  | .farAtomicApply => none
  | .detUpdateArrive => none
  | .detPhaseApply => none
  | .copyLineWrite => none
  | .copyComplete => none
  | .engineFault => none
  | .resumePacket => none
  | .abandonPacket => none
  | .stewardHalt => none
  | .gatherElement => none
  | .rowBarrierClose => none
  | .rowBarrierTimeout => none
  | .exponentRecord => none
  | .mgoComplete => none
  | .mzeroExecute => none
  | .mrdExecute => none
  | .mwrExecute => none
  | .msclClrExecute => none
  | .gemvhExecute => none
  | .barrierWake => none
  | .barwTimeout => none
  | .dsyncArrival => none
  | .phaseEndReceive => none
  | .dmemRelease => none
  | .scrubPass => none
  | .scrubWrite => none
  | .refreshInterval => none
  | .heartbeat => none
  | .refreshTakeover => none
  | .packetHeaderCheck => none
  | .packetBegin => none
  | .packetComplete => none
  | .launchPlace => none
  | .launchComplete => none
  | .launchAging => none
  | .passedOverLimit => none
  | .replayHoldTimeout => none
  | .pcSample => none
  | .traceFull => none
  | .linkRequestTimeout => none
  | .bundleStagingTimeout => none
  | .feOperation => none
  | .feRetry => none
  | .feRetryTimeout => none
  | .feWithdraw => none
  | .leaseNoticeExpiry => none
  | .netRequestStart => none
  | .netAckTimer => none
  | .netRetxTimeout => none
  | .netRnr => none
  | .netConnectionTimeout => none
  | .rnrTimeout => none

/-- The number of prefix words of a chain (02 R51). -/
def Pfx.count (paged : Bool) (p : Pfx) : Nat :=
  p.imms.length + p.reg.toList.length + p.md.toList.length +
    (if paged then 1 else p.pg.toList.length)

/-- The `sub` field is one that the major allocates (02 R65; 03 R93, R95, R96, R99). -/
def Instr.subOk : Instr → Bool
  | .ldUnsigned _ f => f.z != 3
  | .spldUnsigned _ f => f.z != 3
  | .amo _ f => decide (f.z.toNat < 2)
  | .cas _ f => decide (f.z.toNat < 2)
  | .famo _ f => f.z != 3
  | _ => true

/-- The term is one that the encoding can hold. -/
def Instr.wellFormed (i : Instr) : Bool :=
  match i.form with
  | none => true
  | some (paged, p) => decide (p.count paged ≤ 4) && (!paged || p.pg.isNone) && i.subOk

/-- The instruction has words of its own and is well-formed (02 R42, R51). -/
def Instr.encodable (i : Instr) : Bool := i.form.isSome && i.wellFormed

end Sys2Proof
end

