-- ==== Sys2Proof/Decode.lean ====
section
/-! DEFINITION. Decoding of a halfword stream (02 R42–R51, R63 items 2–8, R65–R67) and the encoder written from the
same tables. The decoder is total: what is no instruction becomes `illegalEncoding` with the cause of R63. -/
namespace Sys2Proof

/-! ## Fields of a base word (02 R42) -/

/-- Field `d`. -/
def fD (w : Half) : BitVec 4 := w.extractLsb' 6 4
/-- Field `s`. -/
def fS (w : Half) : BitVec 4 := w.extractLsb' 2 4
/-- Field `sub`. -/
def fZ (w : Half) : BitVec 2 := w.extractLsb' 0 2
/-- Fields of form A. -/
def fA (w : Half) : FA := ⟨fD w, fS w⟩
/-- Fields of form A with `sub`. -/
def fAZ (w : Half) : FAZ := ⟨fD w, fS w, fZ w⟩
/-- Fields of form I. -/
def fI (w : Half) : FI := ⟨fD w, w.extractLsb' 0 6⟩
/-- Field `off10` of form B. -/
def fO (w : Half) : BitVec 10 := w.extractLsb' 0 10
/-- Fields of form V with the rounding field `r`. -/
def fV (w : Half) (r : BitVec 3) : FV :=
  ⟨w.extractLsb' 7 3, w.extractLsb' 4 3, w.extractLsb' 1 3, w.extractLsb' 0 1, r⟩
/-- The major opcode. -/
def fMaj (w : Half) : BitVec 6 := w.extractLsb' 10 6

/-! ## Base words (02 R42), for the encoder -/

/-- Form A with a fixed `sub`. -/
def wA (m : BitVec 6) (f : FA) (z : BitVec 2) : Half := m ++ f.d ++ f.s ++ z
/-- Form A with its own `sub`. -/
def wZ (m : BitVec 6) (f : FAZ) : Half := m ++ f.d ++ f.s ++ f.z
/-- Form I. -/
def wI (m : BitVec 6) (f : FI) : Half := m ++ f.d ++ f.i
/-- Form B. -/
def wB (m : BitVec 6) (o : BitVec 10) : Half := m ++ o
/-- Form V. -/
def wV (m : BitVec 6) (f : FV) : Half := m ++ f.d ++ f.a ++ f.b ++ f.h

/-! ## Prefix words (02 R45) -/

/-- A word is a prefix when bits 15:13 are 0b111. -/
def isPfx (w : Half) : Bool := w.extractLsb' 13 3 == 7
/-- The kind of a prefix word: 0 IMM, 1 REG, 2 PAGE, 3 MOD. -/
def pfxKind (w : Half) : BitVec 2 := w.extractLsb' 11 2
/-- The payload of a prefix word. -/
def pfxPay (w : Half) : BitVec 11 := w.extractLsb' 0 11
/-- A prefix word of a kind. -/
def wP (k : BitVec 2) (pay : BitVec 11) : Half := 7#3 ++ k ++ pay
/-- PAGE payload: page 0 with an extension. -/
def pg0 (e : BitVec 9) : BitVec 11 := 0#2 ++ e
/-- PAGE payload: page 1 with rounding field and sub-operation (02 R48). -/
def pg1 (r : BitVec 3) (t : BitVec 6) : BitVec 11 := 1#2 ++ r ++ t
/-- PAGE payload: page 2 with sub-operation. -/
def pg2 (e : BitVec 9) : BitVec 11 := 2#2 ++ e

/-! ## The opcode map (02 R65–R67) -/

/-- Page 0 (02 R65). -/
def page0 (p : Pfx) (w : Half) : Except Cause Instr :=
  match (fMaj w).toNat with
  | 0x1 => match (fZ w).toNat with | 0 => .ok (.add p (fA w)) | 1 => .ok (.sub p (fA w)) | 2 => .ok (.and p (fA w)) | _ => .ok (.or p (fA w))
  | 0x2 => match (fZ w).toNat with | 0 => .ok (.xor p (fA w)) | 1 => .ok (.andn p (fA w)) | 2 => .ok (.mov p (fA w)) | _ => .error 0x01
  | 0x3 => match (fZ w).toNat with | 0 => .ok (.shl p (fA w)) | 1 => .ok (.shr p (fA w)) | 2 => .ok (.sar p (fA w)) | _ => .error 0x01
  | 0x4 => match (fZ w).toNat with | 0 => .ok (.mul p (fA w)) | 1 => .ok (.mulh p (fA w)) | 2 => .ok (.mulhn p (fA w)) | _ => .error 0x01
  | 0x5 => match (fZ w).toNat with | 0 => .ok (.div p (fA w)) | 1 => .ok (.divn p (fA w)) | 2 => .ok (.rem p (fA w)) | _ => .ok (.remn p (fA w))
  | 0x6 => match (fZ w).toNat with | 0 => .ok (.min p (fA w)) | 1 => .ok (.minn p (fA w)) | 2 => .ok (.max p (fA w)) | _ => .ok (.maxn p (fA w))
  | 0x7 => match (fZ w).toNat with | 0 => .ok (.clz p (fA w)) | 1 => .ok (.ctz p (fA w)) | 2 => .ok (.popc p (fA w)) | _ => .error 0x01
  | 0x8 => match (fZ w).toNat with | 0 => .ok (.bext p (fA w)) | 1 => .ok (.bins p (fA w)) | _ => .error 0x01
  | 0x9 => match (fZ w).toNat with | 0 => .ok (.cmpEq p (fA w)) | 1 => .ok (.cmpNe p (fA w)) | 2 => .ok (.cmpLt p (fA w)) | _ => .ok (.cmpGe p (fA w))
  | 0xa => match (fZ w).toNat with | 0 => .ok (.cmpLtn p (fA w)) | 1 => .ok (.cmpGen p (fA w)) | _ => .error 0x01
  | 0xb => .ok (.li p (fI w))
  | 0xc => .ok (.addi p (fI w))
  | 0xd => match (fZ w).toNat with | 0 => .ok (.sel p (fA w)) | _ => .error 0x01
  | 0x10 => .ok (.br p (fO w))
  | 0x11 => .ok (.brc p (fI w))
  | 0x12 => .ok (.call p (fO w))
  | 0x13 => .ok (.loop p (fI w))
  | 0x14 => match (fZ w).toNat with | 0 => .ok (.jmp p (fA w)) | 1 => .ok (.ret p (fA w)) | 2 => .ok (.stop p (fA w)) | _ => .ok (.nop p (fA w))
  | 0x18 => .ok (.ldSigned p (fAZ w))
  | 0x19 => if (fZ w).toNat < 3 then .ok (.ldUnsigned p (fAZ w)) else .error 0x01
  | 0x1a => .ok (.st p (fAZ w))
  | 0x1b => .ok (.spldSigned p (fAZ w))
  | 0x1c => if (fZ w).toNat < 3 then .ok (.spldUnsigned p (fAZ w)) else .error 0x01
  | 0x1d => .ok (.spst p (fAZ w))
  | 0x1e => if (fZ w).toNat < 2 then .ok (.amo p (fAZ w)) else .error 0x01
  | 0x1f => if (fZ w).toNat < 2 then .ok (.cas p (fAZ w)) else .error 0x01
  | 0x20 => if (fZ w).toNat < 3 then .ok (.famo p (fAZ w)) else .error 0x01
  | 0x21 => match (fZ w).toNat with | 0 => .ok (.fencePkg p (fA w)) | 1 => .ok (.fenceSys p (fA w)) | _ => .error 0x01
  | 0x22 => match (fZ w).toNat with | 0 => .ok (.qpop p (fA w)) | 1 => .ok (.qpush p (fA w)) | 2 => .ok (.lsend p (fA w)) | _ => .ok (.lrecv p (fA w))
  | 0x23 => .ok (.rng p (fI w))
  | 0x24 => .ok (.rdid p (fI w))
  | 0x25 => .ok (.csrr p (fI w))
  | 0x26 => .ok (.csrw p (fI w))
  | 0x27 => .ok (.trap p (fI w))
  | 0x28 => match (fZ w).toNat with | 0 => .ok (.brk p (fA w)) | 1 => .ok (.eret p (fA w)) | 2 => .ok (.cut p (fA w)) | _ => .error 0x01
  | _ => .error 0x00

/-- Page 1 (02 R66): `r` is the rounding field, `t` the sub-operation. -/
def page1 (p : Pfx) (r : BitVec 3) (t : BitVec 6) (w : Half) : Except Cause Instr :=
  match (fMaj w).toNat with
  | 0x1 => if t = 0 then .ok (.vadd p (fV w r)) else .error 0x01
  | 0x2 => if t = 0 then .ok (.vsub p (fV w r)) else .error 0x01
  | 0x3 => if t = 0 then .ok (.vmul p (fV w r)) else .error 0x01
  | 0x4 => if t = 0 then .ok (.vfma p (fV w r)) else .error 0x01
  | 0x5 => if t = 0 then .ok (.vfms p (fV w r)) else .error 0x01
  | 0x6 => if t = 0 then .ok (.vmax p (fV w r)) else .error 0x01
  | 0x7 => if t = 0 then .ok (.vmin p (fV w r)) else .error 0x01
  | 0x8 => if t = 0 then .ok (.vand p (fV w r)) else .error 0x01
  | 0x9 => if t = 0 then .ok (.vor p (fV w r)) else .error 0x01
  | 0xa => if t = 0 then .ok (.vxor p (fV w r)) else .error 0x01
  | 0xb => if t = 0 then .ok (.vshl p (fV w r)) else .error 0x01
  | 0xc => if t = 0 then .ok (.vshr p (fV w r)) else .error 0x01
  | 0xd => if t = 0 then .ok (.vmac p (fV w r)) else .error 0x01
  | 0xe => .ok (.vcmp p (fV w r) t)
  | 0xf => if t = 0 then .ok (.vsel p (fV w r)) else .error 0x01
  | 0x10 => if t.toNat < 2 then .ok (.vredsum p (fV w r) (t.extractLsb' 0 1)) else .error 0x01
  | 0x11 => if t.toNat < 2 then .ok (.vredmax p (fV w r) (t.extractLsb' 0 1)) else .error 0x01
  | 0x12 => if t.toNat < 2 then .ok (.vredmin p (fV w r) (t.extractLsb' 0 1)) else .error 0x01
  | 0x13 => if t.toNat < 2 then .ok (.vdot p (fV w r) (t.extractLsb' 0 1)) else .error 0x01
  | 0x14 => if t = 0 then .ok (.vexp2 p (fV w r)) else .error 0x01
  | 0x15 => if t = 0 then .ok (.vlog2 p (fV w r)) else .error 0x01
  | 0x16 => if t = 0 then .ok (.vrcp p (fV w r)) else .error 0x01
  | 0x17 => if t = 0 then .ok (.vrsqrt p (fV w r)) else .error 0x01
  | 0x18 => if t = 0 then .ok (.vsqrt p (fV w r)) else .error 0x01
  | 0x19 => if t = 0 then .ok (.vtanh p (fV w r)) else .error 0x01
  | 0x1a => if t = 0 then .ok (.vsig p (fV w r)) else .error 0x01
  | 0x1b => if t = 0 then .ok (.vsin p (fV w r)) else .error 0x01
  | 0x1c => if t = 0 then .ok (.vcos p (fV w r)) else .error 0x01
  | 0x1d => if t.toNat < 2 then .ok (.vcvt p (fV w r) (t.extractLsb' 0 1)) else .error 0x01
  | 0x1e => if t.toNat < 2 then .ok (.vqmx p (fV w r) (t.extractLsb' 0 1)) else .error 0x01
  | 0x1f => if t = 0 then .ok (.vdqmx p (fV w r)) else .error 0x01
  | 0x20 => if t.toNat < 2 then .ok (.vqbx p (fV w r) (t.extractLsb' 0 1)) else .error 0x01
  | 0x21 => if t = 0 then .ok (.vdqbx p (fV w r)) else .error 0x01
  | 0x22 => .ok (.vtag p (fV w r) t)
  | 0x23 => if t = 0 then .ok (.vgtag p (fAZ w) r) else .error 0x01
  | 0x24 => if t = 0 then .ok (.vmov p (fV w r)) else .error 0x01
  | 0x25 => .ok (.vbcast p (fAZ w) r t)
  | 0x26 => if t = 0 then .ok (.vperm p (fV w r)) else .error 0x01
  | 0x27 => if t.toNat < 4 then .ok (.vshuf p (fV w r) (t.extractLsb' 0 2)) else .error 0x01
  | 0x28 => .ok (.vext p (fAZ w) r t)
  | 0x29 => .ok (.vins p (fAZ w) r t)
  | 0x2a => .ok (.vld p (fAZ w) r t)
  | 0x2b => .ok (.vst p (fAZ w) r t)
  | 0x2c => if t = 0 then (match (fZ w).toNat with | 0 => .ok (.aaddX p (fA w) r) | 1 => .ok (.aaddA p (fA w) r) | _ => .error 0x01) else .error 0x01
  | 0x2d => if t = 0 then .ok (.ali p (fI w) r) else .error 0x01
  | 0x2e => if t = 0 then (match (fZ w).toNat with | 0 => .ok (.amovAx p (fA w) r) | 1 => .ok (.amovXa p (fA w) r) | 2 => .ok (.amovMx p (fA w) r) | _ => .ok (.amovXm p (fA w) r)) else .error 0x01
  | _ => .error 0x00

/-- Page 2 (02 R67): `e` is the sub-operation. -/
def page2 (p : Pfx) (e : BitVec 9) (w : Half) : Except Cause Instr :=
  match (fMaj w).toNat with
  | 0x1 => if e = 0 then .ok (.bcast p (fI w)) else .error 0x01
  | 0x2 => if e = 0 then .ok (.mtgo p (fI w)) else .error 0x01
  | 0x3 => if e = 0 then .ok (.mtjoin p (fAZ w)) else .error 0x01
  | 0x4 => if e.toNat < 8 then .ok (.mtstat p (fAZ w) (e.extractLsb' 0 3)) else .error 0x01
  | 0x5 => if e.toNat < 2 then .ok (.mtres p (fAZ w) (e.extractLsb' 0 1)) else .error 0x01
  | 0x6 => if e = 0 then .ok (.mtkill p (fAZ w)) else .error 0x01
  | 0x7 => if e = 0 then .ok (.qwr p (fAZ w)) else .error 0x01
  | 0x8 => if e = 0 then .ok (.qrd p (fAZ w)) else .error 0x01
  | 0x9 => if e = 0 then .ok (.gang p (fI w)) else .error 0x01
  | 0xa => if e = 0 then .ok (.split p (fAZ w)) else .error 0x01
  | 0xb => if e.toNat < 2 then .ok (.ctpl p (fAZ w) (e.extractLsb' 0 1)) else .error 0x01
  | 0xc => if e = 0 then .ok (.cwait p (fI w)) else .error 0x01
  | 0xd => if e.toNat < 4 then .ok (.cread p (fAZ w) (e.extractLsb' 0 2)) else .error 0x01
  | 0xe => if e = 0 then .ok (.cset p (fAZ w)) else .error 0x01
  | 0xf => if e = 0 then .ok (.wmrd p (fAZ w)) else .error 0x01
  | 0x10 => if e = 0 then .ok (.epush p (fAZ w)) else .error 0x01
  | 0x11 => if e = 0 then .ok (.epop p (fAZ w)) else .error 0x01
  | 0x12 => match e.toNat with | 0 => .ok (.msetA p (fAZ w)) | 1 => .ok (.msetB p (fAZ w)) | 2 => .ok (.msetOp p (fAZ w)) | _ => .error 0x01
  | 0x13 => if e = 0 then .ok (.mgo p (fAZ w)) else .error 0x01
  | 0x14 => if e = 0 then .ok (.mzero p (fAZ w)) else .error 0x01
  | 0x15 => if e = 0 then .ok (.mrd p (fAZ w)) else .error 0x01
  | 0x16 => if e = 0 then .ok (.mwr p (fAZ w)) else .error 0x01
  | 0x17 => match e.toNat with | 0 => .ok (.msclSet p (fAZ w)) | 1 => .ok (.msclRd p (fAZ w)) | 2 => .ok (.msclClr p (fAZ w)) | _ => .error 0x01
  | 0x18 => if e = 0 then .ok (.gemvh p (fAZ w)) else .error 0x01
  | 0x19 => if e = 0 then .ok (.barinit p (fAZ w)) else .error 0x01
  | 0x1a => if e = 0 then .ok (.barv p (fI w)) else .error 0x01
  | 0x1b => if e = 0 then .ok (.barw p (fAZ w)) else .error 0x01
  | 0x1c => if e = 0 then .ok (.dsync p (fI w)) else .error 0x01
  | 0x1d => match e.toNat with | 1 => .ok (.dmemCl p (fAZ w)) | 2 => .ok (.dmemDie p (fAZ w)) | 3 => .ok (.dmemPkg p (fAZ w)) | _ => .error 0x01
  | 0x1e => if e.toNat < 128 then .ok (.ldsh p (fAZ w) (e.extractLsb' 6 1) (e.extractLsb' 0 6)) else .error 0x01
  | 0x1f => if e.toNat < 64 then .ok (.stsh p (fAZ w) (e.extractLsb' 0 6)) else .error 0x01
  | 0x20 => if e = 0 then .ok (.shfence p (fI w)) else .error 0x01
  | 0x21 => if e.toNat < 4 then .ok (.feld p (fAZ w) (e.extractLsb' 0 2)) else .error 0x01
  | 0x22 => if e.toNat < 8 then .ok (.fest p (fAZ w) (e.extractLsb' 0 3)) else .error 0x01
  | 0x23 => match e.toNat with | 0 => .ok (.netpost p (fAZ w)) | 1 => .ok (.netpostM p (fAZ w)) | _ => .error 0x01
  | 0x24 => match e.toNat with | 0 => .ok (.tlbiPage p (fAZ w)) | 1 => .ok (.tlbiAsid p (fAZ w)) | 2 => .ok (.tlbiAll p (fAZ w)) | 3 => .ok (.tlbiWbinv p (fAZ w)) | _ => .error 0x01
  | 0x25 => match e.toNat with | 0 => .ok (.chkcfgLen p (fAZ w)) | 1 => .ok (.chkcfgStat p (fAZ w)) | 2 => .ok (.chkcfgOrder p (fAZ w)) | _ => .error 0x01
  | 0x26 => match e.toNat with | 0 => .ok (.seedrd p (fAZ w)) | 1 => .ok (.seedrdDepth p (fAZ w)) | _ => .error 0x01
  | 0x27 => match e.toNat with | 0 => .ok (.digrd p (fAZ w)) | 1 => .ok (.digrdQ p (fAZ w)) | _ => .error 0x01
  | _ => .error 0x00

/-! ## The chain -/

/-- The prefix words before the base word, at most `fuel` of them, and the base word if it was reached. -/
def scanChain : Nat → List Half → List Half × Option Half
  | 0, _ => ([], none)
  | _ + 1, [] => ([], none)
  | n + 1, w :: r =>
    if isPfx w then
      let c := scanChain n r
      (w :: c.1, c.2)
    else ([], some w)

/-- The payloads of the prefixes of one kind, in chain order. -/
def payloads (k : BitVec 2) (c : List Half) : List (BitVec 11) :=
  (c.filter (fun w => pfxKind w == k)).map pfxPay

/-- The prefixes other than PAGE; `pg` is the extension of a PAGE prefix that selects page 0. -/
def pfxOf (c : List Half) (pg : Option (BitVec 9)) : Pfx :=
  ⟨payloads 0 c, (payloads 1 c).head?, (payloads 3 c).head?, pg⟩

/-- Page, major and sub-operation (02 R63 items 6–8). -/
def decodeBase (c : List Half) (w : Half) : Except Cause Instr :=
  match (payloads 2 c).head? with
  | none => page0 (pfxOf c none) w
  | some g =>
    let e : BitVec 9 := g.extractLsb' 0 9
    match (g.extractLsb' 9 2).toNat with
    | 0 => page0 (pfxOf c (some e)) w
    | 1 => page1 (pfxOf c none) (e.extractLsb' 6 3) (e.extractLsb' 0 6) w
    | 2 => page2 (pfxOf c none) e w
    | _ => .error 0x02

/-- A prefix kind other than IMM stands more than once (02 R51). -/
def repeatedKind (c : List Half) : Bool :=
  decide (1 < (payloads 1 c).length) || decide (1 < (payloads 2 c).length) || decide (1 < (payloads 3 c).length)

/-- The instruction that begins a list of halfwords, and the number of halfwords it takes. `ws` runs to the end of the
block body; `park` tells whether a park point stands after the k-th of these halfwords. The checks are items 2 to 8 of
02 R63, in its order; a chain that breaks a rule takes the halfwords it was seen in. -/
def decode (ws : List Half) (park : Nat → Bool) : Instr × Nat :=
  let c := scanChain 5 ws
  let n := c.1.length
  if 4 < n then (.illegalEncoding 0x03, n)
  else if repeatedKind c.1 then (.illegalEncoding 0x04, n)
  else match c.2 with
    | none => (.illegalEncoding 0x05, n)
    | some w =>
      if (List.range n).any (fun k => park (k + 1)) then (.illegalEncoding 0x0C, n + 1)
      else match decodeBase c.1 w with
        | .ok i => (i, n + 1)
        | .error e => (.illegalEncoding e, n + 1)

/-! ## The encoder (02 R72: PAGE, REG, MOD, then IMM) -/

/-- The PAGE payload, the other prefixes and the base word of an instruction; none for an event. -/
def Instr.words : Instr → Option (Option (BitVec 11) × Pfx × Half)
  | .add p f => some (p.pg.map pg0, p, wA 0x1 f 0)
  | .sub p f => some (p.pg.map pg0, p, wA 0x1 f 1)
  | .and p f => some (p.pg.map pg0, p, wA 0x1 f 2)
  | .or p f => some (p.pg.map pg0, p, wA 0x1 f 3)
  | .xor p f => some (p.pg.map pg0, p, wA 0x2 f 0)
  | .andn p f => some (p.pg.map pg0, p, wA 0x2 f 1)
  | .mov p f => some (p.pg.map pg0, p, wA 0x2 f 2)
  | .shl p f => some (p.pg.map pg0, p, wA 0x3 f 0)
  | .shr p f => some (p.pg.map pg0, p, wA 0x3 f 1)
  | .sar p f => some (p.pg.map pg0, p, wA 0x3 f 2)
  | .mul p f => some (p.pg.map pg0, p, wA 0x4 f 0)
  | .mulh p f => some (p.pg.map pg0, p, wA 0x4 f 1)
  | .mulhn p f => some (p.pg.map pg0, p, wA 0x4 f 2)
  | .div p f => some (p.pg.map pg0, p, wA 0x5 f 0)
  | .divn p f => some (p.pg.map pg0, p, wA 0x5 f 1)
  | .rem p f => some (p.pg.map pg0, p, wA 0x5 f 2)
  | .remn p f => some (p.pg.map pg0, p, wA 0x5 f 3)
  | .min p f => some (p.pg.map pg0, p, wA 0x6 f 0)
  | .minn p f => some (p.pg.map pg0, p, wA 0x6 f 1)
  | .max p f => some (p.pg.map pg0, p, wA 0x6 f 2)
  | .maxn p f => some (p.pg.map pg0, p, wA 0x6 f 3)
  | .clz p f => some (p.pg.map pg0, p, wA 0x7 f 0)
  | .ctz p f => some (p.pg.map pg0, p, wA 0x7 f 1)
  | .popc p f => some (p.pg.map pg0, p, wA 0x7 f 2)
  | .bext p f => some (p.pg.map pg0, p, wA 0x8 f 0)
  | .bins p f => some (p.pg.map pg0, p, wA 0x8 f 1)
  | .cmpEq p f => some (p.pg.map pg0, p, wA 0x9 f 0)
  | .cmpNe p f => some (p.pg.map pg0, p, wA 0x9 f 1)
  | .cmpLt p f => some (p.pg.map pg0, p, wA 0x9 f 2)
  | .cmpGe p f => some (p.pg.map pg0, p, wA 0x9 f 3)
  | .cmpLtn p f => some (p.pg.map pg0, p, wA 0xa f 0)
  | .cmpGen p f => some (p.pg.map pg0, p, wA 0xa f 1)
  | .li p f => some (p.pg.map pg0, p, wI 0xb f)
  | .addi p f => some (p.pg.map pg0, p, wI 0xc f)
  | .sel p f => some (p.pg.map pg0, p, wA 0xd f 0)
  | .br p o => some (p.pg.map pg0, p, wB 0x10 o)
  | .brc p f => some (p.pg.map pg0, p, wI 0x11 f)
  | .call p o => some (p.pg.map pg0, p, wB 0x12 o)
  | .loop p f => some (p.pg.map pg0, p, wI 0x13 f)
  | .jmp p f => some (p.pg.map pg0, p, wA 0x14 f 0)
  | .ret p f => some (p.pg.map pg0, p, wA 0x14 f 1)
  | .stop p f => some (p.pg.map pg0, p, wA 0x14 f 2)
  | .nop p f => some (p.pg.map pg0, p, wA 0x14 f 3)
  | .ldSigned p f => some (p.pg.map pg0, p, wZ 0x18 f)
  | .ldUnsigned p f => some (p.pg.map pg0, p, wZ 0x19 f)
  | .st p f => some (p.pg.map pg0, p, wZ 0x1a f)
  | .spldSigned p f => some (p.pg.map pg0, p, wZ 0x1b f)
  | .spldUnsigned p f => some (p.pg.map pg0, p, wZ 0x1c f)
  | .spst p f => some (p.pg.map pg0, p, wZ 0x1d f)
  | .amo p f => some (p.pg.map pg0, p, wZ 0x1e f)
  | .cas p f => some (p.pg.map pg0, p, wZ 0x1f f)
  | .famo p f => some (p.pg.map pg0, p, wZ 0x20 f)
  | .fencePkg p f => some (p.pg.map pg0, p, wA 0x21 f 0)
  | .fenceSys p f => some (p.pg.map pg0, p, wA 0x21 f 1)
  | .qpop p f => some (p.pg.map pg0, p, wA 0x22 f 0)
  | .qpush p f => some (p.pg.map pg0, p, wA 0x22 f 1)
  | .lsend p f => some (p.pg.map pg0, p, wA 0x22 f 2)
  | .lrecv p f => some (p.pg.map pg0, p, wA 0x22 f 3)
  | .rng p f => some (p.pg.map pg0, p, wI 0x23 f)
  | .rdid p f => some (p.pg.map pg0, p, wI 0x24 f)
  | .csrr p f => some (p.pg.map pg0, p, wI 0x25 f)
  | .csrw p f => some (p.pg.map pg0, p, wI 0x26 f)
  | .trap p f => some (p.pg.map pg0, p, wI 0x27 f)
  | .brk p f => some (p.pg.map pg0, p, wA 0x28 f 0)
  | .eret p f => some (p.pg.map pg0, p, wA 0x28 f 1)
  | .cut p f => some (p.pg.map pg0, p, wA 0x28 f 2)
  | .vadd p f => some (some (pg1 f.r 0), p, wV 0x1 f)
  | .vsub p f => some (some (pg1 f.r 0), p, wV 0x2 f)
  | .vmul p f => some (some (pg1 f.r 0), p, wV 0x3 f)
  | .vfma p f => some (some (pg1 f.r 0), p, wV 0x4 f)
  | .vfms p f => some (some (pg1 f.r 0), p, wV 0x5 f)
  | .vmax p f => some (some (pg1 f.r 0), p, wV 0x6 f)
  | .vmin p f => some (some (pg1 f.r 0), p, wV 0x7 f)
  | .vand p f => some (some (pg1 f.r 0), p, wV 0x8 f)
  | .vor p f => some (some (pg1 f.r 0), p, wV 0x9 f)
  | .vxor p f => some (some (pg1 f.r 0), p, wV 0xa f)
  | .vshl p f => some (some (pg1 f.r 0), p, wV 0xb f)
  | .vshr p f => some (some (pg1 f.r 0), p, wV 0xc f)
  | .vmac p f => some (some (pg1 f.r 0), p, wV 0xd f)
  | .vcmp p f t => some (some (pg1 f.r t), p, wV 0xe f)
  | .vsel p f => some (some (pg1 f.r 0), p, wV 0xf f)
  | .vredsum p f o => some (some (pg1 f.r (o.zeroExtend 6)), p, wV 0x10 f)
  | .vredmax p f o => some (some (pg1 f.r (o.zeroExtend 6)), p, wV 0x11 f)
  | .vredmin p f o => some (some (pg1 f.r (o.zeroExtend 6)), p, wV 0x12 f)
  | .vdot p f o => some (some (pg1 f.r (o.zeroExtend 6)), p, wV 0x13 f)
  | .vexp2 p f => some (some (pg1 f.r 0), p, wV 0x14 f)
  | .vlog2 p f => some (some (pg1 f.r 0), p, wV 0x15 f)
  | .vrcp p f => some (some (pg1 f.r 0), p, wV 0x16 f)
  | .vrsqrt p f => some (some (pg1 f.r 0), p, wV 0x17 f)
  | .vsqrt p f => some (some (pg1 f.r 0), p, wV 0x18 f)
  | .vtanh p f => some (some (pg1 f.r 0), p, wV 0x19 f)
  | .vsig p f => some (some (pg1 f.r 0), p, wV 0x1a f)
  | .vsin p f => some (some (pg1 f.r 0), p, wV 0x1b f)
  | .vcos p f => some (some (pg1 f.r 0), p, wV 0x1c f)
  | .vcvt p f o => some (some (pg1 f.r (o.zeroExtend 6)), p, wV 0x1d f)
  | .vqmx p f o => some (some (pg1 f.r (o.zeroExtend 6)), p, wV 0x1e f)
  | .vdqmx p f => some (some (pg1 f.r 0), p, wV 0x1f f)
  | .vqbx p f o => some (some (pg1 f.r (o.zeroExtend 6)), p, wV 0x20 f)
  | .vdqbx p f => some (some (pg1 f.r 0), p, wV 0x21 f)
  | .vtag p f t => some (some (pg1 f.r t), p, wV 0x22 f)
  | .vgtag p f r => some (some (pg1 r 0), p, wZ 0x23 f)
  | .vmov p f => some (some (pg1 f.r 0), p, wV 0x24 f)
  | .vbcast p f r t => some (some (pg1 r t), p, wZ 0x25 f)
  | .vperm p f => some (some (pg1 f.r 0), p, wV 0x26 f)
  | .vshuf p f o => some (some (pg1 f.r (o.zeroExtend 6)), p, wV 0x27 f)
  | .vext p f r t => some (some (pg1 r t), p, wZ 0x28 f)
  | .vins p f r t => some (some (pg1 r t), p, wZ 0x29 f)
  | .vld p f r t => some (some (pg1 r t), p, wZ 0x2a f)
  | .vst p f r t => some (some (pg1 r t), p, wZ 0x2b f)
  | .aaddX p f r => some (some (pg1 r 0), p, wA 0x2c f 0)
  | .aaddA p f r => some (some (pg1 r 0), p, wA 0x2c f 1)
  | .ali p f r => some (some (pg1 r 0), p, wI 0x2d f)
  | .amovAx p f r => some (some (pg1 r 0), p, wA 0x2e f 0)
  | .amovXa p f r => some (some (pg1 r 0), p, wA 0x2e f 1)
  | .amovMx p f r => some (some (pg1 r 0), p, wA 0x2e f 2)
  | .amovXm p f r => some (some (pg1 r 0), p, wA 0x2e f 3)
  | .bcast p f => some (some (pg2 0), p, wI 0x1 f)
  | .mtgo p f => some (some (pg2 0), p, wI 0x2 f)
  | .mtjoin p f => some (some (pg2 0), p, wZ 0x3 f)
  | .mtstat p f o => some (some (pg2 (o.zeroExtend 9)), p, wZ 0x4 f)
  | .mtres p f o => some (some (pg2 (o.zeroExtend 9)), p, wZ 0x5 f)
  | .mtkill p f => some (some (pg2 0), p, wZ 0x6 f)
  | .qwr p f => some (some (pg2 0), p, wZ 0x7 f)
  | .qrd p f => some (some (pg2 0), p, wZ 0x8 f)
  | .gang p f => some (some (pg2 0), p, wI 0x9 f)
  | .split p f => some (some (pg2 0), p, wZ 0xa f)
  | .ctpl p f o => some (some (pg2 (o.zeroExtend 9)), p, wZ 0xb f)
  | .cwait p f => some (some (pg2 0), p, wI 0xc f)
  | .cread p f o => some (some (pg2 (o.zeroExtend 9)), p, wZ 0xd f)
  | .cset p f => some (some (pg2 0), p, wZ 0xe f)
  | .wmrd p f => some (some (pg2 0), p, wZ 0xf f)
  | .epush p f => some (some (pg2 0), p, wZ 0x10 f)
  | .epop p f => some (some (pg2 0), p, wZ 0x11 f)
  | .msetA p f => some (some (pg2 0), p, wZ 0x12 f)
  | .msetB p f => some (some (pg2 1), p, wZ 0x12 f)
  | .msetOp p f => some (some (pg2 2), p, wZ 0x12 f)
  | .mgo p f => some (some (pg2 0), p, wZ 0x13 f)
  | .mzero p f => some (some (pg2 0), p, wZ 0x14 f)
  | .mrd p f => some (some (pg2 0), p, wZ 0x15 f)
  | .mwr p f => some (some (pg2 0), p, wZ 0x16 f)
  | .msclSet p f => some (some (pg2 0), p, wZ 0x17 f)
  | .msclRd p f => some (some (pg2 1), p, wZ 0x17 f)
  | .msclClr p f => some (some (pg2 2), p, wZ 0x17 f)
  | .gemvh p f => some (some (pg2 0), p, wZ 0x18 f)
  | .barinit p f => some (some (pg2 0), p, wZ 0x19 f)
  | .barv p f => some (some (pg2 0), p, wI 0x1a f)
  | .barw p f => some (some (pg2 0), p, wZ 0x1b f)
  | .dsync p f => some (some (pg2 0), p, wI 0x1c f)
  | .dmemCl p f => some (some (pg2 1), p, wZ 0x1d f)
  | .dmemDie p f => some (some (pg2 2), p, wZ 0x1d f)
  | .dmemPkg p f => some (some (pg2 3), p, wZ 0x1d f)
  | .ldsh p f x h => some (some (pg2 ((x ++ h).zeroExtend 9)), p, wZ 0x1e f)
  | .stsh p f h => some (some (pg2 (h.zeroExtend 9)), p, wZ 0x1f f)
  | .shfence p f => some (some (pg2 0), p, wI 0x20 f)
  | .feld p f m => some (some (pg2 (m.zeroExtend 9)), p, wZ 0x21 f)
  | .fest p f m => some (some (pg2 (m.zeroExtend 9)), p, wZ 0x22 f)
  | .netpost p f => some (some (pg2 0), p, wZ 0x23 f)
  | .netpostM p f => some (some (pg2 1), p, wZ 0x23 f)
  | .tlbiPage p f => some (some (pg2 0), p, wZ 0x24 f)
  | .tlbiAsid p f => some (some (pg2 1), p, wZ 0x24 f)
  | .tlbiAll p f => some (some (pg2 2), p, wZ 0x24 f)
  | .tlbiWbinv p f => some (some (pg2 3), p, wZ 0x24 f)
  | .chkcfgLen p f => some (some (pg2 0), p, wZ 0x25 f)
  | .chkcfgStat p f => some (some (pg2 1), p, wZ 0x25 f)
  | .chkcfgOrder p f => some (some (pg2 2), p, wZ 0x25 f)
  | .seedrd p f => some (some (pg2 0), p, wZ 0x26 f)
  | .seedrdDepth p f => some (some (pg2 1), p, wZ 0x26 f)
  | .digrd p f => some (some (pg2 0), p, wZ 0x27 f)
  | .digrdQ p f => some (some (pg2 1), p, wZ 0x27 f)
  | .fqRplReady _ => none
  | .fqRplDecline _ => none
  | .stwSend1 _ => none
  | .stwFwd _ => none
  | .stwRun _ => none
  | .cqTailWrite _ => none
  | .featureNegotiation => none
  | .powerAverageCheck _ => none
  | .torusMessageDeliver _ => none
  | .errorDetect _ => none
  | .selfTestEnd _ => none
  | .coreMapWrite _ => none
  | .bootCtlClr _ => none
  | .packageReset _ => none
  | .dbgCmdResume _ => none
  | .dbgCmdHalt _ => none
  | .dbgCmdStep _ => none
  | .attn _ => none
  | .hostWrite _ _ _ => none
  | .peerLoad _ => none
  | .bundleRequest _ => none
  | .bundleAck _ => none
  | .leaseWrite _ => none
  | .grantRevoke _ => none
  | .leaseNotice _ => none
  | .leaseClose _ => none
  | .netPacketArrive _ => none
  | .netAck _ => none
  | .registerWrite _ _ => none
  | .illegalEncoding _ => none
  | .thermalThrottling _ => none
  | .dynamicCapacityEvent _ => none
  | .errorResponse _ => none
  | .shfenceMessage _ => none
  | .shfenceAck _ => none
  | .farResultArrive => none
  | .admitEntry => none
  | .mtBeginEntry => none
  | .mtjoinComplete => none
  | .queueStallRelease => none
  | .taskInstanceEnd => none
  | .chunkCut => none
  | .commitRequest => none
  | .writeSignatureArrive => none
  | .commitFinish => none
  | .reservationRequest => none
  | .reservationGrant => none
  | .lateralWaitTimeout => none
  | .lateralWaitRelease => none
  | .steppedTrap => none
  | .cutWatchdog => none
  | .gangForm => none
  | .contextSwitch => none
  | .streaminComplete => none
  | .drainComplete => none
  | .streamoutComplete => none
  | .quantumExpiry => none
  | .pageFaultPark => none
  | .faultRecordPost => none
  | .l2MissTranslate => none
  | .tlbiComplete => none
  | .farAtomicApply => none
  | .detUpdateArrive => none
  | .detPhaseApply => none
  | .copyLineWrite => none
  | .copyComplete => none
  | .engineFault => none
  | .resumePacket => none
  | .abandonPacket => none
  | .stewardHalt => none
  | .gatherElement => none
  | .rowBarrierClose => none
  | .rowBarrierTimeout => none
  | .exponentRecord => none
  | .mgoComplete => none
  | .mzeroExecute => none
  | .mrdExecute => none
  | .mwrExecute => none
  | .msclClrExecute => none
  | .gemvhExecute => none
  | .barrierWake => none
  | .barwTimeout => none
  | .dsyncArrival => none
  | .phaseEndReceive => none
  | .dmemRelease => none
  | .scrubPass => none
  | .scrubWrite => none
  | .refreshInterval => none
  | .heartbeat => none
  | .refreshTakeover => none
  | .packetHeaderCheck => none
  | .packetBegin => none
  | .packetComplete => none
  | .launchPlace => none
  | .launchComplete => none
  | .launchAging => none
  | .passedOverLimit => none
  | .replayHoldTimeout => none
  | .pcSample => none
  | .traceFull => none
  | .linkRequestTimeout => none
  | .bundleStagingTimeout => none
  | .feOperation => none
  | .feRetry => none
  | .feRetryTimeout => none
  | .feWithdraw => none
  | .leaseNoticeExpiry => none
  | .netRequestStart => none
  | .netAckTimer => none
  | .netRetxTimeout => none
  | .netRnr => none
  | .netConnectionTimeout => none
  | .rnrTimeout => none

/-- The prefix words of a chain. -/
def pfxWords (pg : Option (BitVec 11)) (p : Pfx) : List Half :=
  pg.toList.map (wP 2) ++ p.reg.toList.map (wP 1) ++ p.md.toList.map (wP 3) ++ p.imms.map (wP 0)

/-- The halfwords of an instruction, the first at the lowest address. -/
def encode (i : Instr) : List Half :=
  match i.words with
  | none => []
  | some (pg, p, w) => pfxWords pg p ++ [w]

/-- The halfwords of a number, the least significant first. -/
def halvesOf : Nat → Nat → List Half
  | 0, _ => []
  | n + 1, w => BitVec.ofNat 16 w :: halvesOf n (w / 65536)

/-- The instruction that an opcode-table word decodes to; none where the decoder refuses it. The bits above `nbits` are
zero up to the longest instruction, four prefixes and a base word. -/
def decodeTableWord (nbits w : Nat) : Option Instr :=
  let n := nbits / 16
  match (decode (halvesOf n w ++ List.replicate (5 - n) 0) (fun _ => false)).1 with
  | .illegalEncoding _ => none
  | i => some i

end Sys2Proof
end

