-- ==== Sys2Proof/Machine/Formats.lean ====
section
/-! DEFINITION. The format tags (01 R18), their packing into lines and groups (R36) and the place of paired scale bytes
(R37). -/
namespace Sys2Proof.Machine

/-- Tag codes by name (01 R18). -/
abbrev tagRaw : Nat := 0
abbrev tagI8 : Nat := 1
abbrev tagI16 : Nat := 2
abbrev tagI32 : Nat := 3
abbrev tagI64 : Nat := 4
abbrev tagF32 : Nat := 5
abbrev tagF16 : Nat := 6
abbrev tagBf16 : Nat := 7
abbrev tagE4m3 : Nat := 8
abbrev tagE5m2 : Nat := 9
abbrev tagE3m2 : Nat := 10
abbrev tagE2m3 : Nat := 11
abbrev tagE2m1 : Nat := 12
abbrev tagMxi8 : Nat := 13
abbrev tagE8m0 : Nat := 14
abbrev tagBx2 : Nat := 15
abbrev tagBx8 : Nat := 21
abbrev tagAcc : Nat := 22

/-- A code that no line ever holds (01 R18). -/
def tagReserved (t : Nat) : Bool := decide (22 < t)
/-- An integer tag. -/
def tagIsInt (t : Nat) : Bool := decide (1 ≤ t) && decide (t ≤ 4)
/-- FP32, FP16 or BF16. -/
def tagIsFloat (t : Nat) : Bool := decide (5 ≤ t) && decide (t ≤ 7)
/-- An MX element tag (01 R31, R32). -/
def tagIsMx (t : Nat) : Bool := decide (8 ≤ t) && decide (t ≤ 13)
/-- A BX-n tag (01 R35). -/
def tagIsBx (t : Nat) : Bool := decide (15 ≤ t) && decide (t ≤ 21)
/-- The n of a BX-n tag. -/
def bxN (t : Nat) : Nat := t - 13
/-- A plain tag: integers and IEEE-style floats. -/
def tagIsPlain (t : Nat) : Bool := tagIsInt t || tagIsFloat t

/-- Bits of one element (01 R36). -/
def elemBits (t : Nat) : Nat :=
  match t with
  | 0 | 1 | 8 | 9 | 13 | 14 => 8
  | 2 | 6 | 7 => 16
  | 3 | 5 | 22 => 32
  | 4 => 64
  | 10 | 11 => 6
  | 12 => 4
  | _ => if tagIsBx t then bxN t else 8

/-- Group size G in bytes (01 R36). -/
def groupBytes (t : Nat) : Nat :=
  if t = tagE3m2 || t = tagE2m3 then 192 else if tagIsBx t then 64 * bxN t else 64

/-- Lines of a group. -/
def groupLines (t : Nat) : Nat := groupBytes t / 64

/-- Blocks per group B (01 R36); 0 where the tag has no scales. -/
def groupBlocks (t : Nat) : Nat :=
  if t = tagE4m3 || t = tagE5m2 || t = tagMxi8 then 2
  else if t = tagE2m1 then 4
  else if t = tagE3m2 || t = tagE2m3 then 8
  else if tagIsBx t then 32 else 0

/-- Elements of a group. -/
def groupElems (t : Nat) : Nat := groupBytes t * 8 / elemBits t

/-- Elements per block: 32 in MX, 16 in BX. -/
def blockElems (t : Nat) : Nat := if tagIsBx t then 16 else 32

/-- Element j of a group given as one little-endian number (01 R36). In BX-n, bit p of the mantissa is bit j of line p. -/
def elemOf (t : Nat) (g : Nat) (j : Nat) : Nat :=
  if tagIsBx t then
    (List.range (bxN t)).foldl (fun a p => a + b2n (g.testBit (512 * p + j)) * 2 ^ p) 0
  else bits g (elemBits t * j + elemBits t - 1) (elemBits t * j)

/-- The contribution of element j with code `v` to the group's number. -/
def elemPut (t : Nat) (j v : Nat) : Nat :=
  if tagIsBx t then
    (List.range (bxN t)).foldl (fun a p => a + b2n (v.testBit p) * 2 ^ (512 * p + j)) 0
  else v % 2 ^ elemBits t * 2 ^ (elemBits t * j)

/-- A group with the elements whose codes are listed, from element `j` on. -/
def packFrom (t : Nat) : Nat → List Nat → Nat
  | _, [] => 0
  | j, v :: r => elemPut t j v + packFrom t (j + 1) r

/-- The slot offset of scale byte `k` of the group at slot offset `off`; `scale` is SCALE_BASE × 64 (01 R37). -/
def scaleOff (t off scale k : Nat) : Nat :=
  (scale + off / groupBytes t * groupBlocks t + k) % 2 ^ 21

end Sys2Proof.Machine
end

