-- ==== Sys2Proof/Config.lean ====
section
/-! DEFINITION. The values the spec leaves open: opaque constants, applied to the counter `State.tick` or to operands. No
proof can see a value of one. -/
namespace Sys2Proof.Config

/-- How many further core cycles pass in one step (log 2: the spec gives no cycle count of an instruction). -/
opaque elapsed : Nat → Nat
/-- A word the spec leaves open, fresh for each use of the tick (log 2). -/
opaque freeWord : Nat → Word
/-- A byte the spec leaves open (10 R324; 12 R352; 13 R392; log 2). -/
opaque freeByte : Nat → Byte
/-- The energy that a task instance is measured to have used (12 R360; log 16). -/
opaque energy : Nat → Nat
/-- A special-function result whose rounding the model's precision does not decide (04 R139; log 14): the last place is
free. -/
opaque freeRound : Nat → Nat → Bool
/-- The address space in which the addresses of a command queue's packets are read (12 R345 names none; log 25). -/
opaque packetAsid : Nat → Nat
/-- Sign and payload of the NaN that an element of a tag and code is under a NaN scale (01 R34 names neither; log 24). -/
opaque scaleNan : Nat → Nat → BitVec 24

/-- Word `i` of an area of a context image that holds the given registers: 0 the control thread's, 1 an MT's, 2 the block queue and link
ports of an MT, 3 the counts of the FIFOs. The spec says which registers an area holds and not at which of its bits (05 R181; 07 R258;
log 129). Area 4: the word at offset `i` of a place of a queue, FIFO or list of seeds that holds no entry (log 142). -/
opaque imageWord (area : Nat) (regs : List Word) (i : Nat) : Word
/-- The lanes of a link of a die, by its code among the boot records' units, where the spec gives no number (13 R385, R393; log 130). -/
opaque lanes : Nat → Nat
/-- The memory controller of its die that serves a PA in HBM: one for each of three stacks (00 R1); the spec lays no PA out among them
(log 103). -/
opaque homeStack : Nat → Nat

end Sys2Proof.Config
end

