-- ==== Sys2Proof/Machine/FMap.lean ====
section
/-! DEFINITION. Finite maps as association lists in rising key order: the plain-data form of every sparse table of the
state. `put` keeps the order; a key that is not listed reads as the default its reader names. -/
namespace Sys2Proof.Machine

/-- A sparse table: (key, value) pairs, keys strictly rising. -/
abbrev FMap (α : Type) := List (Nat × α)

namespace FMap

/-- The value at key `k`, if listed. -/
def find {α : Type} : FMap α → Nat → Option α
  | [], _ => none
  | (k', v) :: r, k => if k = k' then some v else find r k

/-- The value at key `k`, or `d` where it is not listed. -/
def get {α : Type} (m : FMap α) (k : Nat) (d : α) : α := (m.find k).getD d

/-- Lists `v` at key `k`. -/
def put {α : Type} : FMap α → Nat → α → FMap α
  | [], k, v => [(k, v)]
  | (k', v') :: r, k, v =>
    if k < k' then (k, v) :: (k', v') :: r
    else if k = k' then (k, v) :: r
    else (k', v') :: put r k v

/-- Unlists key `k`. -/
def del {α : Type} (m : FMap α) (k : Nat) : FMap α := m.filter (fun e => e.1 != k)

/-- Writes `v` at key `k`, unlisting a value equal to the default `d`, so that equal tables are equal lists. -/
def set {α : Type} [DecidableEq α] (m : FMap α) (k : Nat) (v d : α) : FMap α :=
  if v = d then m.del k else m.put k v

/-- Applies `f` to the value at key `k`. -/
def upd {α : Type} (m : FMap α) (k : Nat) (d : α) (f : α → α) : FMap α := m.put k (f (m.get k d))

/-- The keys that are listed. -/
def keys {α : Type} (m : FMap α) : List Nat := m.map (·.1)

/-- The canonical form: keys strictly rising. -/
def wf {α : Type} : FMap α → Bool
  | [] => true
  | [_] => true
  | (k, _) :: (k', v') :: r => decide (k < k') && wf ((k', v') :: r)

end FMap
end Sys2Proof.Machine
end

