-- ==== Sys2Proof/Machine/Memory.lean ====
section
/-! DEFINITION. Byte memories as sparse lists of cells in one canonical form: addresses strictly rising, no entry equal
to what an unlisted address reads as (`Memory.unlisted`, log 3). -/
namespace Sys2Proof.Machine

/-- A byte memory (10 R305; 01 R17; 08 R273). -/
abbrev Memory := List Host.Cell

namespace Memory

/-- What an unlisted address reads as. DESIGN CHOICE (log 3), unsafe: the spec gives no contents after power-on. -/
def unlisted : Byte := 0

/-- The byte at an address. -/
def read : Memory → Nat → Byte
  | [], _ => unlisted
  | (a', v) :: r, a => if a = a' then v else read r a

/-- Lists a byte, keeping rising order. -/
def list : Memory → Nat → Byte → Memory
  | [], a, v => [(a, v)]
  | (a', v') :: r, a, v =>
    if a < a' then (a, v) :: (a', v') :: r
    else if a = a' then (a, v) :: r
    else (a', v') :: list r a v

/-- Unlists an address. -/
def unlist (m : Memory) (a : Nat) : Memory := m.filter (fun c => c.1 != a)

/-- Writes one byte; writing the unlisted value removes the entry. -/
def write (m : Memory) (a : Nat) (v : Byte) : Memory :=
  if v = unlisted then m.unlist a else m.list a v

/-- `n` bytes from address `a`, the lowest first. -/
def readN (m : Memory) (a : Nat) : Nat → List Byte
  | 0 => []
  | n + 1 => m.read a :: readN m (a + 1) n

/-- Writes bytes from address `a` upward. -/
def writeN (m : Memory) (a : Nat) : List Byte → Memory
  | [] => m
  | b :: r => writeN (m.write a b) (a + 1) r

/-- The little-endian number in `n` bytes at `a` (00 R4). -/
def readNat (m : Memory) (a n : Nat) : Nat := ofBytes (m.readN a n)

/-- Stores the low `n` bytes of a number at `a`, little-endian (00 R4). -/
def writeNat (m : Memory) (a n v : Nat) : Memory := m.writeN a (toBytes n v)

/-- The cells of addresses [a, a + n), counted from `a`. -/
def slice (m : Memory) (a n : Nat) : Memory :=
  (m.filter (fun c => decide (a ≤ c.1) && decide (c.1 < a + n))).map (fun c => (c.1 - a, c.2))

/-- Unlists addresses [a, a + n). -/
def clear (m : Memory) (a n : Nat) : Memory := m.filter (fun c => !(decide (a ≤ c.1) && decide (c.1 < a + n)))

/-- Addresses [a, a + n) replaced by cells that are counted from `a`. -/
def paste (m : Memory) (a n : Nat) (p : Memory) : Memory := p.foldl (fun m c => m.write (a + c.1) c.2) (m.clear a n)

/-- Writes n bytes from `a` upward, each by its place. -/
def fill (m : Memory) (a n : Nat) (f : Nat → Byte) : Memory := (List.range n).foldl (fun m i => m.write (a + i) (f i)) m

/-- The canonical form. -/
def wf : Memory → Bool
  | [] => true
  | [c] => c.2 != unlisted
  | c :: c' :: r => c.2 != unlisted && decide (c.1 < c'.1) && wf (c' :: r)

end Memory
end Sys2Proof.Machine
end

