-- ==== Sys2Proof/Machine/State.lean ====
section
/-! DEFINITION. The state of one B8 package as plain data, the reasons a step can stop, and the state after reset. Every
table is sparse: what is not listed has the Start or Reset value of its register. -/
namespace Sys2Proof.Machine

/-! ## Threads -/

/-- Where the value of an issued far-class instruction comes from (02 R58; 01 R11). -/
inductive FarSrc where
  /-- latched at issue: loads, status reads, a pop of a word that was there (log 11) -/
  | value (w : Word)
  /-- the next word of input queue q (03 R101) -/
  | inputQueue (q : Nat)
  /-- the word of the link port from MT i − 1 (0) or MT i + 1 (1) (03 R103) -/
  | link (port : Nat)
  /-- the next word of the return queue of an MT (05 R173) -/
  | returnQueue (mt : Nat)
  /-- the next element of gather FIFO `e`, for the `n`-th waiting `epop` of the context (07 R257) -/
  | fifo (e n : Nat)
  /-- the result of commit-released operation `id`, not yet applied (03 R77) -/
  | released (id : Nat)
deriving DecidableEq, Repr

/-- A far result in flight: its register and its source (02 R59). -/
structure Far where
  reg : Nat
  src : FarSrc
deriving DecidableEq, Repr

/-- What a thread does when its end-of-block wait is over (02 R57; 03 R91). -/
inductive EndTo where
  /-- enter the block at an address -/
  | entry (a : Word)
  /-- a broadcast block: return to the block queue -/
  | queue
  /-- `stop` -/
  | stop
deriving DecidableEq, Repr

/-- Where a thread stands (02 R57; 05 R161; 06 R187). -/
inductive Phase where
  /-- an idle MT -/
  | idle
  /-- between blocks, the next header at `a` -/
  | entry (a : Word)
  /-- to resume from a trap record (02 R62): block, offset, park index, and whether to go on after the instruction -/
  | resume (a : Word) (off park : Nat) (skip : Bool)
  /-- inside a block body, before halfword `off` -/
  | body
  /-- the end-of-block wait -/
  | ending (e : EndTo)
  /-- MT_STAT.STATE 4 -/
  | faulted
  /-- halted at a debug event: MT_STAT.STATE 5, or the CT's debug halt -/
  | halted
  /-- the CT stream has ended by `stop` -/
  | stopped
deriving DecidableEq, Repr

/-- A load from a peer device (14 R412, R415): the device, the ASID and VA there, its bytes, the local VA, and for a sharded load
the version of the map (12 R376). -/
structure LoadReq where
  dev : Nat
  asid : Nat
  tva : Nat
  n : Nat
  va : Nat
  version : Option Nat := none
deriving DecidableEq, Repr

/-- Why an instruction waits; the thread stands before it (02 R52). -/
inductive Wait where
  /-- a translation of the address is needed; kind 0 load, 1 store, 2 atomic, 3 fetch (10 R314) -/
  | translate (va : Nat) (kind : Nat)
  /-- room in the block queues of the masked MTs for an entry: broadcast or detach, at `t` (05 R163) -/
  | admission (bcast : Bool) (mask : Nat) (t : Word)
  /-- room in input queue n of the masked MTs (05 R172) -/
  | inputRoom (n mask : Nat) (w : Word)
  /-- the masked MTs settle (05 R165) -/
  | join (fd mask : Nat)
  /-- room in the return queue (03 R102) -/
  | returnRoom (w : Word)
  /-- room in the link port of MT `mt` (03 R103) -/
  | linkRoom (mt : Nat) (w : Word)
  /-- another core's uncommitted chunk holds the slot line; core `who` (06 R198) -/
  | lateral (who line : Nat) (write : Bool)
  /-- the addressed window is not resident (05 R184) -/
  | residency (core : Nat)
  /-- a pending-write line of an engine (07 R239; 08 R276) -/
  | pendingLine (line : Nat)
  /-- the other gang members cannot issue yet, or have not arrived (05 R176, R177) -/
  | gang
  /-- the completion counter n is not below t (07 R252) -/
  | counter (n t : Nat)
  /-- parked in barw on the object, as core × 2^17 + unit, with limit L (09 R294); `woken` once it is to read again -/
  | barrier (obj : Nat) (limit : Nat) (woken : Bool)
  /-- the phase end of the domain at a level (09 R299) -/
  | phaseEnd (lvl : Nat)
  /-- the removal of translations (10 R320) -/
  | tlbi
  /-- the owners of shard map entry n (12 R378): the devices still to acknowledge, once the messages are sent -/
  | shards (n : Nat) (devs : Option (List Nat))
  /-- off-package accesses are held by a fence.sys (03 R100) -/
  | offPackage
  /-- a granted commit of another core is about to write the memory line, by PA / 64 (06 R199) -/
  | grant (line : Nat)
  /-- the answer of a peer device to a load (14 R415); with the signature key and line of each load of the shard map that the
  instruction has made (12 R377) -/
  | peer (r : LoadReq) (map : List (Nat × Nat))
  /-- the commit that answers digrd (12 R372) -/
  | digest (queue : Bool)
  /-- full/empty operation `id` (14 R420) -/
  | fullEmpty (id : Nat)
  /-- a posted page-fault record (10 R321) -/
  | pageFault
  /-- the results of the thread's earlier instructions (03 R107) -/
  | results
deriving DecidableEq, Repr

/-- A waiting instruction: why, the halfwords it takes, and the cycle its wait began. -/
structure Stall where
  why : Wait
  len : Nat
  since : Nat
deriving DecidableEq, Repr

/-- A cause that an instruction or a header check raised, waiting for the trap cut (06 R214). `hdrFault` marks body
offset 0 and park index 0 (02 R56, R61). -/
structure Raised where
  cause : Cause
  info : Word
  hdrFault : Bool
  /-- the header address of the record -/
  blk : Word
  /-- for cause 0xA0, one more than the barrier object's core × 2^17 + unit (09 R293) -/
  aux : Nat := 0
deriving DecidableEq, Repr

/-- One thread: the state that the CT and an MT have in common (01 R9; 02 R57–R59; 05 R156). -/
structure Thr where
  /-- `x1`–`x15`; an unlisted register is 0 -/
  x : FMap Word := []
  /-- `f1`–`f7`, bit n for fn; bit 0 is not used -/
  f : BitVec 8 := 0
  /-- the hazard set H (02 R59) -/
  hz : BitVec 16 := 0
  /-- far results in flight, oldest first -/
  far : List Far := []
  /-- `SRND_CNT` (01 R16) -/
  srnd : Word := 0
  /-- header address of the block being executed or last executed -/
  blk : Word := 0
  /-- the header latched on entry (02 R53) -/
  hdr : BitVec 32 := 0
  /-- the body halfword at which the next instruction starts -/
  off : Nat := 0
  /-- the park index (01 R11) -/
  park : Nat := 0
  phase : Phase := .idle
  stall : Option Stall := none
  raised : Option Raised := none
  /-- stepped mode: the one block of this chunk is done (06 R214) -/
  blockDone : Bool := false
  /-- answers of peer devices to the loads of the current instruction (14 R415) -/
  answers : List (LoadReq × Nat) := []
  /-- the cycle at which the current instruction first waited (09 R294) -/
  t0 : Option Nat := none
  /-- after `eret`: the thread counts as at a boundary until the cut it requested (06 R218) -/
  hold : Bool := false
  /-- the next instruction matches no breakpoint or watchpoint: it was resumed from one (13 R398) -/
  passEvent : Bool := false
  /-- one instruction, then the step event (13 R398, R399) -/
  stepOne : Bool := false
  /-- a debug event that falls at the next block the thread enters (13 R398, R399; log 108) -/
  atEntry : Option Cause := none
  /-- the steward's next block is the one at ENTRY (07 R246) -/
  boot : Bool := false
  /-- the cause that a commit-released operation met, which its instruction raises when it is executed again
  (14 R416, R420) -/
  late : Option (Cause × Word) := none
deriving DecidableEq, Repr

/-- The way an MT runs: `MT_STAT.STATE` 0, 1 or 2, kept through a fault or a halt (01 R12; 05 R169). -/
inductive MtMode where
  | idle | broadcast | detached
deriving DecidableEq, Repr

/-- An entry of a block queue (05 R161). -/
structure BqEntry where
  bcast : Bool
  addr : Word
deriving DecidableEq, Repr

/-- One micro-thread (01 R9, R12–R16; 05 R161, R167). -/
structure Mt where
  thr : Thr := {}
  /-- `a0`–`a7` -/
  a : FMap (BitVec 32) := []
  /-- `m0`–`m3`; an unlisted mask is 0xFFFF_FFFF -/
  m : FMap (BitVec 32) := []
  /-- `FMT_CTL`; SATN (bit 3) resets to 1 (01 R14) -/
  fmtCtl : Word := 8
  /-- `BANKCONF` -/
  bank : BitVec 32 := 0
  /-- input queues `q0`–`q3`, head first -/
  q : FMap (List Word) := []
  /-- return queue, head first -/
  rq : List Word := []
  /-- inbound link port from MT i − 1 -/
  linkUp : Option Word := none
  /-- inbound link port from MT i + 1 -/
  linkDown : Option Word := none
  /-- block queue, head first -/
  bq : List BqEntry := []
  mode : MtMode := .idle
  cause : Cause := 0
  trapBlk : Word := 0
  trapOff : Nat := 0
  trapPark : Nat := 0
  trapInfo : Word := 0
deriving DecidableEq, Repr

/-- The Start column of 01 R9: an MT at the start of a task instance. -/
def Mt.start : Mt := {}

/-- Gang membership (05 R176): the size code, this core's position and the leader's. -/
structure Gang where
  size : Nat
  pos : Nat
  lead : Nat
  /-- the member runs its trap handler, apart from the stream (05 R178) -/
  own : Bool := false
deriving DecidableEq, Repr

/-- The trap registers (06 R216); `stat` holds INH (bit 0) and PPRIV (bit 1). -/
structure TrapRegs where
  cause : Word := 0
  blk : Word := 0
  off : Word := 0
  info : Word := 0
  vec : Word := 0
  stat : Word := 0
  save0 : Word := 0
  save1 : Word := 0
deriving DecidableEq, Repr

/-- The part of a context that a squash restores (06 R193, R202). -/
structure Arch where
  /-- the control thread -/
  ct : Thr := {}
  /-- MT 0–15; one not listed is as at its start -/
  mts : FMap Mt := []
  scaleBase : Word := 0
  /-- `ID_CORE` … `ID_GRID`, CSR numbers 0x40–0x4C (05 R157) -/
  ids : FMap Word := []
  trap : TrapRegs := {}
  /-- supervisor privilege (06 R216; 12 R353). DESIGN CHOICE at reset (log 5). -/
  sup : Bool := false
  /-- `CHK_CTL` (06 R190) -/
  chkCtl : Word := 4096
  /-- `CHK_EXT` (06 R192) -/
  chkExt : Word := 0
  /-- `CPY_AP` (07 R228) -/
  cpyAp : Word := 0
  /-- `SHARD_BASE` (12 R373) -/
  shardBase : Word := 0
  /-- copy template table, 64 × 512 bits (07 R232). Unlisted: all bits 0 (log 5). -/
  templates : FMap (BitVec 512) := []
  mcfg0 : Word := 0
  mcfg1 : Word := 0
  mcfg2 : Word := 0
  mxp : Word := 0
  gang : Option Gang := none
  /-- the `gang` immediate given, while the gang has not formed (05 R176) -/
  gangWait : Option (BitVec 6) := none
  /-- another core of the group gave another immediate: cause 0xAA is due (05 R176) -/
  gangBad : Bool := false
  /-- debug CSRs by number 0x300–0x3FF (13 R397, R400, R402) -/
  dbg : FMap Word := []
deriving DecidableEq, Repr

/-! ## Chunks and contexts -/

/-- Tag code and scale-paired bit of a scratchpad line (01 R17, R18); Start raw, SP 0 (R24). -/
structure LineTag where
  tag : Nat := 0
  sp : Bool := false
deriving DecidableEq, Repr

/-- An undo-log entry (06 R194): slot, physical line, old data, tag and SP bit. -/
structure Undo where
  core : Nat
  line : Nat
  data : List Byte
  tag : LineTag
deriving DecidableEq, Repr

/-- A commit-released atomic (03 R77, R96–R99): what it does and where its old value goes. -/
structure FarOp where
  id : Nat
  thr : Nat
  /-- 0 amo, 1 cas, 2 famo -/
  kind : Nat
  /-- the operation number of 03 R96 -/
  op : Nat
  /-- the `sub` field: size or floating-point type -/
  z : Nat
  va : Nat
  zext : Bool
  b : Word
  cmp : Word
  /-- deterministic update (10 R311): the issuer index, sequence number, domain level, domain id and phase -/
  det : Option (Nat × Nat × Nat × Nat × Nat) := none
  /-- the launch, its ASID and the privilege at issue -/
  launch : Nat := 0
  asid : Nat := 0
  sup : Bool := false
  /-- the record of its instruction (02 R61) -/
  blk : Word := 0
  off : Nat := 0
  park : Nat := 0
  /-- the stamp of its chunk's commit, once it is released (03 R98), and whether that commit had reach 0 (06 R201) -/
  stamp : Nat := 0
  near : Bool := false
deriving DecidableEq, Repr

/-- A copy command: the snapshot taken at its store (07 R230, R235, R236). -/
structure CopyCmd where
  launch : Nat
  asid : Nat
  sup : Bool
  ch : Nat
  /-- template index and its 64 bytes -/
  tpl : Nat
  t : BitVec 512
  /-- the bases after ARG (07 R236) -/
  src : Nat
  dst : Nat
  /-- `SCALE_BASE`.BASE × 64 at the store -/
  scale : Nat
  /-- the place in the order of releases, set at release -/
  no : Nat := 0
deriving DecidableEq, Repr

/-- A gather command (07 R248) with the index of its next element. -/
structure GatherCmd where
  core : Nat
  launch : Nat
  asid : Nat
  sup : Bool
  base : Nat
  ctl : Word
  next : Nat := 0
  /-- stopped at element `next` after a fault message (07 R243), and the address of the fault -/
  repair : Bool := false
  fva : Nat := 0
deriving DecidableEq, Repr

/-- The snapshot of an `mgo` (08 R270, R279). -/
structure MgoSnap where
  aoff : Nat
  afmt : Nat
  astr : Nat
  boff : Nat
  bfmt : Nat
  bstr : Nat
  k : Nat
  tile : Nat
  ovr : Bool
  joint : Bool
  /-- `MXP` -/
  shift : Int
  sat : Bool
  scale : Nat
  gang : Option Gang
  /-- number of this `mgo` in the task instance, from 1, set at release (08 R268) -/
  seq : Nat := 0
deriving DecidableEq, Repr

/-- A matrix command (08 R274; 10 R328). -/
inductive MatCmd where
  | mgo (m : MgoSnap)
  | mzero (mask : Nat)
  /-- descriptor and scale base -/
  | mrd (d : Word) (scale : Nat)
  | mwr (d : Word)
  | clr
  /-- the 64-byte descriptor of `gemvh`, the scale base, the ASID and the privilege -/
  | gemvh (d : BitVec 512) (scale asid : Nat) (sup : Bool)
deriving DecidableEq, Repr

/-- A full/empty operation after its commit (14 R419–R423): who waits for it, what it does and under which ASID and privilege
it is translated, the record of its instruction, and how its refusals stand. -/
structure FeReq where
  core : Nat
  launch : Nat
  thr : Nat
  id : Nat
  /-- the device it came from, for an operation of a peer -/
  peer : Option Nat := none
  store : Bool
  mode : Nat
  va : Nat
  w : Word
  asid : Nat
  sup : Bool
  blk : Word := 0
  off : Nat := 0
  park : Nat := 0
  /-- the word, as PA / 8, once the operation is listed -/
  word : Nat := 0
  /-- the cycle of its first refusal, the cycle of its next sending, and the interval after that -/
  refused : Option Nat := none
  due : Nat := 0
  gap : Nat := 512
  /-- its number among the bundles and operations of the core; it is sent off the package once those below `after` are
  acknowledged (03 R100) -/
  no : Nat := 0
  after : Nat := 0
  /-- for an address at a peer: the device, the ASID and the VA there, fixed when it is issued (14 R410) -/
  dest : Option (Nat × Nat × Nat) := none
deriving DecidableEq, Repr

/-- An engine command or commit-released instruction held until commit (03 R77; 07 R231). -/
inductive Cmd where
  | atomic (o : FarOp)
  /-- `tlbi` with its sub-operation, VA and the word of xd -/
  | tlbi (sub : Nat) (va : Nat) (xd : Word)
  | copy (c : CopyCmd)
  | gather (g : GatherCmd)
  | cset (n : Nat) (v : Nat)
  | matrix (m : MatCmd)
  /-- `dmem` at a level with its operand (09 R301) -/
  | dmem (lvl : Nat) (v : Word)
  /-- `split` (05 R179) -/
  | split
  /-- a full/empty operation (14 R419) -/
  | fe (r : FeReq)
  /-- a network work request (15 R439, R440): its 64 bytes, the ASID and the privilege -/
  | net (w : BitVec 512) (asid : Nat) (sup : Bool)
deriving DecidableEq, Repr

/-- A trace record or PC sample on its way to its sink (13 R401, R403): its two words, SQ apart, and the mark of a return, for which
their layout has no bit (03 R90; log 122). -/
structure TraceRec where
  launch : Nat
  pcs : Bool
  w0 : Word
  w1 : Word
  sq : Bool := false
  ret : Bool := false
deriving DecidableEq, Repr

/-- A store or atomic to a peer device, held for the bundle (14 R413). -/
structure PeerOp where
  va : Nat
  data : List Byte
  atomic : Option FarOp := none
  /-- a shard access, with the map's version (12 R376; 14 R425) -/
  shard : Bool := false
  version : Nat := 0
  /-- its device, and the ASID and VA there, fixed when the instruction executes (12 R377; 14 R407, R410) -/
  dev : Nat
  tasid : Nat
  tva : Nat
deriving DecidableEq, Repr

/-- A parked demand access (10 R321): thread, address and kind. -/
structure Parked where
  thr : Nat
  va : Nat
  kind : Nat
deriving DecidableEq, Repr

/-- How far a chunk has come (06 R187–R200). -/
inductive ChunkSt where
  | executing
  /-- cut, waiting to become the committing chunk or to ask its reeve -/
  | cut
  /-- its signatures wait at the reeve of its reach; the place in arrival order, and the cycle of arrival -/
  | requested (place since : Nat)
  /-- granted with a stamp at a level; the cores whose L1 has acknowledged -/
  | granted (stamp lvl : Nat) (acks : List Nat)
deriving DecidableEq, Repr

/-- An asynchronous event that waits for a cut (06 R219). -/
structure Async where
  cause : Cause
  info : Word := 0
deriving DecidableEq, Repr

/-- One chunk in flight (06 R186–R200). -/
structure Chunk where
  /-- the checkpoint at its beginning (06 R193) -/
  ckpt : Arch := {}
  st : ChunkSt := .executing
  /-- read and write signatures (06 R196) -/
  rsig : BitVec 2048 := 0
  wsig : BitVec 2048 := 0
  /-- bytes stored to memory, by PA (06 R195) -/
  stores : FMap Byte := []
  /-- undo log, newest first (06 R194) -/
  undo : List Undo := []
  /-- slot lines read and written, as core × 2^15 + line (06 R198) -/
  slotR : List Nat := []
  slotW : List Nat := []
  /-- memory lines touched, by PA / 64 (06 R199) -/
  touched : List Nat := []
  /-- a line of another slot was touched (06 R199) -/
  lateral : Bool := false
  /-- engine commands and commit-released instructions, in thread order (07 R231) -/
  held : List Cmd := []
  /-- stores and atomics to peer devices, in thread order (14 R413) -/
  bundle : List PeerOp := []
  /-- elements taken from the gather FIFOs, oldest first (07 R257) -/
  popped : List (Nat × Word) := []
  retired : Nat := 0
  /-- counted squashes of the checkpoint (06 R205) -/
  sq : Nat := 0
  /-- a cut has been requested (06 R188) -/
  cutReq : Bool := false
  /-- the cycle since which a cut condition holds (06 R219) -/
  cutSince : Option Nat := none
  /-- the asynchronous event taken at the cut that began this chunk (06 R219) -/
  took : List Async := []
  /-- stepped mode (06 R214), and the count that it ends beyond (R215; log 113) -/
  stepped : Bool := false
  target : Nat := 0
  /-- the chunk began with E = 64 after a counted squash and holds, or waits for, a reservation (06 R206) -/
  wantsRsv : Bool := false
  /-- a `fence.sys` was executed in the chunk (03 R100) -/
  fenceSys : Bool := false
  /-- barrier objects that the chunk was the first to name, by core × 2^17 + unit (09 R291; log 13) -/
  newObjs : List Nat := []
  /-- barrier objects whose WAKE list is cleared at commit (09 R288) -/
  wakes : List Nat := []
  /-- trace records and PC samples of the chunk, not yet marked (13 R400, R403) -/
  traces : List TraceRec := []
  /-- peer leases under which the chunk loaded (14 R410) -/
  leases : List Nat := []
deriving DecidableEq, Repr

/-- How a task instance ended: the fields of a completion record (12 R347; 05 R171). -/
structure Ending where
  code : Cause := 0
  sub : Cause := 0
  thr : Nat := 0
  blk : Word := 0
  off : Nat := 0
  park : Nat := 0
  info : Word := 0
deriving DecidableEq, Repr

/-- A context on a core (05 R181). Restored state stands in `arch`; the rest is committed state. -/
structure Ctx where
  /-- the launch, by its sequence number; none: no context -/
  launch : Option Nat := none
  inst : Nat := 0
  asid : Nat := 0
  prio : Nat := 0
  /-- window size in 64 KiB units and window base in bytes (05 R184) -/
  win : Nat := 0
  wb : Nat := 0
  arch : Arch := {}
  chunk : Chunk := {}
  /-- cut chunks that have not committed, oldest first (06 R189) -/
  pend : List Chunk := []
  /-- completion counters `c0`–`c15` (07 R238) -/
  ctr : FMap Nat := []
  matStat : Word := 0
  /-- `MAT_CFG`.ACCN and the first tile (08 R271, R273) -/
  accn : Nat := 0
  accBase : Nat := 0
  domId : Word := 0
  domPhase : Word := 0
  damStat : Word := 0
  /-- deterministic sequence counters by thread (10 R311) -/
  detSeq : FMap Nat := []
  /-- E while the forward-progress rule reduces it (06 R186, R205); else TARGET governs -/
  cap : Option Nat := none
  /-- `CHK_STAT` (06 R191); SQ stands in the executing chunk -/
  squashes : Nat := 0
  reach : Nat := 0
  /-- stamp of the last commit, 0 if none (06 R220) -/
  lastStamp : Nat := 0
  /-- the ordinal of the next commit, for the commit-order log (12 R342) -/
  commits : Nat := 0
  /-- copy of the seed stack, top first (12 R366) -/
  seeds : List Word := [0]
  async : List Async := []
  /-- a parked demand access (10 R321) -/
  parked : Option Parked := none
  /-- an access marked to raise reason 10: address and kind (10 R322) -/
  declined : Option (Nat × Nat) := none
  /-- the cut at which an event is taken has fallen, and what the CT still waits for is awaited first (06 R193, R219) -/
  asyncCut : Bool := false
  /-- the instance is ending (05 R171; 06 R217, R226) -/
  fin : Option Ending := none
  /-- causes raised in the chunk that is committing, to be taken after its commit (06 R214) -/
  taking : Bool := false
  /-- next identity of a commit-released operation -/
  nextId : Nat := 0
  /-- gather FIFOs e0–e3, head first (07 R249) -/
  fifos : FMap (List Word) := []
  /-- elements announced by released commands and not popped, per FIFO (07 R249) -/
  fifoOut : FMap Nat := []
  /-- full/empty operations that are to be withdrawn (14 R423) -/
  feDrop : List Nat := []
  /-- `PCS_PTR` and `TRC_PTR`: they count written records and are not restored (13 R400, R402) -/
  pcsPtr : Word := 0
  trcPtr : Word := 0
  /-- `mgo` commands released in the task instance (08 R268) -/
  mgoSeq : Nat := 0
  /-- the last exponent record: block, sequence number, crier's position (08 R284) -/
  expRec : Option (Nat × Nat × Nat) := none
  /-- the thread that the next PC sample takes (16 the CT), and the cycle of the last one (13 R400) -/
  pcsThr : Nat := 0
  pcsAt : Nat := 0
  /-- the cycle at which the task instance started (12 R360) -/
  started : Nat := 0
deriving DecidableEq, Repr

/-- The state of a copy channel (07 R243). -/
inductive ChanSt where
  | idle | active | repair | failed
deriving DecidableEq, Repr

/-- A copy channel (07 R239, R243, R253). -/
structure Chan where
  st : ChanSt := .idle
  cur : Option CopyCmd := none
  /-- released copies waiting, oldest first -/
  waiting : List CopyCmd := []
  /-- the watermark -/
  w : Nat := 0
  /-- destination lines written by the current or last copy -/
  lines : Nat := 0
  /-- template index of the current or last copy -/
  tpl : Nat := 0
  /-- the address of the fault, in REPAIR -/
  fva : Nat := 0
  /-- the source lines that the current copy has read, by address / 64 (07 R240) -/
  buf : FMap (List Byte) := []
  /-- the target cores that hold the unit at the watermark already (07 R241) -/
  done : List Nat := []
deriving DecidableEq, Repr

/-- A committed bundle for a peer device that is not acknowledged (14 R413): its number on this core, its place among all
commits, the device, the launch, its requests, and, once it is sent, its sequence number and the cycle of sending. It is sent
once the bundles and operations of the core below `after` are acknowledged (03 R100). -/
structure BundleOut where
  id : Nat
  no : Nat
  dev : Nat
  launch : Nat
  ops : List PeerOp
  after : Nat
  sent : Option (Nat × Nat) := none
deriving DecidableEq, Repr

/-- Bytes that a matrix command writes within one line of a slot: the core, the window offset, the bytes and the line's tag. -/
structure MatOut where
  core : Nat
  off : Nat
  bytes : List Byte
  tag : LineTag
deriving DecidableEq, Repr

/-- A released matrix command (08 R275). -/
structure MatRel where
  launch : Nat
  cmd : MatCmd
  /-- the place in the order of releases -/
  no : Nat := 0
  /-- the cycle since which its `mgo` has been ready at the row barrier (08 R263) -/
  readySince : Option Nat := none
  /-- the row barrier has closed -/
  closed : Bool := false
  /-- exponent records received (08 R268) -/
  records : Nat := 0
  /-- a `gemvh` stopped on an absent page (10 R328), and the address of the fault -/
  repair : Bool := false
  fva : Nat := 0
  /-- once its results are formed: the synthetic chunks that it has still to write, in order, and its flags (08 R276 item 4) -/
  out : Option (List (List MatOut)) := none
  flags : Nat := 0
deriving DecidableEq, Repr

/-- A context image outside its core (05 R181, R182): the core it belongs to, the context, the bytes and tags of its
window by window offset and line, its accumulator bytes by tile offset, and whether it waits for its page. -/
structure Image where
  core : Nat
  ctx : Ctx
  bytes : Memory
  tags : FMap LineTag
  acc : Memory
  /-- barrier objects of the window, by 16-byte unit of the window -/
  objs : List Nat := []
deriving DecidableEq, Repr

/-- The state of a context slot (05 R182). -/
inductive SlotSt where
  | empty | streamin | ready | running | drain | streamout
deriving DecidableEq, Repr

/-- A context slot. -/
structure Slot where
  st : SlotSt := .empty
  ctx : Ctx := {}
  /-- chosen for stream-out (12 R357) -/
  leaving : Bool := false
deriving DecidableEq, Repr

/-- One core; the steward of die n is core 4,096 + n (07 R245). -/
structure Core where
  slot0 : Slot := {}
  slot1 : Slot := {}
  /-- a waiting context switch (05 R183): the slot to run, 2 for none -/
  switchTo : Option Nat := none
  /-- the cycle at which the running context began to run (12 R358) -/
  runSince : Nat := 0
  /-- `CHK_EXT` as the last context of the core left it (06 R192; 12 R348) -/
  chkExt : Word := 0
  /-- the launch for which a slot is reserved (12 R357) -/
  resv : Option Nat := none
  /-- copy channels 0–63 -/
  chans : FMap Chan := []
  /-- released matrix commands, oldest first -/
  mat : List MatRel := []
  /-- released far atomics not yet applied, oldest first, with their launch (03 R98) -/
  atomics : List (Nat × FarOp) := []
  /-- released deterministic updates not yet at their slice (10 R312) -/
  detOut : List (Nat × FarOp) := []
  /-- translation removals released and not complete (10 R320), with their launch -/
  tlbis : List (Nat × Cmd) := []
  /-- membership changes released and not performed (09 R301), with their launch -/
  dmems : List (Nat × Nat × Word) := []
  /-- phase ends that have been sent to this core: launch and level (09 R298) -/
  phaseEnds : List (Nat × Nat) := []
  /-- usable ways of the L1 data cache (13 R384, R385) -/
  l1Ways : Nat := 8
  /-- bundles not acknowledged, oldest first (14 R413) -/
  bundles : List BundleOut := []
  /-- number of the next bundle -/
  bundleNo : Nat := 0
  /-- off-package accesses wait for the bundles below this number (03 R100) -/
  fenceMark : Nat := 0
  /-- full/empty operations released and not sent (14 R420) -/
  feOut : List FeReq := []
  /-- full/empty operations sent to peer devices and not answered -/
  feSent : List FeReq := []
  /-- the network engine stopped a request of the core after a fault message: launch and address (15 R441, R444) -/
  netRepair : Option (Nat × Nat) := none
  /-- trace records and PC samples that their sink has still to take (13 R400, R403) -/
  traceOut : List TraceRec := []
  /-- barrier objects whose wake message is on its way to this core (09 R288) -/
  wakes : List Nat := []
deriving DecidableEq, Repr

/-! ## The package -/

/-- A translation of one 64 KiB frame with its permission copy (10 R314–R316, log 7). -/
structure Xlat where
  g : Bool
  asid : Nat
  /-- VA bits 55:16 -/
  vpn : Nat
  /-- PA bits 51:16 -/
  pfn : Nat
  /-- the leaf's low 16 bits (10 R315) -/
  attr : BitVec 16
deriving DecidableEq, Repr

/-- A domain record (09 R298): level, the cluster, die or package it belongs to, its id, its members as core and launch,
those that have arrived, its phase and its deterministic mark. -/
structure Dom where
  lvl : Nat
  place : Nat
  id : Nat
  members : List (Nat × Nat)
  arrived : List (Nat × Nat)
  ph : Nat
  det : Bool
deriving DecidableEq, Repr

/-- Whom a page-fault record concerns (10 R321, R322). -/
inductive PostFor where
  /-- a parked access: core, launch, address and kind -/
  | demand (core launch va kind : Nat)
  /-- a unit in REPAIR: core and UNIT (07 R244) -/
  | engine (core unit : Nat)
  /-- at the target: a bundle of a source device (14 R416) -/
  | bundle (src bseq : Nat)
  /-- a record that waits for no answer: a load at its target, a lease notice -/
  | noAnswer
deriving DecidableEq, Repr

/-- A page-fault record (10 R321): its die, its 64 bytes but for the sequence number and CYCLE, whom it concerns, and its
sequence number once it is posted. -/
structure Posted where
  die : Nat
  body : BitVec 512
  whom : PostFor
  seq : Option Nat
deriving DecidableEq, Repr

/-- A request of a bundle that a peer device sent (14 R412, R414): its VA and ASID, the enabled bytes of the line by their
place, or an atomic; whether it is a shard access, and its version. -/
structure StagedReq where
  va : Nat
  asid : Nat
  data : FMap Byte
  atomic : Option FarOp
  shard : Bool
  version : Nat
deriving DecidableEq, Repr

/-- A bundle of a peer device in the staging (14 R414): source, sequence number, its requests so far, their number once the
LAST one has come, the cycle of the first, whether it waits for a page, and the cause with which it is discarded. -/
structure Staged where
  src : Nat
  bseq : Nat
  reqs : List (Nat × StagedReq)
  count : Option Nat
  since : Nat
  waits : Bool := false
  refused : Option Cause := none
deriving DecidableEq, Repr

/-- A `shfence` of a device that is not acknowledged (12 R378): the device, ASID, symmetric base and version, and the staged
bundles before it, by source and sequence number. -/
structure FenceIn where
  dev : Nat
  asid : Nat
  base : Nat
  version : Nat
  waits : List (Nat × Nat)
deriving DecidableEq, Repr

/-- An entry of a scrubber's table (10 R330): channel, granule by PA and bytes, and its write sequence tag. -/
structure Scrub where
  chan : Nat
  base : Nat
  size : Nat
  tag : Nat := 0
deriving DecidableEq, Repr

/-- A resume or abandon packet on its way to a unit (07 R244). -/
structure Packet where
  core : Nat
  unit : Nat
  abandon : Bool
  cause : Cause
deriving DecidableEq, Repr

/-- The updates of one deterministic phase at one home slice (10 R312). -/
structure DetHold where
  lvl : Nat
  place : Nat
  id : Nat
  ph : Nat
  die : Nat
  slice : Nat
  /-- updates held, with the issuing core -/
  held : List (Nat × FarOp)
  serial : Bool
deriving DecidableEq, Repr

/-- A completion record's fields (12 R347). -/
structure Cpl where
  status : Nat := 0
  code : Nat := 0
  ordFull : Bool := false
  ordDiv : Bool := false
  inst : Nat := 0
  core : Nat := 0
  e : Ending := {}
  digest : Word := 0
  energy : Nat := 0
deriving DecidableEq, Repr

/-- How far the head packet of a command queue has come (12 R346, R347). -/
inductive QSt where
  /-- its header has not been checked -/
  | idle
  /-- the header passed; it waits for its event -/
  | checked
  /-- a feature negotiation that waits until no launch is placed: the requested bits and the address of its result (13 R396) -/
  | negotiating (req va : Nat)
  /-- a launch that has begun, by its number -/
  | launched (l : Nat)
  /-- complete: the record is to be written -/
  | done (r : Cpl)
deriving DecidableEq, Repr

/-- A command queue beside its registers (12 R343, R366, R371). -/
structure Queue where
  st : QSt := .idle
  /-- the head packet, as read -/
  pkt : BitVec 512 := 0
  /-- seed stack, top first -/
  seeds : List Word := [0]
  /-- the open digest -/
  digest : Option Word := none
deriving DecidableEq, Repr

/-- How far a launch has come. -/
inductive LaunchSt where
  /-- it waits for cores or power; every core of its grid is reserved for it; its task instances have started -/
  | waiting | reserved | placed
deriving DecidableEq, Repr

/-- A launch (12 R348–R362; 13 R390). -/
structure Launch where
  queue : Nat
  /-- the packet's sequence number -/
  seq : Nat
  /-- the 256 bytes of the descriptor -/
  d : BitVec 2048
  prio : Nat
  /-- the grid: core of instance g at place g (R350) -/
  grid : List Nat
  st : LaunchSt := .waiting
  /-- the cycle since which it waits, since which it has been passed over, and whether 2^20 or 2^22 cycles were over -/
  since : Nat := 0
  passed : Option Nat := none
  aged : Bool := false
  blocking : Bool := false
  digest : Word := 0
  /-- commit-order log: entries written or matched; replay is on (R342) -/
  ordPos : Nat := 0
  replay : Bool := false
  ordFull : Bool := false
  ordDiv : Bool := false
  /-- instances that have ended, with their ending if a cause ended them -/
  ended : List (Nat × Option Ending) := []
  /-- restarts made, and the instance and ending for which the next one is due, or with which the launch completes
  (13 R390) -/
  restarts : Nat := 0
  again : Option (Nat × Ending) := none
  last : Option (Nat × Ending) := none
  /-- the instance and ending that started the last restart (13 R391) -/
  why : Option (Nat × Ending) := none
  /-- the tables, as they were checked: template image, `.fmt` entries, domain entries, snapshot entries -/
  tpl : List (BitVec 512) := []
  fmts : List Nat := []
  doms : List Nat := []
  snap : List Nat := []
  /-- the predicted class of its instances, the energy used and the largest class measured (12 R360, R361) -/
  cls : Nat := 0
  energy : Nat := 0
  used : Nat := 0
deriving DecidableEq, Repr

/-! ## The network engine (15) -/

/-- A released work request for a write or a send (15 R438–R441, R449): its place in the order of releases, its engine's die,
the issuing core and launch, its 64 bytes, ASID and privilege; whether the engine has taken it, the bytes cut into packets, and
the packets not acknowledged. -/
structure NetMsg where
  no : Nat
  die : Nat
  core : Nat
  launch : Nat
  w : BitVec 512
  asid : Nat
  sup : Bool
  taken : Bool := false
  sent : Nat := 0
  unacked : Nat := 0
  /-- the source line read last, by VA / 64: each line is read once, also where two packets carry it (15 R441) -/
  line : Option (Nat × List Byte) := none
deriving DecidableEq, Repr

/-- A packet (15 R434, R435): delivery mode, PSN, the message's number at its sender, OP, RKEY, LEN, ARG, the offset in the
message and the payload as a number. -/
structure NetPkt where
  mode : Nat
  psn : Nat
  msg : Nat
  op : Nat
  rkey : Nat
  len : Nat
  arg : Word
  off : Nat
  data : Nat
deriving DecidableEq, Repr

/-- A packet that is not acknowledged (15 R448): its counted transmissions, the cycle and port of the last, whether a gap has
sent it again, and whether it was answered with RNR. -/
structure NetFly where
  pkt : NetPkt
  tx : Nat := 1
  last : Nat
  port : Nat
  fast : Bool := false
  rnr : Bool := false
deriving DecidableEq, Repr

/-- The sender's side of a connection (15 R435): engine, mode, peer index, starting and next PSN, whether an acknowledgement has
come, the cycle of the last answer, the cycle since which only RNR answers came, and the packets not acknowledged. -/
structure NetConn where
  die : Nat
  mode : Nat
  peer : Nat
  start : Nat
  next : Nat
  acked : Bool := false
  heard : Nat
  rnrSince : Option Nat := none
  fly : List NetFly := []
deriving DecidableEq, Repr

/-- The receiver's side (15 R435, R447, R450): engine, mode, source index, starting PSN, CACK, the PSNs placed beyond it, packets
held beyond a gap, and the placed packets not acknowledged with the cycle of the first. -/
structure NetRecv where
  die : Nat
  mode : Nat
  src : Nat
  start : Nat
  cack : Nat
  placed : List Nat := []
  held : List NetPkt := []
  due : Nat := 0
  since : Nat := 0
deriving DecidableEq, Repr

/-- An accepted message of a region (15 R443–R446): connection and number, its first byte in the region, the payload bytes not placed,
and its length. -/
structure RegMsg where
  mode : Nat
  src : Nat
  msg : Nat
  base : Nat
  left : Nat
  len : Nat
deriving DecidableEq, Repr

/-- A receive region (15 R442, R446, R451). `closing`: it is deregistered; `dec`: decrements kept for a context that is not
resident; `att`: the restarts that its launch had made when it was registered (13 R390). -/
structure Region where
  tag : Nat
  base : Nat
  len : Nat
  nmsg : Nat
  sendk : Bool
  slot : Nat
  asid : Nat
  sup : Bool
  core : Nat
  launch : Nat
  ctr : Nat
  att : Nat := 0
  accepted : Nat := 0
  nextSlot : Nat := 0
  msgs : List RegMsg := []
  closing : Bool := false
  dec : Nat := 0
deriving DecidableEq, Repr

/-- What the device sends to the outside (log 1). -/
inductive Out where
  /-- a load to a peer device for a thread of a core (14 R412, R415) -/
  | load (core thr : Nat) (r : LoadReq)
  /-- `shfence` (12 R378): to a device, of an ASID, base and version, for the `shfence` of a launch on a core -/
  | shfence (dev asid base version core launch : Nat)
  /-- a full/empty operation to a peer device, with the sequence number of the next bundle to it (14 R412, R420), and its withdrawal
  (R423) -/
  | fe (dev bseq : Nat) (r : FeReq)
  | feWithdraw (dev id : Nat)
  /-- the answer to a peer's operation: 0 applied, 1 a cause, 2 refused, 3 withdrawn; with a value or cause -/
  | feAnswer (dev id kind : Nat) (v : Word)
  /-- the answer to a peer's load (14 R415): a value, or the cause of its refusal -/
  | loadAnswer (dev va : Nat) (cause : Option Cause) (v : Nat)
  /-- the acknowledgement of a bundle with the old values of its atomics, its discarding with a cause, and the refusal of one
  of its requests, to be sent again (14 R414, R416) -/
  | bundleAck (dev bseq : Nat) (olds : List Word)
  | bundleError (dev bseq : Nat) (cause : Cause)
  | bundleRetry (dev bseq idx : Nat)
  /-- a `shfence` is acknowledged (12 R378) -/
  | fenceAck (dev asid base version : Nat)
  /-- messages about a lease to its other party (14 R411): notice of a revocation, and the closing message -/
  | leaseNotice (dev base size asid notice : Nat)
  | leaseClose (dev base asid : Nat)
  /-- a packet of a die's engine on a port to a peer index, with the starting PSN where it carries SYN (15 R435) -/
  | net (die port peer : Nat) (syn : Option Nat) (p : NetPkt)
  /-- answers of a die's engine to a source index: an acknowledgement, RNR, and a refusal (15 R443, R447) -/
  | netAck (die mode src cack map : Nat)
  | netRnr (die mode src psn : Nat)
  | netRefuse (die mode src psn : Nat)
  /-- a dynamic-capacity event, passed to the host (14 R426) -/
  | capacity (v : Nat)
  /-- a bundle for a peer device (14 R413) -/
  | bundle (dev bseq : Nat) (ops : List PeerOp)
  | trace (die : Nat) (w0 w1 : Word)
deriving DecidableEq, Repr

/-- The fields of an error-log record but for its sequence number (13 R387). -/
structure ErrRec where
  die : Nat
  cause : Cause
  outcome : Nat := 0
  mapped : Bool := false
  restart : Bool := false
  core : Nat := 0
  pkgu : Bool := false
  loc : Nat := 0
  cycle : Nat := 0
  inst : Nat := 0xFFFF
  lseq : Nat := 0
deriving DecidableEq, Repr

/-- A self-test that runs (13 R384): the record of its error and that record's sequence number, the structure and row of the
error, its core, and the unit: its number, and its code among the boot records' units. -/
structure SelfTest where
  err : ErrRec
  seq : Nat
  st : Nat
  row : Nat
  core : Nat
  unit : Nat
  code : Nat
  /-- the launch in whose state the error was found -/
  launch : Option Nat := none
  /-- the contexts, as core and launch, whose state a structure of the package held (R383; 06 R226) -/
  held : List (Nat × Nat) := []
deriving DecidableEq, Repr

/-- Which agent acts in a step, and on which unit: a core, a thread of it (16 the CT), the halfwords of the instruction,
and the unit number that an event names (log 1). -/
structure Cur where
  core : Nat := 0
  thr : Nat := 16
  len : Nat := 1
  unit : Nat := 0
  /-- what an input without fields of its own carries -/
  arg : Nat := 0
deriving DecidableEq, Repr

/-- A turn of the agenda (log 1): an agent, and an event, or none for the agent's next instruction. -/
structure Turn where
  cur : Cur
  ev : Option Instr
deriving DecidableEq, Repr

/-- The state of one B8. -/
structure State where
  /-- the agent whose instruction or event acts (log 1) -/
  cur : Cur := {}
  /-- which agents act next and what arrives from outside, oldest first (log 1) -/
  agenda : List Turn := []
  /-- the counter that free values are drawn with (log 2) -/
  tick : Nat := 0
  /-- CYCLE (03 R106) -/
  cycle : Nat := 0
  /-- cores by package core number; 4,096 + die for the stewards -/
  cores : FMap Core := []
  /-- HBM and CXL memory by PA (10 R305) -/
  mem : Memory := []
  /-- vault slots: data by core × 2^21 + physical offset (01 R17) -/
  vault : Memory := []
  /-- tag and SP bit by core × 2^15 + physical line -/
  vtag : FMap LineTag := []
  /-- accumulator memories by core × 2^16 + offset (08 R273) -/
  acc : Memory := []
  /-- translations held by TLBs, walk caches and permission copies (10 R314, R316) -/
  tlb : List Xlat := []
  /-- cluster presence bits by PA / 64 (06 R199) -/
  presence : FMap (BitVec 16) := []
  /-- the package commit clock (06 R201) -/
  clock : Nat := 0
  /-- arrival order at the reeves (06 R200) -/
  arrivals : Nat := 0
  /-- releases of copies and matrix commands (07 R239; 08 R276) -/
  released : Nat := 0
  /-- the core that holds the reservation, and those that wait for it in order (06 R206) -/
  rsvHolder : Option Nat := none
  rsvQueue : List Nat := []
  /-- package registers by offset, and die registers by 2^20 + die × 2^16 + offset; unlisted: their reset value
  (10 R309; 13 R386) -/
  regs : FMap Word := []
  /-- context images of streamed-out contexts, oldest first (05 R182) -/
  images : List Image := []
  /-- barrier objects that a barrier instruction has named, by core × 2^17 + unit (09 R286, log 13) -/
  objs : List Nat := []
  /-- poisoned granules: PA and bytes (10 R325) -/
  poison : List (Nat × Nat) := []
  /-- the class, GRAN, under which a walk last found a frame, by frame number (10 R324, log 111) -/
  grans : FMap Nat := []
  /-- granules whose corrected data waits to be written (10 R330) -/
  scrubs : List Scrub := []
  /-- gather engine queues by cluster × 16 + engine, oldest first (07 R249) -/
  gathers : FMap (List GatherCmd) := []
  /-- command queues (12 R343) -/
  queues : FMap Queue := []
  /-- the last queue that the scheduler served (12 R356) -/
  served : Nat := 63
  /-- the average of the measured power exceeds BUDGET (12 R361) -/
  powerHold : Bool := false
  /-- almanac recording and binding: the table's queue, VA and section size; and the next entry by core (12 R364, R365) -/
  almRec : Option (Nat × Nat × Nat) := none
  almBind : Option (Nat × Nat × Nat) := none
  almRecPos : FMap Nat := []
  almBindPos : FMap Nat := []
  /-- clusters whose matrix slices skip issue cycles (12 R362) -/
  throttled : List Nat := []
  /-- flits of torus messages, by destination × 2^18 + source × 2^8 + kind, then by SEQ (12 R338, R340) -/
  flits : FMap (FMap Nat) := []
  /-- launches by number (12 R348), and the next number -/
  launches : FMap Launch := []
  nextLaunch : Nat := 0
  /-- bundle sequence numbers by target device (14 R412) -/
  bseq : FMap Nat := []
  /-- what the device has sent to the outside, oldest first (log 1) -/
  outbox : List Out := []
  /-- domain records (09 R298) -/
  doms : List Dom := []
  /-- page-fault records not answered, oldest first (10 R321) -/
  posts : List Posted := []
  /-- bundles of peer devices in the staging, in order of arrival, and the next sequence number to apply, by source
  (14 R414) -/
  staged : List Staged := []
  bseqIn : FMap Nat := []
  /-- `shfence`s of peer devices not acknowledged, and the highest version seen, by ASID × 2^56 + base (12 R378; 14 R412) -/
  fencesIn : List FenceIn := []
  versions : FMap Nat := []
  /-- the cycle at which the notice of a lease ends, by lease; leases whose closing message is still to be sent, with the
  device, base and ASID (14 R411) -/
  leaseDue : FMap Nat := []
  closing : List (Nat × Nat × Nat × Nat) := []
  /-- host writes that have not taken effect: address, bytes, value (14 R431) -/
  hostQ : List (Nat × Nat × Nat) := []
  /-- words whose full/empty bit is full, by PA / 8 (10 R323, log 3), and the retry lists in order of arrival (14 R421) -/
  full : FMap Bool := []
  feList : List FeReq := []
  /-- resume and abandon packets on their way, oldest first (07 R244) -/
  packets : List Packet := []
  /-- the network engines: messages in order of release, connections of both sides, and regions by die × 256 + index (15) -/
  netMsgs : List NetMsg := []
  netConns : List NetConn := []
  netRecvs : List NetRecv := []
  regions : FMap Region := []
  /-- self-tests that run; detected errors of the last 2^30 cycles as unit and cycle; every boot record since the last erasing, newest
  first (13 R384, R393, R394) -/
  tests : List SelfTest := []
  errors : List (Nat × Nat) := []
  boot : List Word := []
  /-- refresh credits by die × 2^16 + channel, and the cycle of the last heartbeat by die × 8 + stack (10 R331, R332); stacks
  that a controller refreshes -/
  credits : FMap Nat := []
  beats : FMap Nat := []
  refTaken : List Nat := []
  /-- deterministic phases held by home slices, oldest first (10 R312) -/
  dets : List DetHold := []
  /-- why the device accepts no work any more, if it does not (13 R392) -/
  recovery : Bool := false
  /-- ways and lanes that are mapped out, by UNIT and number from 1 (13 R385, R393) -/
  partsOut : List (Nat × Nat) := []
  /-- dies, stacks, ports and links that are disabled, by UNIT (13 R385, R392) -/
  absent : List Nat := []
deriving DecidableEq, Repr

/-! ## Reasons to stop -/

/-- Why the machine stops. -/
inductive Fault where
  /-- raised by `step` in recovery mode, in which the device runs nothing (13 R392). Safe: the spec lets nothing run. -/
  | recoveryMode
deriving DecidableEq, Repr

/-- Why a step has no meaning. -/
inductive Refusal where
  /-- raised by an arm of `exec` whose instruction has no meaning yet. Safe: no claim is made of it. -/
  | notModelled (mnemonic : String)
deriving DecidableEq, Repr

/-- The package after reset (01, 05–15: the Reset columns; INVENTORY.md, State). Every table is empty, so every register
has the reset value that its reader names. -/
def State.reset : State := {}

end Sys2Proof.Machine
end

