-- ==== Sys2Proof/Machine/CopyGeom.lean ====
section
/-! DEFINITION. The fields of a copy template (07 R232), the checks on an entry (R233, R234), and the geometry of a copy:
rows, extents, and which destination bytes lie at or above the watermark (R239). -/
namespace Sys2Proof.Machine

/-- Bits hi:lo of the bytes at offset `o` of a 64-byte record (00 R4). -/
def rf (t : BitVec 512) (o hi lo : Nat) : Nat := bits t.toNat (8 * o + hi) (8 * o + lo)

def tSkind (t : BitVec 512) : Nat := rf t 0 57 56
def tDkind (t : BitVec 512) : Nat := rf t 8 57 56
/-- Element counts N0 to N3. -/
def tN (t : BitVec 512) (i : Nat) : Nat := rf t 0x10 (16 * i + 15) (16 * i)
/-- Source strides of dimensions 1 to 3, signed. -/
def tSstr (t : BitVec 512) (i : Nat) : Int := sextI (rf t 0x18 (32 * i - 1) (32 * i - 32)) 32
/-- Destination strides of dimensions 1 to 3, unsigned. -/
def tDstr (t : BitVec 512) (i : Nat) : Nat := rf t 0x24 (32 * i - 1) (32 * i - 32)
def tSfmt (t : BitVec 512) : Nat := rf t 0x30 4 0
/-- The target format; 0 means SFMT. -/
def tDfmt (t : BitVec 512) : Nat := if rf t 0x30 9 5 = 0 then tSfmt t else rf t 0x30 9 5
def tRm (t : BitVec 512) : Nat := rf t 0x30 12 10
def tPair (t : BitVec 512) : Bool := rf t 0x30 13 13 == 1
def tSatn (t : BitVec 512) : Bool := rf t 0x30 14 14 == 1
def tValid (t : BitVec 512) : Bool := rf t 0x30 15 15 == 1
def tCtr (t : BitVec 512) : Nat := rf t 0x30 19 16
def tArg (t : BitVec 512) : Nat := rf t 0x30 21 20
def tPlvl (t : BitVec 512) : Nat := rf t 0x30 23 22
def tPhase (t : BitVec 512) : Nat := rf t 0x30 27 24
def tRows (t : BitVec 512) : Nat := rf t 0x34 15 0
def tCols (t : BitVec 512) : Nat := rf t 0x34 31 16
/-- The memory-side scale region, as a VA. -/
def tSclva (t : BitVec 512) : Nat := rf t 0x38 55 6 * 64

/-- Bytes are counted where a side is `raw` (07 R234). -/
def tBytes (t : BitVec 512) : Bool := tSfmt t == 0 || tDfmt t == 0
/-- Bits of a source element. -/
def tSbits (t : BitVec 512) : Nat := if tBytes t then 8 else elemBits (tSfmt t)
/-- Bits of a destination element. -/
def tDbits (t : BitVec 512) : Nat := if tBytes t then 8 else elemBits (tDfmt t)
/-- Bytes of a destination row. -/
def tRowBytes (t : BitVec 512) : Nat := tN t 0 * tDbits t / 8
/-- Bytes of a source row. -/
def tSrcRowBytes (t : BitVec 512) : Nat := (tN t 0 * tSbits t + 7) / 8
/-- Rows of the format are whole groups (07 R233): `e3m2`, `e2m3`, `bx2`–`bx8`, and every format where PAIR = 1. -/
def fmtGrouped (t : BitVec 512) (f : Nat) : Bool := groupBytes f != 64 || tPair t
/-- The format moves in whole groups: several lines, or lines with their scales (07 R240). -/
def fmtMoves (t : BitVec 512) (f : Nat) : Bool := groupBytes f != 64 || (tPair t && groupBlocks f != 0)

/-- Reserved fields of a template that must be 0 (07 R232). -/
def tplReservedOk (t : BitVec 512) : Bool :=
  rf t 0 63 58 == 0 && rf t 8 63 58 == 0 && rf t 0x30 31 28 == 0 && rf t 0x38 5 0 == 0 && rf t 0x38 63 56 == 0 &&
  (tSkind t == 0 || rf t 0 55 33 == 0) && (tDkind t == 0 || rf t 8 55 33 == 0)

/-- A scratchpad base whose rows start at group boundaries, with its strides (07 R233). -/
def groupAligned (base : Nat) (strides : List (Nat × Int)) (g : Nat) : Bool :=
  base % g == 0 && strides.all (fun e => e.1 == 1 || e.2 % (g : Int) == 0)

/-- The first group of checks of 07 R233, with the multicast rules of R241 and the rule of R235; a failure is 0x80. The products of R233
are taken as they are written, also with the stride of a dimension whose count is 1 (DEDUCED, log 144). -/
def tplShapeOk (t : BitVec 512) : Bool :=
  let n := tN t
  let db := tDbits t
  let ss := [(n 1, tSstr t 1), (n 2, tSstr t 2), (n 3, tSstr t 3)]
  let ds : List (Nat × Int) := [(n 1, (tDstr t 1 : Int)), (n 2, (tDstr t 2 : Int)), (n 3, (tDstr t 3 : Int))]
  let sg := fmtGrouped t (tSfmt t)
  let dg := fmtGrouped t (tDfmt t)
  tplReservedOk t && decide (tSkind t ≤ 1) && decide (tDkind t ≤ 2) &&
  !tagReserved (tSfmt t) && !tagReserved (tDfmt t) &&
  (List.range 4).all (fun i => n i != 0) && decide (tRm t ≤ 3) && (n 0 * db) % 8 == 0 &&
  (!sg || (n 0 % groupElems (tSfmt t) == 0 &&
    groupAligned (if tSkind t = 0 then 0 else rf t 0 20 0) ss (groupBytes (tSfmt t)))) &&
  (!dg || (n 0 % groupElems (tDfmt t) == 0 &&
    groupAligned (if tDkind t = 0 then 0 else rf t 8 20 0) ds (groupBytes (tDfmt t)))) &&
  (n 1 == 1 || decide (tRowBytes t ≤ tDstr t 1)) &&
  (n 2 == 1 || decide (n 1 * tDstr t 1 ≤ tDstr t 2)) &&
  (n 3 == 1 || decide (n 2 * tDstr t 2 ≤ tDstr t 3)) &&
  (tDkind t != 2 || (tRows t != 0 && tCols t != 0 && rf t 8 28 21 == 0)) &&
  !(tPair t && tSkind t == 0 && tDkind t == 0)

/-- The type converts (07 R234): a plain type, `acc` or an MX element type. -/
def convertible (f : Nat) : Bool := tagIsPlain f || f == tagAcc || tagIsMx f

/-- The format rules of 07 R234; a failure is 0x84. -/
def tplFmtOk (t : BitVec 512) : Bool :=
  tDfmt t == tSfmt t || (convertible (tSfmt t) && convertible (tDfmt t) && !(tagIsMx (tDfmt t) && tPair t))

/-- The checks that `ctpl` and the launch make of an entry (07 R233, R237, R251). -/
def tplCheck (t : BitVec 512) : Option Cause :=
  if !tplShapeOk t then some 0x80 else if !tplFmtOk t then some 0x84 else none

/-! ## Rows and extents -/

/-- The offset of the last destination row from the base. -/
def dstLastRow (t : BitVec 512) : Nat :=
  (tN t 1 - 1) * tDstr t 1 + (tN t 2 - 1) * tDstr t 2 + (tN t 3 - 1) * tDstr t 3
/-- Bytes from the first to one past the last destination byte. -/
def dstSpan (t : BitVec 512) : Nat := dstLastRow t + tRowBytes t
/-- Lowest and one past the highest source byte, relative to the base (07 R233). -/
def srcSpan (t : BitVec 512) : Int × Int :=
  let d := fun i => ((tN t i : Int) - 1) * tSstr t i
  let neg := fun (v : Int) => if v < 0 then v else 0
  let pos := fun (v : Int) => if v < 0 then 0 else v
  (neg (d 1) + neg (d 2) + neg (d 3), pos (d 1) + pos (d 2) + pos (d 3) + (tSrcRowBytes t : Int))

/-- The last row that starts at or below offset `x`: its indices and its offset. Rows rise with their indices
(07 R233), so the greedy choice finds it. -/
def dstRowAt (t : BitVec 512) (x : Nat) : (Nat × Nat × Nat) × Nat :=
  let pick := fun (n st y : Nat) => if n ≤ 1 || st = 0 then 0 else min (n - 1) (y / st)
  let i3 := pick (tN t 3) (tDstr t 3) x
  let y3 := x - i3 * tDstr t 3
  let i2 := pick (tN t 2) (tDstr t 2) y3
  let y2 := y3 - i2 * tDstr t 2
  let i1 := pick (tN t 1) (tDstr t 1) y2
  ((i1, i2, i3), i3 * tDstr t 3 + i2 * tDstr t 2 + i1 * tDstr t 1)

/-- The source offset of a row. -/
def srcRowOff (t : BitVec 512) (r : Nat × Nat × Nat) : Int :=
  (r.1 : Int) * tSstr t 1 + (r.2.1 : Int) * tSstr t 2 + (r.2.2 : Int) * tSstr t 3

/-- Some destination byte at offset ≥ `w` lies in offsets [a, b). -/
def dstHits (t : BitVec 512) (w a b : Nat) : Bool :=
  if b = 0 then false
  else
    let r := dstRowAt t (b - 1)
    let lo := max (max a w) r.2
    decide (lo < min b (r.2 + tRowBytes t))

/-- The offset of the first destination byte at or above offset `x`; none past the last. -/
def dstNext (t : BitVec 512) (x : Nat) : Option Nat :=
  let r := dstRowAt t x
  if x < r.2 + tRowBytes t then some (max x r.2)
  else
    -- the next row in rising order: step the indices
    let i := r.1
    if i.1 + 1 < tN t 1 then some (r.2 + tDstr t 1)
    else
      let b2 := i.2.2 * tDstr t 3 + (i.2.1 + 1) * tDstr t 2
      if i.2.1 + 1 < tN t 2 then some b2
      else if i.2.2 + 1 < tN t 3 then some ((i.2.2 + 1) * tDstr t 3) else none

/-- One past the unit that begins at offset `y`: the line, or the group where the target moves in groups. A base that ARG has moved off a
group boundary since the template was checked splits the copy at the slot's group boundaries (DESIGN CHOICE, log 121). -/
def unitEnd (q : CopyCmd) (y : Nat) : Nat :=
  let base := if tDkind q.t = 0 then q.dst else q.dst % 2 ^ 21
  let g := groupBytes (tDfmt q.t)
  if !fmtMoves q.t (tDfmt q.t) then (base + y) / 64 * 64 + 64 - base
  else if tDkind q.t = 0 then y / g * g + g
  else (base + y) / g * g + g - base

/-- The target cores of the destination: one, or the multicast set (07 R241). -/
def dstCores (c : CopyCmd) : List Nat :=
  let base := bits c.dst 32 31 * 1024 + bits c.dst 30 29 * 256
  if tDkind c.t = 2 then
    (List.range 256).filterMap (fun i =>
      if (tRows c.t).testBit (i / 16) && (tCols c.t).testBit (i % 16) then some (base + i) else none)
  else [base + bits c.dst 28 21]

/-- The core of a scratchpad source. -/
def srcCore (c : CopyCmd) : Nat := bits c.src 32 31 * 1024 + bits c.src 30 29 * 256 + bits c.src 28 21

/-- The watermark in its base form, without the slot of a replica: an offset from the copy's base (07 R239). -/
def chanOff (ch : Chan) (c : CopyCmd) : Nat := ch.w - c.dst

/-- The offset from which a copy of a channel has still to write core `d`, where its watermark stands at offset `w`: a replica that
holds the unit there already is one unit ahead (07 R241). -/
def Chan.unwritten (ch : Chan) (q : CopyCmd) (w d : Nat) : Nat :=
  if ch.done.contains d && ch.cur == some q then (match dstNext q.t w with | some y => unitEnd q y | none => w) else w

end Sys2Proof.Machine
end

