-- ==== Sys2Proof/Machine/Access.lean ====
section
/-! DEFINITION. Reading and writing the parts of the state: cores, contexts, threads, registers, predicates, far results.
Special behaviour of registers (x0, f0) lives here and nowhere else (01 R10). -/
namespace Sys2Proof.Machine

/-! ## Cores and contexts -/

/-- A core. -/
def State.core (s : State) (c : Nat) : Core := s.cores.get c {}
/-- Replaces a core. -/
def State.setCore (s : State) (c : Nat) (k : Core) : State := { s with cores := s.cores.put c k }
/-- Changes a core. -/
def State.upCore (s : State) (c : Nat) (f : Core → Core) : State := s.setCore c (f (s.core c))

/-- Slot 1 holds the running context (05 R182). -/
def Core.runs1 (k : Core) : Bool := k.slot1.st == .running
/-- The running context; slot 0's where none runs. -/
def Core.cx (k : Core) : Ctx := if k.runs1 then k.slot1.ctx else k.slot0.ctx
/-- Replaces the running context. -/
def Core.setCx (k : Core) (x : Ctx) : Core :=
  if k.runs1 then { k with slot1 := { k.slot1 with ctx := x } } else { k with slot0 := { k.slot0 with ctx := x } }
/-- The number of the running slot. -/
def Core.slotNo (k : Core) : Nat := if k.runs1 then 1 else 0
/-- Slot 0 or 1. -/
def Core.slot (k : Core) (i : Nat) : Slot := if i = 0 then k.slot0 else k.slot1
/-- Replaces slot 0 or 1. -/
def Core.setSlot (k : Core) (i : Nat) (v : Slot) : Core :=
  if i = 0 then { k with slot0 := v } else { k with slot1 := v }
/-- A context runs on the core. -/
def Core.isRunning (k : Core) : Bool := k.slot0.st == .running || k.slot1.st == .running
/-- The slot that holds the context of a launch, if one does (05 R95, R184). -/
def Core.slotOf (k : Core) (l : Nat) : Option Nat :=
  if k.slot0.st != .empty && k.slot0.ctx.launch == some l then some 0
  else if k.slot1.st != .empty && k.slot1.ctx.launch == some l then some 1 else none

/-- The running context of a core. -/
def State.cx (s : State) (c : Nat) : Ctx := (s.core c).cx
/-- Replaces the running context of a core. -/
def State.setCx (s : State) (c : Nat) (x : Ctx) : State := s.setCore c ((s.core c).setCx x)
/-- Changes the running context of a core. -/
def State.upCx (s : State) (c : Nat) (f : Ctx → Ctx) : State := s.setCx c (f (s.cx c))
/-- Changes the context of launch `l` on core `c`, in whichever slot it stands. -/
def State.upLaunchCx (s : State) (c l : Nat) (f : Ctx → Ctx) : State :=
  match (s.core c).slotOf l with
  | some i => s.upCore c (fun k => k.setSlot i { k.slot i with ctx := f (k.slot i).ctx })
  | none => s
/-- The context of launch `l` on core `c`. -/
def State.launchCx (s : State) (c l : Nat) : Option Ctx :=
  ((s.core c).slotOf l).map (fun i => ((s.core c).slot i).ctx)

/-- Changes the context of launch `l` on core `c`, in a slot or in its image. -/
def State.upAnyCx (s : State) (c l : Nat) (f : Ctx → Ctx) : State :=
  match (s.core c).slotOf l with
  | some _ => s.upLaunchCx c l f
  | none => { s with images := s.images.map (fun im =>
      if im.core == c && im.ctx.launch == some l then { im with ctx := f im.ctx } else im) }

/-- The context of launch `l` on core `c`, in a slot or in its image. -/
def State.anyCx (s : State) (c l : Nat) : Option Ctx :=
  match s.launchCx c l with
  | some x => some x
  | none => (s.images.find? (fun im => im.core == c && im.ctx.launch == some l)).map (·.ctx)

/-- Changes the restored state of a context, and of every checkpoint in it. -/
def Ctx.upArchAll (x : Ctx) (f : Arch → Arch) : Ctx :=
  { x with
    arch := f x.arch
    chunk := { x.chunk with ckpt := f x.chunk.ckpt }
    pend := x.pend.map (fun k => { k with ckpt := f k.ckpt }) }

/-- The core is a steward (07 R245). -/
def isSteward (c : Nat) : Bool := decide (4096 ≤ c)
/-- The die of a core (00 R2). -/
def dieOf (c : Nat) : Nat := if isSteward c then (c - 4096) % 4 else c / 1024 % 4
/-- The package number of a core's cluster, 0–15. -/
def clusterOf (c : Nat) : Nat := c / 256
/-- The core index in its cluster. -/
def coreIdx (c : Nat) : Nat := c % 256

/-! ## Threads -/

/-- A micro-thread. -/
def Arch.mt (a : Arch) (i : Nat) : Mt := a.mts.get i .start
/-- Replaces a micro-thread. -/
def Arch.setMt (a : Arch) (i : Nat) (m : Mt) : Arch := { a with mts := a.mts.put i m }
/-- A thread: 16 is the CT. -/
def Arch.thr (a : Arch) (t : Nat) : Thr := if t = 16 then a.ct else (a.mt t).thr
/-- Replaces a thread. -/
def Arch.setThr (a : Arch) (t : Nat) (v : Thr) : Arch :=
  if t = 16 then { a with ct := v } else a.setMt t { a.mt t with thr := v }

/-- The restored state of the running context of a core. -/
def State.arch (s : State) (c : Nat) : Arch := (s.cx c).arch
/-- Replaces it. -/
def State.setArch (s : State) (c : Nat) (a : Arch) : State := s.setCx c { s.cx c with arch := a }
/-- Changes it. -/
def State.upArch (s : State) (c : Nat) (f : Arch → Arch) : State := s.setArch c (f (s.arch c))
/-- A thread of a core. -/
def State.thrAt (s : State) (c t : Nat) : Thr := (s.arch c).thr t
/-- Replaces a thread. -/
def State.setThrAt (s : State) (c t : Nat) (v : Thr) : State := s.setArch c ((s.arch c).setThr t v)
/-- Changes a thread. -/
def State.upThrAt (s : State) (c t : Nat) (f : Thr → Thr) : State := s.setThrAt c t (f (s.thrAt c t))
/-- A micro-thread of a core. -/
def State.mtAt (s : State) (c i : Nat) : Mt := (s.arch c).mt i
/-- Replaces a micro-thread. -/
def State.setMtAt (s : State) (c i : Nat) (m : Mt) : State := s.setArch c ((s.arch c).setMt i m)
/-- Changes a micro-thread. -/
def State.upMtAt (s : State) (c i : Nat) (f : Mt → Mt) : State := s.setMtAt c i (f (s.mtAt c i))

/-- The acting thread. -/
def State.thr (s : State) : Thr := s.thrAt s.cur.core s.cur.thr
/-- Replaces the acting thread. -/
def State.setThr (s : State) (v : Thr) : State := s.setThrAt s.cur.core s.cur.thr v
/-- Changes the acting thread. -/
def State.upThr (s : State) (f : Thr → Thr) : State := s.setThr (f s.thr)
/-- The acting micro-thread. -/
def State.mt (s : State) : Mt := s.mtAt s.cur.core s.cur.thr
/-- Replaces the acting micro-thread. -/
def State.setMt (s : State) (m : Mt) : State := s.setMtAt s.cur.core s.cur.thr m
/-- The acting thread is the control thread. -/
def State.isCt (s : State) : Bool := s.cur.thr == 16

/-! ## Registers (01 R9, R10) -/

/-- A scalar register; x0 reads 0. -/
def Thr.getX (t : Thr) (n : Nat) : Word := if n = 0 then 0 else t.x.get n 0
/-- Writes a scalar register; a write to x0 is discarded. -/
def Thr.setX (t : Thr) (n : Nat) (v : Word) : Thr := if n = 0 then t else { t with x := t.x.set n v 0 }
/-- A predicate; f0 reads true. -/
def Thr.getF (t : Thr) (n : Nat) : Bool := n == 0 || t.f.getLsbD n
/-- A predicate file with one bit replaced. -/
def setBit8 (f : BitVec 8) (n : Nat) (b : Bool) : BitVec 8 :=
  if b then f ||| (1#8 <<< n) else f &&& ~~~(1#8 <<< n)
/-- Writes a predicate; a write to f0 is discarded. -/
def Thr.setF (t : Thr) (n : Nat) (b : Bool) : Thr := if n = 0 then t else { t with f := setBit8 t.f n b }
/-- An address register. -/
def Mt.getA (m : Mt) (n : Nat) : BitVec 32 := m.a.get n 0
/-- Writes an address register. -/
def Mt.setA (m : Mt) (n : Nat) (v : BitVec 32) : Mt := { m with a := m.a.set n v 0 }
/-- A mask register; its Start value is all ones. -/
def Mt.getM (m : Mt) (n : Nat) : BitVec 32 := m.m.get n 0xFFFFFFFF
/-- Writes a mask register. -/
def Mt.setM (m : Mt) (n : Nat) (v : BitVec 32) : Mt := { m with m := m.m.set n v 0xFFFFFFFF }
/-- An input queue. -/
def Mt.getQ (m : Mt) (n : Nat) : List Word := m.q.get n []
/-- Writes an input queue. -/
def Mt.setQ (m : Mt) (n : Nat) (v : List Word) : Mt := { m with q := m.q.set n v [] }

/-- A scalar register of the acting thread. -/
def State.x (s : State) (n : Nat) : Word := s.thr.getX n
/-- Writes a scalar register of the acting thread. -/
def State.setX (s : State) (n : Nat) (v : Word) : State := s.setThr (s.thr.setX n v)
/-- A predicate of the acting thread. -/
def State.f (s : State) (n : Nat) : Bool := s.thr.getF n
/-- Writes a predicate of the acting thread. -/
def State.setF (s : State) (n : Nat) (b : Bool) : State := s.setThr (s.thr.setF n b)

/-! ## Block header fields (02 R53, R54) -/

/-- LEN. -/
def hdrLen (h : BitVec 32) : Nat := bits h.toNat 31 26
/-- KIND. -/
def hdrKind (h : BitVec 32) : Nat := bits h.toNat 25 24
/-- Park point field i, 1 to 4; 0 outside that range. -/
def hdrPark (h : BitVec 32) (i : Nat) : Nat :=
  match i with
  | 1 => bits h.toNat 23 18
  | 2 => bits h.toNat 17 12
  | 3 => bits h.toNat 11 6
  | 4 => bits h.toNat 5 0
  | _ => 0
/-- The number of non-zero park fields. -/
def hdrParks (h : BitVec 32) : Nat :=
  b2n (hdrPark h 1 != 0) + b2n (hdrPark h 2 != 0) + b2n (hdrPark h 3 != 0) + b2n (hdrPark h 4 != 0)
/-- The address of the block that follows a block in memory (02 R53; 03 R87). -/
def nextBlock (blk : Word) (h : BitVec 32) : Word := blk + BitVec.ofNat 64 ((4 + 2 * hdrLen h + 7) / 8 * 8)

/-! ## Far results and park points (01 R11; 02 R58, R59) -/

/-- The source takes a word from a queue, so that it is waited for even where the word is discarded (05 R173). -/
def FarSrc.takes : FarSrc → Bool
  | .value _ | .released _ => false
  | .inputQueue _ | .link _ | .returnQueue _ | .fifo .. => true

/-- Adds a far-class destination to the hazard set and puts its result in flight. A result for x0 sets no far-pending bit
(01 R10); its word is taken all the same. -/
def Thr.issueFar (t : Thr) (n : Nat) (src : FarSrc) : Thr :=
  if n = 0 then (if src.takes then { t with far := t.far ++ [⟨0, src⟩] } else t)
  else { t with hz := t.hz ||| (1#16 <<< n), far := t.far ++ [⟨n, src⟩] }

/-- Far results that the thread's far-pending bits show (01 R11). -/
def Thr.pending (t : Thr) : List Far := t.far.filter (fun e => e.reg != 0)

/-- The far-pending bits (01 R12). -/
def Thr.farp (t : Thr) : Nat := t.pending.foldl (fun a e => a ||| 2 ^ e.reg) 0

/-- The number of the park point that stands directly before the next halfword and has not been passed; 0 for none. A record may have
left out points before it (02 R62), so it need not be the next one. -/
def Thr.parkNo (t : Thr) : Nat :=
  ((List.range 5).find? (fun i => decide (t.park < i) && hdrPark t.hdr i != 0 && hdrPark t.hdr i + 1 == t.off)).getD 0

/-- A park point stands directly before the next halfword and has not been passed. -/
def Thr.parkDue (t : Thr) : Bool := t.parkNo != 0

/-- The thread waits for a full/empty operation, before its next block (14 R419). -/
def Thr.feWaits (t : Thr) : Bool := match t.stall with | some ⟨.fullEmpty _, _, _⟩ => true | _ => false

/-- Passes the waits that are over: a park point, and the wait at the end of a block (02 R59). -/
def Thr.settle (t : Thr) : Thr :=
  if !t.pending.isEmpty then t
  else match t.phase with
    | .body => if t.parkDue then { t with hz := 0, park := t.parkNo } else t
    | .ending e =>
      let t := if t.parkDue then { t with park := t.parkNo } else t
      if t.feWaits then t
      else
      let t := { t with hz := 0, blockDone := true }
      match e with
      | .entry a => { t with phase := .entry a }
      | .queue => { t with phase := .idle }
      | .stop => { t with phase := .stopped }
    | _ => t

/-- An MT whose stream ends returns to its block queue with STATE 0 (03 R91; 05 R161). -/
def Mt.settle (m : Mt) : Mt :=
  let t := m.thr.settle
  let t := if t.phase = .stopped then { t with phase := .idle } else t
  { m with thr := t, mode := if t.phase = .idle then .idle else m.mode }

/-- A thread, or an MT, passes the wait at the end of a block that ended in an earlier chunk: no block of the executing chunk has ended
(06 R214). -/
def Thr.settleOld (t : Thr) : Thr := { t.settle with blockDone := t.blockDone }
/-- The same for an MT. -/
def Mt.settleOld (m : Mt) : Mt := let q := m.settle; { q with thr := { q.thr with blockDone := m.thr.blockDone } }

/-- Passes the waits of a thread of a core that are over. -/
def State.settle (s : State) (c t : Nat) : State :=
  if t = 16 then s.upThrAt c 16 Thr.settle else s.upMtAt c t Mt.settle

/-- The thread waits for far results at a park point or at the end of its block (01 R12, STATE 3). -/
def Thr.parkWaits (t : Thr) : Bool :=
  !t.pending.isEmpty && (match t.phase with | .body => t.parkDue | .ending _ => true | _ => false)

/-- The instruction has been performed: the next one follows at the next halfword, or the block ends (02 R57).
`m` tells whether an MT runs a broadcast block. -/
def Thr.advance (t : Thr) (bcast : Bool) (len : Nat) : Thr :=
  let t := { t with off := t.off + len, stall := none, passEvent := false, answers := [], t0 := none }
  if hdrLen t.hdr < t.off then
    { t with phase := .ending (if bcast then .queue else .entry (nextBlock t.blk t.hdr)) }
  else t

/-- The control thread goes on after the instruction at which it has waited for an event, at a boundary: no block of the
chunk has ended yet. -/
def Thr.goesOn (t : Thr) : Thr :=
  { (t.advance false (match t.stall with | some w => w.len | none => 2)).settle with blockDone := false }

/-! ## Status derived from the state -/

/-- `MT_STAT.STATE` (01 R12). -/
def Mt.state (m : Mt) : Nat :=
  match m.thr.phase with
  | .faulted => 4
  | .halted => 5
  | _ =>
    if m.thr.parkWaits then 3
    else match m.mode with | .idle => 0 | .broadcast => 1 | .detached => 2

/-- `MT_STAT` (01 R12). -/
def Mt.stat (m : Mt) : Word :=
  BitVec.ofNat 64 (m.state + m.bq.length * 2 ^ 3 + m.thr.park * 2 ^ 6 + m.cause.toNat * 2 ^ 16 +
    m.thr.farp * 2 ^ 32)

/-- The MT is idle with an empty block queue (05 R158, R165). -/
def Mt.idleEmpty (m : Mt) : Bool := m.thr.phase == .idle && m.bq.isEmpty

/-- Each wait of which 03 R77, 05 R166, 07 R252, 09 R294, R299, 10 R320 and 12 R378 say that it counts as standing at a
block boundary. -/
def Wait.boundary : Wait → Bool
  | .admission .. => true
  | .inputRoom .. => true
  | .join .. => true
  | .gang => true
  | .counter .. => true
  | .barrier .. => true
  | .phaseEnd _ => true
  | .tlbi => true
  | .shards .. => true
  | .digest _ => true
  | .translate .. => false
  | .returnRoom _ => false
  | .linkRoom .. => false
  | .lateral .. => false
  | .residency _ => false
  | .pendingLine _ => false
  | .offPackage => false
  | .grant _ => false
  | .peer .. => false
  | .fullEmpty _ => true
  | .pageFault => false
  | .results => false

/-- Every far result that the thread still waits for is that of a commit-released instruction (03 R77). -/
def Thr.onlyReleased (t : Thr) : Bool :=
  t.pending.all (fun e => match e.src with | .released _ => true | _ => false)

/-- The thread waits for the effect of a commit-released instruction (03 R77). -/
def Thr.awaitsCommit (t : Thr) : Bool :=
  t.feWaits || t.pending.any (fun e => match e.src with | .released _ => true | _ => false)

/-- The thread stands at a block boundary (06 R187; 03 R77; 05 R166), and no far result of its own is in flight but that of a
commit-released instruction: a cut waits for the others (01 R13). -/
def Thr.atBoundary (t : Thr) : Bool :=
  t.onlyReleased &&
  match t.phase with
  | .idle | .entry _ | .resume .. | .faulted | .halted | .stopped => true
  | .ending _ => !t.pending.isEmpty || t.feWaits
  | .body =>
    match t.stall with
    | some w => w.why.boundary
    | none => false

/-- The threads of a core: the CT, and the MTs unless it is a steward. -/
def threadsOf (c : Nat) : List Nat := if isSteward c then [16] else 16 :: List.range 16

end Sys2Proof.Machine
end

