-- ==== Sys2Proof/Machine/Chunk.lean ====
section
/-! DEFINITION. Signatures (06 R196, R197), reach (R199), squash (R202, R205) and the memory view of a chunk (R194, R195,
R212): what a core sees of its own uncommitted stores. -/
namespace Sys2Proof.Machine

/-! ## Signatures -/

/-- The hash multiplier of a bank (06 R196). -/
def sigMul (k : Nat) : Nat :=
  match k with
  | 0 => 0xA53F1C9B2D67E40C8B
  | 1 => 0x6DE2184A7FC395B1D7
  | 2 => 0xC18B573E06D9A2F46D
  | _ => 0x3B94F0E7C15A286E39

/-- The bit of bank k that a key sets (06 R196). -/
def sigHash (key k : Nat) : Nat := 512 * k + (key * sigMul k % 2 ^ 72) / 2 ^ 63

/-- The four bits of a key. -/
def sigBits (key : Nat) : BitVec 2048 :=
  BitVec.ofNat 2048 (2 ^ sigHash key 0 + 2 ^ sigHash key 1 + 2 ^ sigHash key 2 + 2 ^ sigHash key 3)

/-- The key of a memory line: global form, or ASID and VA (06 R196). -/
def memKey (g : Bool) (asid va : Nat) : Nat :=
  if g then 2 ^ 66 + bits va 55 6 else asid % 65536 * 2 ^ 50 + bits va 55 6

/-- The key of a lateral line of the slot of core `c` (06 R196). -/
def lateralKey (asid c off : Nat) : Nat :=
  asid % 65536 * 2 ^ 50 + 3 * 2 ^ 48 + (c / 1024 % 4) * 2 ^ 25 + (c / 256 % 4) * 2 ^ 23 + (c % 256) * 2 ^ 15 +
    off / 64 % 2 ^ 15

/-- Every bank of two signatures has a common bit (06 R197). -/
def sigOverlap (a b : BitVec 2048) : Bool :=
  (List.range 4).all (fun k => (a &&& b).extractLsb' (512 * k) 512 != 0)

/-- A line is a member of a signature (06 R197). -/
def sigMember (s : BitVec 2048) (key : Nat) : Bool := s &&& sigBits key == sigBits key

/-- The conflict test of 06 R200 step 3 between a chunk C and a chunk D. -/
def Chunk.conflicts (c d : Chunk) : Bool :=
  sigOverlap c.wsig d.rsig || sigOverlap c.wsig d.wsig || sigOverlap c.rsig d.wsig

/-! ## Reach (06 R199) -/

/-- Bit positions of the clusters that hold any of the lines. -/
def State.clustersOf (s : State) (lines : List Nat) : BitVec 16 :=
  lines.foldl (fun a l => a ||| s.presence.get l 0) 0

/-- The level of the smallest unit that holds all the clusters of a set, at least `lvl0`; `cl` is the own cluster. -/
def levelOf (set : BitVec 16) (cl lvl0 : Nat) : Nat :=
  let set := set ||| (1#16 <<< cl)
  if set = 1#16 <<< cl then lvl0
  else if set &&& ~~~(0xF#16 <<< (cl / 4 * 4)) = 0 then max lvl0 2 else 3

/-- The reach of a chunk of core `c`. -/
def State.reachOf (s : State) (c : Nat) (k : Chunk) : Nat :=
  if k.touched.isEmpty && !k.lateral then 0 else levelOf (s.clustersOf k.touched) (clusterOf c % 16) 1

/-- Core `d` is in the subtree of the reeve of level `lvl` above core `c`. -/
def inSubtree (lvl c d : Nat) : Bool :=
  if isSteward d then false
  else match lvl with
    | 0 => d == c
    | 1 => clusterOf d == clusterOf c
    | 2 => dieOf d == dieOf c
    | _ => true

/-- A cluster gains presence of a memory line. -/
def State.gainPresence (s : State) (c line : Nat) : State :=
  let b := s.presence.get line 0
  let b' := b ||| (1#16 <<< (clusterOf c % 16))
  if b = b' then s else { s with presence := s.presence.put line b' }

/-! ## The vault (01 R17; 06 R194; 09 R288) -/

/-- The tag of a physical line of a slot. -/
def State.lineTag (s : State) (c line : Nat) : LineTag := s.vtag.get (c * 2 ^ 15 + line) {}
/-- Sets a tag. -/
def State.setLineTag (s : State) (c line : Nat) (t : LineTag) : State :=
  { s with vtag := s.vtag.set (c * 2 ^ 15 + line) t {} }

/-- A byte that plain writes do not change: part of the wake list, the upper half of a 16-byte barrier object with ARMED = 1 (09 R286,
R288; log 13). -/
def wakeAt (m : Memory) (objs : List Nat) (a : Nat) : Bool :=
  decide (8 ≤ a % 16) && objs.contains (a / 16) && (m.read (a / 16 * 16 + 4)).getLsbD 5

/-- The same for physical offset `p` of a slot. -/
def State.wakeByte (s : State) (c p : Nat) : Bool := wakeAt s.vault s.objs (c * 2 ^ 21 + p)

/-- Writes bytes of a slot, or of an image, from address `a` upward, except into wake lists. ARMED is tested as it stands before the
write. -/
def putBytes (m : Memory) (objs : List Nat) (a : Nat) (bs : List Byte) : Memory :=
  let keep := (List.range bs.length).map (fun i => wakeAt m objs (a + i))
  ((bs.zip keep).foldl (fun (q : Memory × Nat) e => (if e.2 then q.1 else q.1.write q.2 e.1, q.2 + 1)) (m, a)).1

/-- Writes bytes of a slot from physical offset `p` upward. -/
def State.vaultWrite (s : State) (c p : Nat) (bs : List Byte) : State :=
  { s with vault := putBytes s.vault s.objs (c * 2 ^ 21 + p) bs }

/-- What stands for the slot of core `c` in the names of lines and objects of the window of launch `l` while that window is not
resident; they are then counted from the window's beginning (05 R184). -/
def awayCore (c l : Nat) : Nat := c + 8192 * (l + 1)
/-- The name is one of those. -/
def isAway (d : Nat) : Bool := decide (8192 ≤ d)
/-- Changes the image that such a name stands for. -/
def State.upAway (s : State) (d : Nat) (f : Image → Image) : State :=
  { s with images := s.images.map (fun im => if awayCore im.core (im.ctx.launch.getD 0) = d then f im else im) }

/-- The 8 bytes from offset `o` of a barrier object on, wherever its window is. -/
def State.objWord (s : State) (obj o : Nat) : Nat :=
  let d := obj / 2 ^ 17
  if isAway d then
    match s.images.find? (fun im => awayCore im.core (im.ctx.launch.getD 0) == d) with
    | some im => im.bytes.readNat (obj % 2 ^ 17 * 16 + o) 8
    | none => 0
  else s.vault.readNat (obj * 16 + o) 8
/-- Writes them. -/
def State.setObjWord (s : State) (obj o v : Nat) : State :=
  let d := obj / 2 ^ 17
  if isAway d then s.upAway d (fun im => { im with bytes := im.bytes.writeNat (obj % 2 ^ 17 * 16 + o) 8 v })
  else { s with vault := s.vault.writeNat (obj * 16 + o) 8 v }

/-- The 64 bytes of a physical line. -/
def State.vaultLine (s : State) (c line : Nat) : List Byte := s.vault.readN (c * 2 ^ 21 + line * 64) 64

/-- Undoes one logged write (06 R194, R202). -/
def State.undoOne (s : State) (u : Undo) : State :=
  if isAway u.core then s.upAway u.core (fun im =>
    { im with bytes := putBytes im.bytes im.objs (u.line * 64) u.data, tags := im.tags.set u.line u.tag {} })
  else (s.vaultWrite u.core (u.line * 64) u.data).setLineTag u.core u.line u.tag

/-! ## Squash (06 R202, R203, R205) -/

/-- TARGET of a `CHK_CTL` value (06 R190). -/
def chkTarget (w : Word) : Nat := fld w 14 0
/-- E: the TARGET of the chunk's checkpoint, which governs from the cut, or less while it is reduced (06 R186, R205, R220). -/
def Ctx.eff (x : Ctx) : Nat :=
  let t := chkTarget x.chunk.ckpt.chkCtl
  match x.cap with
  | some e => min t e
  | none => t
/-- STEP of a `CHK_CTL` value (06 R216). -/
def chkStep (w : Word) : Bool := fld w 20 20 == 1

/-- Puts the elements that a chunk popped back at the head of their FIFOs (07 R257). -/
def Ctx.unpop (x : Ctx) (p : List (Nat × Word)) : Ctx :=
  p.foldr (fun e x =>
    { x with fifos := x.fifos.set e.1 (e.2 :: x.fifos.get e.1 []) [],
             fifoOut := x.fifoOut.put e.1 (x.fifoOut.get e.1 0 + 1) }) x

/-- The chunk that begins again at a checkpoint after a squash. Stepped mode stays on (06 R214). -/
def Chunk.again (k : Chunk) (sq : Nat) (rsv : Bool) : Chunk :=
  { ckpt := k.ckpt, took := k.took, stepped := k.stepped, target := k.target, sq := sq, wantsRsv := rsv }

/-- Whether a chunk of core `c` with place below `k`, or one of another core, has named the object. -/
def State.namedElse (s : State) (c k obj : Nat) : Bool :=
  s.cores.any (fun e =>
    let x := e.2.cx
    (if e.1 = c then x.pend.take k else x.chunk :: x.pend).any (fun q => q.newObjs.contains obj))

/-- The naming of an object stands, whatever chunk is squashed: a chunk that named it has committed, or a thread has parked on it, which
no squash undoes (09 R288; log 13). -/
def State.keepObj (s : State) (obj : Nat) : State :=
  let drop := fun (q : Chunk) => { q with newObjs := q.newObjs.filter (· != obj) }
  s.cores.keys.foldl (fun s d =>
    if ((s.cx d).chunk :: (s.cx d).pend).any (fun q => q.newObjs.contains obj) then
      s.upCx d (fun x => { x with chunk := drop x.chunk, pend := x.pend.map drop })
    else s) s

/-- Drops what chunks of core `c`, from place `k` on, wrote in slots, newest chunk first. -/
def State.undoChunks (s : State) (c k : Nat) (ks : List Chunk) : State :=
  ks.foldl (fun s q =>
    let s := q.undo.foldl State.undoOne s
    { s with objs := s.objs.filter (fun o => !q.newObjs.contains o || s.namedElse c k o) }) s

/-- A thread at its checkpoint after a squash: it has ended no block of the chunk, and the waits whose instruction
re-executes from its start, checks included, are gone (05 R166; 09 R294). -/
def Thr.rewind (t : Thr) : Thr :=
  { t with
    blockDone := false
    t0 := none
    stall := match t.stall with
      | some ⟨.admission .., _, _⟩ | some ⟨.inputRoom .., _, _⟩ | some ⟨.join .., _, _⟩ | some ⟨.barrier .., _, _⟩ => none
      | w => w }
/-- The same for every thread. -/
def Arch.rewind (a : Arch) : Arch :=
  { a with ct := a.ct.rewind, mts := a.mts.map (fun m => (m.1, { m.2 with thr := m.2.thr.rewind })) }

/-- The full/empty operations that the threads of a restored state wait for (14 R423). -/
def Arch.feIds (a : Arch) : List Nat :=
  ((16, a.ct) :: a.mts.map (fun m => (m.1, m.2.thr))).filterMap (fun e => match e.2.stall with
    | some ⟨.fullEmpty id, _, _⟩ => some id
    | _ => none)

/-- The place of the chunk that holds, or asks for, a reservation among the chunks of a context, the executing one last: the
oldest that began with E = 64 after a counted squash (06 R206). -/
def Ctx.rsvPlace (x : Ctx) : Option Nat := (x.pend ++ [x.chunk]).findIdx? (·.wantsRsv)

/-- Chunk number `k` of core `c` holds the reservation. -/
def State.reserved (s : State) (c k : Nat) : Bool := s.rsvHolder == some c && (s.cx c).rsvPlace == some k

/-- The executing chunk of core `c` holds the reservation. -/
def State.execReserved (s : State) (c : Nat) : Bool := s.reserved c (s.cx c).pend.length

/-- A core gives up its reservation, or its place among those that wait for one. -/
def State.dropRsv (s : State) (c : Nat) : State :=
  { s with rsvHolder := if s.rsvHolder = some c then none else s.rsvHolder, rsvQueue := s.rsvQueue.filter (· != c) }

/-- A cut is pending from a cycle on, if not earlier (06 R219). -/
def Ctx.cutFrom (x : Ctx) (t : Nat) : Ctx :=
  { x with chunk := { x.chunk with cutSince := some (x.chunk.cutSince.getD t) } }

/-- A pending asynchronous event can be taken: no handler runs, and the CT has not ended (06 R219). -/
def Ctx.asyncOpen (x : Ctx) : Bool :=
  !x.async.isEmpty && !x.taking && !(x.arch.gang.isSome && x.arch.gangWait.isSome) && !x.arch.trap.stat.getLsbD 0 &&
  x.fin.isNone && x.arch.ct.phase != .stopped

/-- One requests a cut (06 R188): the cut at which it is taken has not fallen yet. -/
def Ctx.asyncDue (x : Ctx) : Bool := x.asyncOpen && !x.asyncCut

/-- A context switch waits, and fewer than 64 instructions of the length are left (05 R183). -/
def State.switchDue (s : State) (c : Nat) : Bool :=
  (s.core c).switchTo.isSome && decide ((s.cx c).eff < (s.cx c).chunk.retired + 64)

/-- A cut that an asynchronous event or a context switch requests is pending from now on (06 R188, R219). -/
def State.noteCut (s : State) (c : Nat) : State :=
  if (s.cx c).asyncDue || s.switchDue c then s.upCx c (·.cutFrom s.cycle) else s

/-- Squashes the chunks of core `c` from the cut chunk number `k` on (`k` = number of cut chunks: the executing one
alone). A counted squash counts toward SQ and E (06 R205). A core whose causes are to be taken at its next commit executes
no chunk. -/
def State.squashOne (s : State) (c k : Nat) (counted : Bool) : State :=
  let x := s.cx c
  if x.taking && x.pend.length ≤ k then s else
  let drop := (x.chunk :: (x.pend.drop k).reverse)
  let first := (x.pend.drop k).headD x.chunk
  let s := s.undoChunks c k drop
  let x := drop.foldl (fun x ck => x.unpop ck.popped) (s.cx c)
  let sq := if counted then first.sq + 1 else first.sq
  let cap := if sq = 4 then some (max 64 (x.eff / 2)) else x.cap
  let x := { x with
    arch := first.ckpt.rewind
    cap := cap
    squashes := min (x.squashes + 1) 0xFFFFFFFF
    chunk := first.again (if sq = 4 then 0 else sq) (counted && cap == some 64)
    pend := x.pend.take k
    async := ((x.pend.drop k).drop 1 ++ [x.chunk]).flatMap (fun q =>
      if (x.pend.drop k).isEmpty then [] else q.took) ++ x.async
    feDrop := x.feDrop ++ first.ckpt.feIds.filter (fun i => !x.feDrop.contains i)
    taking := false
    asyncCut := false }
  let s := s.setCx c x
  let tr := drop.reverse.flatMap (fun k => k.traces.map (fun r => { r with sq := true }))
  let s := (if tr.isEmpty then s else s.upCore c (fun k => { k with traceOut := k.traceOut ++ tr })).noteCut c
  if (s.cx c).rsvPlace.isSome then s else s.dropRsv c

/-- Engine `unit` of a row of structure 5 on core `c` tests itself: its commands wait (13 R384). Rows: 0 copy channels, 1 the gather
engines of the cluster, 2 the matrix slice and its accumulator, 3 the network engine of the die. -/
def State.engineTest (s : State) (row c unit : Nat) : Bool :=
  s.tests.any (fun t => t.st == 5 && t.row == row && (match row with
    | 0 => t.core == c && t.unit == unit
    | 1 => clusterOf t.core == clusterOf c && t.unit == unit
    | 2 => t.core == c
    | _ => dieOf t.core == dieOf c))

/-- The cores of the gang that core `c` belongs to; `c` alone outside a gang (05 R175). -/
def State.gangCores (s : State) (c : Nat) : List Nat :=
  match (s.arch c).gang with
  | none => [c]
  | some g => (List.range (2 ^ (g.size + 1))).map (fun i => c - g.pos + i)

/-- The core's control thread takes part in a gang's stream (05 R177): it runs no trap handler of its own. -/
def State.inStream (s : State) (c : Nat) : Bool := ((s.arch c).gang.map (fun g => !g.own)).getD false

/-- A squash. A gang squashes as one unit (05 R178). -/
def State.squash (s : State) (c k : Nat) (counted : Bool) : State :=
  (s.gangCores c).foldl (fun s d => s.squashOne d k counted) s

/-- Squashes the executing chunk, and that of every member of the gang. -/
def State.squashExec (s : State) (c : Nat) (counted : Bool) : State :=
  (s.gangCores c).foldl (fun s d => s.squashOne d (s.cx d).pend.length counted) s

/-! ## What a core sees of memory (06 R195, R208, R212) -/

/-- The byte at a PA as a thread of core `c` sees it: its executing chunk's store, else the newest cut chunk's, else the
committed byte. -/
def State.seeByte (s : State) (c pa : Nat) : Byte :=
  let x := s.cx c
  match (x.chunk :: x.pend.reverse).findSome? (fun k => k.stores.find pa) with
  | some b => b
  | none => s.mem.read pa

/-- `n` bytes as core `c` sees them. -/
def State.seeN (s : State) (c pa : Nat) : Nat → List Byte
  | 0 => []
  | n + 1 => s.seeByte c pa :: seeN s c (pa + 1) n

/-- The chunk has been granted. -/
def Chunk.isGranted (k : Chunk) : Bool := match k.st with | .granted .. => true | _ => false

/-- A granted commit has still to write a line. -/
def Ctx.grantOn (x : Ctx) (line : Nat) : Bool := x.pend.any (fun k => k.isGranted && k.stores.any (fun b => b.1 / 64 == line))

/-- A granted commit of another core has still to write a line (06 R199, R200 step 7). -/
def State.grantHeld (s : State) (c line : Nat) : Bool := s.cores.any (fun e => e.1 != c && e.2.cx.grantOn line)

/-- A granted commit of any core has still to write a line, for what reads it outside the threads (06 R199). -/
def State.grantOn (s : State) (line : Nat) : Bool := s.cores.any (fun e => e.2.cx.grantOn line)

/-- Stores bytes in the executing chunk of core `c`. -/
def State.putN (s : State) (c pa : Nat) (bs : List Byte) : State :=
  s.upCx c (fun x => { x with chunk := { x.chunk with
    stores := (bs.foldl (fun (a : FMap Byte × Nat) b => (a.1.put a.2 b, a.2 + 1)) (x.chunk.stores, pa)).1 } })

/-- Enters a memory line in the signatures, the touched lines and the presence bits (06 R196, R199). -/
def State.noteMem (s : State) (c key line : Nat) (rd wr : Bool) : State :=
  let s := s.upCx c (fun x => { x with chunk := { x.chunk with
    rsig := if rd then x.chunk.rsig ||| sigBits key else x.chunk.rsig
    wsig := if wr then x.chunk.wsig ||| sigBits key else x.chunk.wsig
    touched := if x.chunk.touched.contains line then x.chunk.touched else line :: x.chunk.touched } })
  s.gainPresence c line

/-- Requests a chunk cut (06 R188). -/
def State.requestCut (s : State) (c : Nat) : State :=
  s.upCx c (fun x => { x with chunk := { x.chunk with cutReq := true } }.cutFrom s.cycle)

/-- The first chunk of core `d` that has not been granted, is not the reserved one and meets a test: its place among the core's
chunks (06 R200 step 6, R206). -/
def State.victim (s : State) (d : Nat) (hit : Chunk → Bool) : Option Nat :=
  let ks := (s.cx d).pend ++ [(s.cx d).chunk]
  (List.range ks.length).find? (fun i => let k := ks.getD i {}; !k.isGranted && !s.reserved d i && hit k)

/-- A line's key is a member of one of a chunk's signatures. -/
def Chunk.holdsKey (k : Chunk) (key : Nat) : Bool := sigMember k.rsig key || sigMember k.wsig key

/-- A synthetic write of a line waits: a granted, unfinished commit holds the line, or the reserved chunk of a core other
than `own`, for which the write is made, does (06 R200 step 3, R206, R207). -/
def State.synthHeld (s : State) (key : Nat) (own : Option Nat) : Bool :=
  s.cores.any (fun e =>
    let x := e.2.cx
    let ks := x.pend ++ [x.chunk]
    (List.range ks.length).any (fun i =>
      let k := ks.getD i {}
      (k.isGranted || (own != some e.1 && s.reserved e.1 i)) && k.holdsKey key))

/-- Squashes every ungranted chunk that a synthetic write of a line reaches (06 R207, R200 step 6): those whose
signatures hold the key, but not the reserved chunk. -/
def State.squashKey (s : State) (key : Nat) : State :=
  s.cores.keys.foldl (fun s d => match s.victim d (·.holdsKey key) with
    | some i => s.squash d i true
    | none => s) s

end Sys2Proof.Machine
end

