-- ==== Sys2Proof/Machine/Translate.lean ====
section
/-! DEFINITION. Registers of the die and the package by offset (10 R309; 12 R343), translation and the page walk (10
R314–R319), writes of synthetic chunks to memory (06 R207), and the checks of a peer address (14 R406, R407). -/
namespace Sys2Proof.Machine

/-! ## Registers outside the cores -/

/-- The reset value of a die register (10 R309; 15 R436). -/
def dieReset (off : Nat) : Word :=
  match off with
  | 0x038 => 0x1801            -- SCRUB: EN 1, PERIOD 24
  | 0x040 => 1                 -- REFR: MGMT 1
  | 0x080 => 0x1086             -- NE_CFG: PORTS 0b11, RLIM 8, RTO 16
  | _ => 0

/-- A die register. -/
def State.dieReg (s : State) (d off : Nat) : Word := s.regs.get (2 ^ 20 + d * 2 ^ 16 + off) (dieReset off)
/-- Writes a die register as it stands. -/
def State.setDieReg (s : State) (d off : Nat) (v : Word) : State :=
  { s with regs := s.regs.set (2 ^ 20 + d * 2 ^ 16 + off) v (dieReset off) }

/-- The reset value of a package register (12 R362; 13 R386, R395). -/
def pkgReset (off : Nat) : Word :=
  if off = 0x0010 then 0x01900C80 -- PWR_CFG: BUDGET 3,200, PBASE 400
  else if off = 0x0020 then 0x1FFFF -- FEAT_SUP0
  else if off = 0x0030 then 1 -- FEAT_EN0
  else if 0x2000 ≤ off && off < 0x2200 then BitVec.allOnes 64 -- CORE_MAP
  else 0

/-- A package register. -/
def State.pkgReg (s : State) (off : Nat) : Word := s.regs.get off (pkgReset off)
/-- Writes a package register as it stands. -/
def State.setPkgReg (s : State) (off : Nat) (v : Word) : State :=
  { s with regs := s.regs.set off v (pkgReset off) }

/-- A feature is enabled (13 R395). -/
def State.feature (s : State) (n : Nat) : Bool := (s.pkgReg 0x0030).getLsbD n

/-! ## Synthetic writes (06 R207) -/

/-- A little-endian number in committed memory. -/
def State.memNat (s : State) (pa n : Nat) : Nat := s.mem.readNat pa n

/-- The reverse-map entry's address of a frame (10 R317). -/
def State.rmapAddr (s : State) (pa : Nat) : Nat :=
  let r := s.dieReg (bits pa 49 48) 0x008
  fld r 51 16 * 65536 + (bits pa 50 50 * 2 ^ 32 + bits pa 47 16) * 8

/-- The signature key of a memory line by the reverse map; none where no mapping claims its frame (06 R207). -/
def State.paKey (s : State) (pa : Nat) : Option Nat :=
  if fld (s.dieReg (bits pa 49 48) 0x008) 0 0 = 0 then none
  else
    let e := s.memNat (s.rmapAddr pa) 8
    if bits e 0 0 = 0 then none
    else some (memKey (bit e 1) (bits e 17 2) (bits e 57 18 * 65536 + pa % 65536))

/-- A unit of a die, by its code among the boot records' units, is disabled, or the die is (13 R385, R392, R393). -/
def State.isAbsent (s : State) (die code : Nat) : Bool := s.absent.any (fun u => u == die * 4096 + code || u == die * 4096 + 4095)

/-- The stack or the CXL port that serves a PA is disabled: its memory is not there, and every access to it meets what an uncorrectable
error, or a device's error, would give (13 R392, log 134). -/
def State.goneAt (s : State) (pa : Nat) : Bool :=
  s.absent.any (fun u => u / 4096 == bits pa 49 48 &&
    (u % 4096 == 4095 || u % 4096 == (if bits pa 51 50 = 1 then 1284 else 1024 + Config.homeStack pa % 3)))

/-- Bytes [pa, pa + n) meet a poisoned granule (10 R325). -/
def State.poisoned (s : State) (pa n : Nat) : Bool :=
  s.goneAt pa || s.poison.any (fun q => decide (q.1 < pa + n) && decide (pa < q.1 + q.2))

/-- An access to bytes [pa, pa + n) meets a poisoned granule, unless it is a write that covers it (10 R325). -/
def State.poisonBars (s : State) (pa n : Nat) (write : Bool) : Bool :=
  s.goneAt pa || s.poison.any (fun q => decide (q.1 < pa + n) && decide (pa < q.1 + q.2) &&
    !(write && decide (pa ≤ q.1) && decide (q.1 + q.2 ≤ pa + n)))

/-- What a write of bytes [pa, pa + n) does beside the data: a granule that it covers is no longer poisoned (10 R325), and the
tags of scrub entries rise (R330). -/
def State.written (s : State) (pa n : Nat) : State :=
  { s with
    poison := s.poison.filter (fun q => !(decide (pa ≤ q.1) && decide (q.1 + q.2 ≤ pa + n)))
    scrubs := s.scrubs.map (fun e =>
      if decide (e.base < pa + n) && decide (pa < e.base + e.size) then { e with tag := e.tag + 1 } else e) }

/-- A synthetic write of the line at a PA must wait (R200 step 3, R206). -/
def State.synthBusy (s : State) (own : Option Nat) (pa : Nat) : Bool :=
  match s.paKey pa with
  | some key => s.synthHeld key own
  | none => false

/-- A write of bytes to committed memory as a synthetic chunk: it squashes the ungranted chunks that hold the line (06
R207). -/
def State.synthWrite (s : State) (pa : Nat) (bs : List Byte) : State :=
  let s := match s.paKey pa with
    | some key => s.squashKey key
    | none => s
  ({ s with mem := s.mem.writeN pa bs, clock := s.clock + 1 } : State).written pa bs.length

/-- The same for a little-endian number. -/
def State.synthNat (s : State) (pa n v : Nat) : State := s.synthWrite pa (toBytes n v)

/-! ## Translation -/

/-- Bits of a leaf (10 R315). -/
def leafR (a : BitVec 16) : Bool := a.getLsbD 2
def leafW (a : BitVec 16) : Bool := a.getLsbD 3
def leafX (a : BitVec 16) : Bool := a.getLsbD 4
def leafS (a : BitVec 16) : Bool := a.getLsbD 5
def leafG (a : BitVec 16) : Bool := a.getLsbD 6
def leafD (a : BitVec 16) : Bool := a.getLsbD 8
def leafGran (a : BitVec 16) : Nat := bits a.toNat 10 9
def leafFe (a : BitVec 16) : Bool := a.getLsbD 11
def leafConf (a : BitVec 16) : Bool := a.getLsbD 12

/-- The page attributes or the privilege permit the access: kind 0 load, 1 store, 2 atomic, 3 fetch (03 R78). -/
def leafPermits (a : BitVec 16) (kind : Nat) (sup : Bool) : Bool :=
  (match kind with
    | 0 => leafR a
    | 1 => leafW a
    | 2 => leafR a && leafW a
    | _ => leafX a) && (!leafS a || sup)

/-- The translation that is held for an address (10 R314, R316). -/
def State.xlatOf (s : State) (asid va : Nat) : Option Xlat :=
  s.tlb.find? (fun x => x.vpn == bits va 55 16 && (x.g || x.asid == asid))

/-- What a walk finds. -/
inductive Walk where
  | ok (s : State) (x : Xlat)
  | fault (s : State) (reason : Nat)
  | absent
  /-- a register that the walk needs is not valid: 0xB5 (10 R309) -/
  | invalid
  /-- it waits for a commit that holds a line which it reads or writes (06 R199, R207) -/
  | busy
  /-- it meets a poisoned granule at a PA (10 R325) -/
  | poison (pa : Nat)
  /-- the page is confidential and feature 10 is not enabled: 0x1F (13 R395) -/
  | lacks
deriving DecidableEq, Repr

/-- An entry of 8 bytes as a walk reads it, like a load that enters no signature (10 R314). -/
def State.tableEntry (s : State) (a : Nat) : Except Walk Nat :=
  if s.grantOn (a / 64) then .error .busy
  else if s.poisoned a 8 then .error (.poison a)
  else .ok (s.memNat a 8)

/-- The reserved chunk of the core for which a walk is made, if it holds the key of the line that the walker updates: it is squashed,
since the update cannot wait for it (06 R206, R207, log 135). -/
def State.squashOwn (s : State) (own key : Option Nat) : State :=
  match own, key with
  | some c, some key =>
    let ks := (s.cx c).pend ++ [(s.cx c).chunk]
    match (List.range ks.length).find? (fun i => let k := ks.getD i {}; !k.isGranted && s.reserved c i && k.holdsKey key) with
    | some i => s.squash c i true
    | none => s
  | _, _ => s

/-- An update of an entry by the walker: one synthetic chunk, which waits as a commit of the line would (06 R207). `own` is the
core for which it walks. -/
def State.putEntry (s : State) (own : Option Nat) (a v : Nat) : Except Walk State :=
  if s.synthBusy own a then .error .busy else .ok ((s.squashOwn own (s.paKey a)).synthNat a 8 v)

/-- A table entry's fields are as they must be; its table is aligned to `al` (10 R315). -/
def tableOk (e al : Nat) : Bool := bits e 7 2 == 0 && (bits e 51 8 * 256) % al == 0

/-- The leaf of a walk below the table at `base`, at a level: its address, the entry and its level (10 R314, R315). -/
def State.walkLevel (s : State) (base va : Nat) : Nat → Except Walk (Nat × Nat × Nat)
  | 0 => .error (.fault s 15)
  | n + 1 =>
    let a := base + (match n with | 2 => bits va 47 30 | 1 => bits va 29 21 | _ => bits va 20 16) * 8
    match s.tableEntry a with
    | .error w => .error w
    | .ok e =>
      if bits e 0 0 = 0 then .error .absent
      else if bits e 1 1 = 1 then .ok (a, e, 3 - n)
      else if n = 0 || !tableOk e (if n = 2 then 4096 else 256) then .error (.fault s 15)
      else s.walkLevel (bits e 51 8 * 256) va n

/-- The frame number of the 64 KiB frame of a VA under a leaf. -/
def leafFrame (e level va : Nat) : Nat :=
  bits e 51 16 + (match level with | 1 => bits va 29 16 | 2 => bits va 20 16 | _ => 0)

/-- A leaf is well formed for a VA (10 R315). -/
def leafOk (e level va : Nat) : Bool :=
  bits e 15 14 == 0 &&
  (match level with | 1 => bits e 29 16 == 0 | 2 => bits e 20 16 == 0 | _ => true) &&
  bits e 51 48 == bits va 55 52 && (bits va 55 54 == 0 || bits e 10 9 == 1)

/-- The data of a frame were written under one class and are decoded under another: its bytes and its full/empty bits, which
the code covers (10 R323), are free values (10 R324, log 111). -/
def State.misdecode (s : State) (pfn : Nat) : State :=
  let free := fun (i : Nat) => Config.freeByte (s.tick * 2 ^ 52 + pfn * 65536 + i)
  { s with
    mem := s.mem.fill (pfn * 65536) 65536 free
    full := (List.range 8192).foldl (fun m i => m.set (pfn * 8192 + i) ((free (65536 + i)).getLsbD 0) false) s.full }

/-- A walk finds a frame under class `g`; the claim of its mapping stands already where `claimed` (10 R317, R324). -/
def State.underClass (s : State) (pfn g : Nat) (claimed : Bool) : State :=
  let s := if claimed && s.grans.get pfn g != g then s.misdecode pfn else s
  { s with grans := s.grans.put pfn g }

/-- The reverse map's entry of the frame names the mapping already, or is claimed for it; another mapping's is an alias (10
R317). -/
def State.claimFrame (s : State) (own : Option Nat) (asid va pfn : Nat) (g : Bool) : Except Walk (State × Bool) :=
  let ra := s.rmapAddr (pfn * 65536)
  match s.tableEntry ra with
  | .error w => .error w
  | .ok m =>
    let want := 1 + b2n g * 2 + (if g then 0 else asid % 65536) * 4 + bits va 55 16 * 2 ^ 18
    if bits m 0 0 = 0 then match s.putEntry own ra want with
      | .error w => .error w
      | .ok s => .ok (s, false)
    else if bits m 57 0 ≠ want then .error (.fault s 1)
    else .ok (s, true)

/-- What follows once a leaf is found: the feature that a confidential page depends on (13 R395), the leaf's checks, the reverse map, the class, the permissions, then A and D (10 R315, R317, R319,
R324; 03 R78). -/
def State.walkLeaf (s : State) (own : Option Nat) (asid va kind : Nat) (sup : Bool) (addr e level : Nat) : Walk :=
  if leafConf (BitVec.ofNat 16 e) && !s.feature 10 then .lacks
  else if !leafOk e level va then .fault s 15
  else if fld (s.dieReg (bits va 53 52) 0x008) 0 0 = 0 then .invalid
  else
    let pfn := leafFrame e level va
    match s.claimFrame own asid va pfn (bit e 6) with
    | .error w => w
    | .ok (s, claimed) =>
      let s := s.underClass pfn (bits e 10 9) claimed
      let attr := BitVec.ofNat 16 e
      if !leafPermits attr kind sup then .fault s 2
      else
        let e' := setBits e 7 7 1
        let e' := if kind = 1 || kind = 2 then setBits e' 8 8 1 else e'
        let x : Xlat := ⟨bit e 6, asid % 65536, bits va 55 16, pfn, BitVec.ofNat 16 e'⟩
        if e' = e then .ok s x
        else match s.putEntry own addr e' with
          | .error w => w
          | .ok s => .ok s x

/-- A walk for core `own`, or for no core: root, levels, then the leaf (10 R314). -/
def State.walk (s : State) (asid va kind : Nat) (sup : Bool) (own : Option Nat) : Walk :=
  let at' := s.dieReg (bits va 53 52) 0x000
  if fld at' 0 0 = 0 then .invalid
  else match s.tableEntry (fld at' 51 22 * 2 ^ 22 + asid % 65536 * 64 + bits va 54 52 * 8) with
    | .error w => w
    | .ok rt =>
      if bits va 51 48 ≠ 0 then .fault s 3
      else if bits rt 0 0 = 0 then .absent
      else match s.walkLevel (bits rt 51 21 * 2 ^ 21) va 3 with
        | .error w => w
        | .ok (addr, e, level) => s.walkLeaf own asid va kind sup addr e level

/-- Holds a translation, in place of one for the same page. -/
def State.holdXlat (s : State) (x : Xlat) : State :=
  { s with tlb := x :: s.tlb.filter (fun y => !(y.vpn == x.vpn && y.g == x.g && (y.g || y.asid == x.asid))) }

/-! ## Units outside the cores (log 26) -/

/-- What a unit's access by VA gives: a value, or an error: it must wait (true), or the place cannot be read or written
(false). -/
abbrev UnitRes (α : Type) := State × Except Bool α

/-- Goes on with the value. -/
def UnitRes.bind {α β : Type} (r : UnitRes α) (f : State → α → UnitRes β) : UnitRes β :=
  match r with
  | (s, .error w) => (s, .error w)
  | (s, .ok a) => f s a

/-- The value of an access that need not wait; none where the place is unreadable. -/
def UnitRes.got {α : Type} (r : UnitRes α) : Option α := match r.2 with | .ok a => some a | .error _ => none

/-- The access must wait. -/
def UnitRes.waits {α : Type} (r : UnitRes α) : Bool := match r.2 with | .error true => true | _ => false

/-- A walk for a unit. -/
def State.walkPa (s : State) (asid va kind : Nat) : UnitRes Nat :=
  match s.walk asid va kind true none with
  | .ok s x => (s.holdXlat x, .ok (x.pfn * 65536 + va % 65536))
  | .fault s _ => (s, .error false)
  | .absent | .invalid | .poison _ | .lacks => (s, .error false)
  | .busy => (s, .error true)

/-- The PA of a VA of region 0b00 for a unit that reads (kind 0) or writes (1) by VA outside any thread. It acts with
supervisor privilege (log 26). A line that a commit has still to write, and for a write one that a reservation holds, makes it
wait (06 R199, R206, R207). -/
def State.unitPa (s : State) (asid va kind : Nat) : UnitRes Nat :=
  if va / 2 ^ 54 ≠ 0 then (s, .error false)
  else
    let r : UnitRes Nat := match s.xlatOf asid va with
      | some x =>
        if !leafPermits x.attr kind true || (leafConf x.attr && !s.feature 10) then (s, .error false)
        else if kind = 1 && !leafD x.attr then s.walkPa asid va kind
        else (s, .ok (x.pfn * 65536 + va % 65536))
      | none => s.walkPa asid va kind
    UnitRes.bind r (fun s pa => if s.grantOn (pa / 64) || (kind = 1 && s.synthBusy none pa) then (s, .error true) else (s, .ok pa))

/-- Reads n bytes. -/
def State.unitRead (s : State) (asid va : Nat) : Nat → UnitRes (List Byte)
  | 0 => (s, .ok [])
  | n + 1 => UnitRes.bind (s.unitPa asid va 0) (fun s pa =>
    if s.poisoned pa 1 then (s, .error false)
    else UnitRes.bind (s.unitRead asid (va + 1) n) (fun s' r => (s', .ok (s.mem.read pa :: r))))

/-- Reads a table of entries of `size` bytes, as numbers. -/
def State.unitTable (s : State) (asid va size : Nat) : Nat → UnitRes (List Nat)
  | 0 => (s, .ok [])
  | n + 1 => UnitRes.bind (s.unitRead asid va size) (fun s bs =>
    UnitRes.bind (s.unitTable asid (va + size) size n) (fun s r => (s, .ok (ofBytes bs :: r))))

/-! ## Peer addresses (14 R406, R407) -/

/-- Every UALink port of the package is disabled: no device can be reached (13 R385, R392, log 134). -/
def State.noLinks (s : State) : Bool :=
  !s.absent.isEmpty && (List.range 4).all (fun d => (List.range 4).all (fun i => s.isAbsent d (1280 + i)))

/-- The checks of 14 R406 on a device; the reason that fails. -/
def State.peerReason (s : State) (p : Nat) : Option Nat :=
  let w := fun (base : Nat) => (s.pkgReg (base + 8 * (p / 64))).getLsbD (p % 64)
  let pod := s.pkgReg 0xC800
  if fld pod 10 10 = 0 || p = fld pod 9 0 || !w 0xC840 then some 5
  else if !w 0xC8C0 || s.noLinks then some 6
  else if !w 0xC940 then some 7
  else none

/-- The device of a peer-leased address, or the reason of its refusal (14 R407). -/
def State.leaseOf (s : State) (va : Nat) : Except Nat Nat :=
  let b := 0xCA00 + 32 * bits va 53 48
  let cfg := s.pkgReg b
  if fld cfg 0 0 = 0 || fld (s.pkgReg (b + 16)) 47 16 * 65536 ≤ bits va 47 0 then .error 3
  else match s.peerReason (fld cfg 12 3) with
    | some r => .error r
    | none => if fld cfg 2 1 = 2 then .error 8 else .ok (fld cfg 12 3)

end Sys2Proof.Machine
end

