-- ==== Sys2Proof/Machine/Scratch.lean ====
section
/-! DEFINITION. Scratchpad accesses by threads (03 R95; 05 R184): the window, the marks that engines leave on lines
(07 R239; 08 R276), the line rules between cores (06 R198), the undo log (R194), and reads and writes. Every refusal of
an access is a value of `Stop`. -/
namespace Sys2Proof.Machine

/-- Why an instruction does not complete. -/
inductive Stop where
  /-- a synchronous cause with its trap information (06 R214, R216) -/
  | cause (c : Cause) (info : Word)
  /-- cause 0xA0, with the barrier object as core × 2^17 + unit (09 R293) -/
  | overrun (obj : Nat)
  /-- the instruction waits -/
  | wait (w : Wait)
  /-- the task instance ends with the cause, and no handler is entered (06 R226) -/
  | ends (c : Cause) (info : Word)
deriving DecidableEq, Repr

/-- The cause 0x40 + 16 × kind + reason (03 R78). -/
def accessCause (kind reason : Nat) : Cause := BitVec.ofNat 8 (0x40 + 16 * kind + reason)

/-- A synchronous cause of an access at `a`. -/
def accessFault (kind reason a : Nat) : Stop := .cause (accessCause kind reason) (BitVec.ofNat 64 a)

/-! ## Windows (05 R184; 03 R95) -/

/-- The core is usable (13 R386). -/
def State.usable (s : State) (c : Nat) : Bool := (s.pkgReg (0x2000 + 8 * (c / 64))).getLsbD (c % 64)

/-- What launch `l` holds on core `c`: the window size in 64 KiB units, and the window base where it is resident. The slot of a core that
is mapped out takes no access (13 R385). -/
def State.window (s : State) (c l : Nat) : Option (Nat × Option Nat) :=
  let k := s.core c
  if !s.usable c then none
  else match k.slotOf l with
  | some i =>
    let sl := k.slot i
    let res := sl.st == .ready || sl.st == .running || sl.st == .drain
    some (sl.ctx.win, if res then some sl.ctx.wb else none)
  | none =>
    match s.images.find? (fun im => im.core == c && im.ctx.launch == some l) with
    | some im => some (im.ctx.win, none)
    | none => none

/-- The offset lies in the window. -/
def inWin (win off n : Nat) : Bool := decide (off + n ≤ win * 65536)

/-! ## Marks of engines -/

/-- Bytes [a, b) of window offsets hit a strided operand: `rows` rows of `len` bytes from `base`, `stride` apart. -/
def rowsHit (base stride rows len a b : Nat) : Bool :=
  (List.range rows).any (fun i => decide (base + stride * i < b) && decide (a < base + stride * i + len))

/-- Bytes that K elements of a format take, rounded up to whole groups (08 R279). -/
def kBytes (fmt k : Nat) : Nat := (k + groupElems fmt - 1) / groupElems fmt * groupBytes fmt

/-- The scale bytes of a row of `len` element bytes at slot offset `off`: first offset and count (01 R37). -/
def scaleRange (fmt off len scale : Nat) : Nat × Nat :=
  (scaleOff fmt off scale 0, (len + groupBytes fmt - 1) / groupBytes fmt * groupBlocks fmt)

/-- The scale lines of strided rows are hit. -/
def scalesHit (fmt base stride rows len scale a b : Nat) : Bool :=
  groupBlocks fmt != 0 &&
  (List.range rows).any (fun i =>
    let r := scaleRange fmt (base + stride * i) len scale
    decide (r.1 / 64 * 64 < b) && decide (a < r.1 + r.2))

/-- Row stride of an image (08 R281). -/
def imgStride (d : Word) : Nat :=
  if fld d 52 41 = 0 then 32 * elemBits (fld d 37 33) / 8 else fld d 52 41
/-- Bytes of an image row. -/
def imgRow (d : Word) : Nat := 32 * elemBits (fld d 37 33) / 8

/-- A released matrix command of core `c` has still to read window bytes [a, b) of core `d` (08 R276 item 1). -/
def matReads (c : Nat) (m : MatCmd) (d a b : Nat) : Bool :=
  match m with
  | .mgo g =>
    d == c && (
      (match g.gang with | some q => q.pos == q.lead | none => true) &&
        (rowsHit g.aoff (64 * g.astr) 32 (kBytes g.afmt g.k) a b ||
          scalesHit g.afmt g.aoff (64 * g.astr) 32 (kBytes g.afmt g.k) g.scale a b) ||
      rowsHit g.boff (64 * g.bstr) 32 (kBytes g.bfmt g.k) a b ||
      scalesHit g.bfmt g.boff (64 * g.bstr) 32 (kBytes g.bfmt g.k) g.scale a b)
  | .mwr w => d % 256 == fld w 28 21 && rowsHit (fld w 20 0) (imgStride w) 32 (imgRow w) a b
  | .gemvh t scale _ _ =>
    let fmt := rf t 0x18 38 34
    let len := kBytes fmt (rf t 0x18 31 16 + 1)
    d % 256 == rf t 0x20 28 21 && (
      rowsHit (rf t 0x20 20 0) (rf t 0x20 63 32) (rf t 0x18 33 32 + 1) len a b ||
      scalesHit fmt (rf t 0x20 20 0) (rf t 0x20 63 32) (rf t 0x18 33 32 + 1) len scale a b)
  | _ => false

/-- A released matrix command has still to write window bytes [a, b) of core `d` (08 R276 item 3; 10 R328). -/
def matWrites (m : MatCmd) (d a b : Nat) : Bool :=
  match m with
  | .mrd w scale =>
    d % 256 == fld w 28 21 && (
      rowsHit (fld w 20 0) (imgStride w) 32 (imgRow w) a b ||
      scalesHit (fld w 37 33) (fld w 20 0) (imgStride w) 32 (imgRow w) scale a b)
  | .gemvh t _ _ _ =>
    d % 256 == rf t 0x28 28 21 &&
      rowsHit (rf t 0x28 20 0) (rf t 0x28 63 32) (rf t 0x18 33 32 + 1) ((rf t 0x18 15 0 + 1 + 31) / 32 * 128) a b
  | _ => false

/-- The same with what the command has written already. -/
def MatRel.writesAt (m : MatRel) (d a b : Nat) : Bool :=
  match m.out with
  | none => matWrites m.cmd d a b
  | some us => us.any (fun u => u.any (fun o =>
      o.core == d && decide (o.off / 64 * 64 < b) && decide (a < o.off + max 1 o.bytes.length)))

/-- A released copy has still to write window bytes [a, b) of core `d` (07 R239): `w` is the watermark's offset. -/
def copyWrites (q : CopyCmd) (w d a b : Nat) : Bool :=
  tDkind q.t != 0 && (dstCores q).contains d &&
    decide (q.dst % 2 ^ 21 < b) && dstHits q.t w (a - q.dst % 2 ^ 21) (b - q.dst % 2 ^ 21)

/-- The copies of a channel that have not completed, with the offset of their watermark. -/
def Chan.open (ch : Chan) : List (CopyCmd × Nat) :=
  (match ch.cur with | some q => [(q, chanOff ch q)] | none => []) ++ ch.waiting.map (fun q => (q, 0))

/-- A release before `lim`, where one is given. -/
def before (lim : Option Nat) (no : Nat) : Bool := match lim with | some n => decide (no < n) | none => true

/-- Window bytes [a, b) of launch `l` on core `d` are marked pending-write by an engine, by a command released before `lim`. -/
def State.pendingWrite (s : State) (l d a b : Nat) (lim : Option Nat) : Bool :=
  s.cores.any (fun e =>
    e.2.chans.any (fun ch => ch.2.open.any (fun q => q.1.launch == l && before lim q.1.no && copyWrites q.1 (ch.2.unwritten q.1 q.2 d) d a b)) ||
    (clusterOf e.1 == clusterOf d &&
      e.2.mat.any (fun m => m.launch == l && before lim m.no && m.writesAt d a b)))

/-- They are marked pending-read. -/
def State.pendingRead (s : State) (l d a b : Nat) (lim : Option Nat) : Bool :=
  s.cores.any (fun e =>
    clusterOf e.1 == clusterOf d &&
      e.2.mat.any (fun m => m.launch == l && before lim m.no && m.out.isNone && matReads e.1 m.cmd d a b))

/-- Window bytes [a, b) of core `d` lie at or above the watermark in the extent of a copy that core `c` issued
(07 R239, first item). -/
def State.ownExtent (s : State) (c l d a b : Nat) : Bool :=
  (s.core c).chans.any (fun ch => ch.2.open.any (fun q =>
    q.1.launch == l && tDkind q.1.t != 0 && (dstCores q.1).contains d &&
      decide (q.1.dst % 2 ^ 21 + q.2 < b) && decide (a < q.1.dst % 2 ^ 21 + dstSpan q.1.t)))

/-- Virtual bytes [a, b) lie at or above the watermark in the memory extent of a copy that core `c` issued. -/
def State.ownMemExtent (s : State) (c l a b : Nat) : Bool :=
  (s.core c).chans.any (fun ch => ch.2.open.any (fun q =>
    q.1.launch == l && tDkind q.1.t == 0 &&
      decide (q.1.dst + q.2 < b) && decide (a < q.1.dst + dstSpan q.1.t)))

/-! ## The line rules between cores (06 R198) -/

/-- A chunk of another core of the cluster that holds the physical line against an access: its core, its place among the
core's chunks, and whether it has been granted. -/
def State.lineHolder (s : State) (c key : Nat) (write : Bool) : Option (Nat × Nat × Bool) :=
  s.cores.findSome? (fun e =>
    if e.1 = c || clusterOf e.1 != clusterOf (key / 2 ^ 15) then none
    else
      let x := e.2.cx
      let hit := fun (k : Chunk) => k.slotW.contains key || (write && k.slotR.contains key)
      match x.pend.findIdx? hit with
      | some i => some (e.1, i, (x.pend.getD i {}).isGranted)
      | none => if hit x.chunk then some (e.1, x.pend.length, false) else none)

/-- Applies the line rule: no other chunk in the way; or, for the reserved chunk, ungranted chunks in the way are squashed, up
to n of them; else the access waits. -/
def State.claimLine (s : State) (c key : Nat) (write : Bool) : Nat → Except Stop State
  | 0 =>
    match s.lineHolder c key write with
    | none => .ok s
    | some (d, _, _) => .error (.wait (.lateral d key write))
  | n + 1 =>
    match s.lineHolder c key write with
    | none => .ok s
    | some (d, i, granted) =>
      if s.execReserved c && !granted then (s.squash d i true).claimLine c key write n
      else .error (.wait (.lateral d key write))

/-! ## Writes of slot lines outside the chunks (07 R240) -/

/-- The uncommitted chunks that have read or written a line, physical or of a window that is not resident: core, place among its chunks,
granted or reserved. -/
def State.lineUsers (s : State) (d line : Nat) : List (Nat × Nat × Bool) :=
  let key := d * 2 ^ 15 + line
  s.cores.filterMap (fun e =>
    if clusterOf e.1 != clusterOf (d % 8192) then none
    else
      let x := e.2.cx
      let hit := fun (k : Chunk) => k.slotR.contains key || k.slotW.contains key
      let ks := x.pend ++ [x.chunk]
      (ks.findIdx? hit).map (fun i => (e.1, i, ks.zipIdx.any (fun k => hit k.1 && (k.1.isGranted || s.reserved e.1 k.2)))))

/-- An engine must wait before it writes a line: a reserved chunk, or a granted one, holds it. -/
def State.lineBusy (s : State) (d line : Nat) : Bool := (s.lineUsers d line).any (fun u => u.2.2)

/-- Squashes, counted, the chunks that have read or written a line. -/
def State.clearLine (s : State) (d line : Nat) : State :=
  (s.lineUsers d line).foldl (fun s u =>
    if (s.lineUsers d line).any (fun v => v.1 == u.1) then s.squash u.1 u.2.1 true else s) s

/-! ## Checked accesses -/

/-- A place in a slot: its core, the window offset and the physical offset. -/
structure Spot where
  core : Nat
  off : Nat
  phys : Nat
deriving DecidableEq, Repr

/-- Checks a scratchpad address of core `c` (03 R78, R95): alignment, cluster, window, residency. `n` is the access size
and `al` its alignment. -/
def State.spot (s : State) (c addr n al kind : Nat) : Except Stop Spot :=
  if addr % al ≠ 0 then .error (accessFault kind 0 addr)
  else if 2 ^ 29 ≤ addr then .error (accessFault kind 4 addr)
  else
    let d := clusterOf c * 256 + bits addr 28 21
    let off := bits addr 20 0
    match (s.cx c).launch with
    | none => .error (accessFault kind 4 addr)
    | some l =>
      if isSteward c then .error (accessFault kind 4 addr)
      else match s.window d l with
        | none => .error (accessFault kind 4 addr)
        | some (win, wb) =>
          if !inWin win off n then .error (accessFault kind 4 addr)
          else match wb with
            | none => .error (.wait (.residency d))
            | some b => .ok ⟨d, off, b + off⟩

/-- The scratchpad address of an object for a launch. -/
def State.objAddr (s : State) (l obj : Nat) : Nat :=
  let d := obj / 2 ^ 17
  coreIdx (d % 8192) * 2 ^ 21 + obj % 2 ^ 17 * 16 -
    (if isAway d then 0 else match s.window d l with | some (_, some b) => b | _ => 0)

/-- The launch of the running context, as a number. -/
def State.launchNo (s : State) (c : Nat) : Nat := (s.cx c).launch.getD 0

/-- Enters the physical line of a spot in the chunk: the line lists, and for another slot the signatures and the reach
(06 R196, R198, R199). -/
def State.noteLine (s : State) (c : Nat) (p : Spot) (rd wr : Bool) : State :=
  let key := p.core * 2 ^ 15 + p.phys / 64
  s.upCx c (fun x =>
    let k := x.chunk
    let lat := p.core != c
    let sk := sigBits (lateralKey x.asid p.core p.off)
    { x with chunk := { k with
        slotR := if rd && !k.slotR.contains key then key :: k.slotR else k.slotR
        slotW := if wr && !k.slotW.contains key then key :: k.slotW else k.slotW
        rsig := if lat && rd then k.rsig ||| sk else k.rsig
        wsig := if lat && wr then k.wsig ||| sk else k.wsig
        lateral := k.lateral || lat } })

/-- Translates the first n frames of the chunk extension area from a VA on; a frame that cannot be translated and written, or holds
an uncorrectable error, ends the task instance with 0xA6 (06 R192, log 112). -/
def State.extFrames (s : State) (asid va : Nat) : Nat → Except Stop State
  | 0 => .ok s
  | n + 1 =>
    match s.unitPa asid va 1 with
    | (s, .ok pa) => if s.poisoned pa 65536 then .error (.ends 0xA6 (BitVec.ofNat 64 va)) else s.extFrames asid (va + 65536) n
    | (_, .error true) => .error (.wait (.grant (va / 64)))
    | (_, .error false) => .error (.ends 0xA6 (BitVec.ofNat 64 va))

/-- The executing chunk of core `c` needs the extension area (06 R192): 1 MiB, which no program sees. -/
def State.useExt (s : State) (c : Nat) : Except Stop State :=
  let x := s.cx c
  if fld x.arch.chkExt 0 0 = 0 then .error (.ends 0xA7 0)
  else s.extFrames x.asid (fld x.arch.chkExt 55 20 * 2 ^ 20) 16

/-- Logs a line's old contents at its first write in the chunk; an occupancy of 672 entries requests a cut (06 R194,
R188). Entries beyond 896 go to the extension area. -/
def State.logLine (s : State) (c : Nat) (p : Spot) : Except Stop State :=
  let line := p.phys / 64
  let x := s.cx c
  if x.chunk.undo.any (fun u => u.core == p.core && u.line == line) then .ok s
  else
    let used := x.chunk.undo.length + (x.pend.map (fun k => k.undo.length)).sum
    match (if 896 ≤ used then s.useExt c else .ok s) with
    | .error e => .error e
    | .ok s =>
      let s := s.upCx c (fun x => { x with chunk := { x.chunk with
        undo := ⟨p.core, line, s.vaultLine p.core line, s.lineTag p.core line⟩ :: x.chunk.undo } })
      .ok (if 672 ≤ used + 1 then s.requestCut c else s)

/-- Everything that stands before a thread's access to the bytes of one line (07 R239; 08 R276; 06 R198), and its entry
in the chunk. -/
def State.openLine (s : State) (c : Nat) (p : Spot) (n : Nat) (rd wr : Bool) : Except Stop State :=
  let l := s.launchNo c
  let a := p.off / 64 * 64
  let key := p.core * 2 ^ 15 + p.phys / 64
  if s.pendingWrite l p.core a (a + 64) none || s.ownExtent c l p.core p.off (p.off + n) ||
      (wr && s.pendingRead l p.core a (a + 64) none) then .error (.wait (.pendingLine key))
  else
    match s.claimLine c key wr (3 * s.cores.length) with
    | .error e => .error e
    | .ok s =>
      let s := s.noteLine c p rd wr
      if wr then s.logLine c p else .ok s

/-- Reads `n` bytes within one line (the access has been checked by `spot`). -/
def State.spRead (s : State) (c : Nat) (p : Spot) (n : Nat) : Except Stop (State × List Byte) :=
  match s.openLine c p n true false with
  | .error e => .error e
  | .ok s => .ok (s, s.vault.readN (p.core * 2 ^ 21 + p.phys) n)

/-- Writes bytes within one line; tag and SP bit stay (01 R22). -/
def State.spWrite (s : State) (c : Nat) (p : Spot) (bs : List Byte) : Except Stop State :=
  match s.openLine c p bs.length false true with
  | .error e => .error e
  | .ok s => .ok (s.vaultWrite p.core p.phys bs)

/-- Reads and writes bytes within one line as one action (03 R97; 09 R292). -/
def State.spRmw (s : State) (c : Nat) (p : Spot) (n : Nat) : Except Stop (State × List Byte) :=
  match s.openLine c p n true true with
  | .error e => .error e
  | .ok s => .ok (s, s.vault.readN (p.core * 2 ^ 21 + p.phys) n)

end Sys2Proof.Machine
end

