-- ==== Sys2Proof/Machine/MemAccess.lean ====
section
/-! DEFINITION. Memory accesses by threads: forming and checking the address (03 R78, R94), loads and stores within the
chunk, and the bundle of a peer device (14 R415). -/
namespace Sys2Proof.Machine

/-- Where an access goes. -/
inductive Place where
  /-- local HBM or CXL: PA, signature key -/
  | mem (pa key : Nat)
  /-- a peer device -/
  | peer (dev : Nat)
deriving DecidableEq, Repr

/-- The thread's privilege: the context's, and always supervisor in a steward (06 R216; 07 R245). -/
def State.isSup (s : State) (c : Nat) : Bool := isSteward c || (s.arch c).sup

/-- The address lies in the block-transfer aperture (07 R228). -/
def State.inAperture (s : State) (c va : Nat) : Bool :=
  let ap := (s.arch c).cpyAp
  fld ap 0 0 == 1 && bits va 55 12 == fld ap 55 12

/-- A bundle or full/empty operation of core `c` with a number below `n` is not acknowledged (03 R100; 14 R417). -/
def State.unacked (s : State) (c n : Nat) : Bool :=
  let k := s.core c
  k.bundles.any (fun b => decide (b.id < n)) || k.feOut.any (fun r => decide (r.no < n)) || k.feSent.any (fun r => decide (r.no < n)) ||
    s.feList.any (fun r => r.core == c && r.peer.isNone && decide (r.no < n))

/-- Off-package accesses wait for a fence.sys: its chunk has not committed, or what it waits for is not acknowledged
(03 R100; 14 R417). -/
def State.fenceHolds (s : State) (c : Nat) : Bool :=
  (s.cx c).pend.any (·.fenceSys) || s.unacked c (s.core c).fenceMark

/-- The feature that an address depends on is not enabled (13 R395): peer access, the CXL tier. -/
def State.regionOff (s : State) (va : Nat) : Bool :=
  (bits va 55 54 == 2 && !s.feature 8) || (bits va 55 54 == 1 && !s.feature 9)

/-- The page of a VA is confidential, by the translation that is held or by a walk, and feature 10 is not enabled (13 R395). -/
def State.confOff (s : State) (c va kind : Nat) : Bool :=
  !s.feature 10 && (match s.xlatOf (s.cx c).asid va with
    | some t => leafConf t.attr
    | none => match s.walk (s.cx c).asid va kind (s.isSup c) (some c) with | .lacks => true | _ => false)

/-- A confidential page whose line would cross a CXL port without keys (14 R429). -/
def State.noKeys (s : State) (pa : Nat) : Bool :=
  bits pa 51 50 == 1 && fld (s.pkgReg (0xDA00 + 8 * (16 + bits pa 49 48))) 0 0 == 0

/-- Checks the VA of an access of `n` bytes, aligned to `al` (03 R78), and finds where it goes; a feature that it depends on comes before
its other checks (13 R395). Kinds: 0 load, 1 store, 2 atomic, 3 fetch. -/
def State.place (s : State) (c va n al kind : Nat) : Except Stop Place :=
  if isSteward c then
    if 2 ^ 52 ≤ va then .error (accessFault kind 3 va)
    else if va % al ≠ 0 then .error (accessFault kind 0 va)
    else if s.poisonBars va n (kind = 1) then
      .error (if bits va 51 50 = 1 then accessFault kind 13 va else .cause 0xD2 (BitVec.ofNat 64 va))
    else if s.grantHeld c (va / 64) then .error (.wait (.grant (va / 64)))
    else .ok (.mem va 0)
  else if va < 2 ^ 56 && s.regionOff va then .error (.cause 0x1F 0)
  else if 2 ^ 56 ≤ va || bits va 55 54 = 3 then .error (accessFault kind 3 va)
  else if bits va 55 54 < 2 && s.confOff c va kind then .error (.cause 0x1F 0)
  else if va % al ≠ 0 then .error (accessFault kind 0 va)
  else if (s.cx c).declined = some (va, kind) then .error (accessFault kind 10 va)
  else if s.inAperture c va then .error (accessFault kind 2 va)
  else if bits va 55 54 = 2 then
    if kind = 3 then .error (accessFault 3 2 va)
    else match s.leaseOf va with
      | .error r => .error (accessFault kind r va)
      | .ok dev => .ok (.peer dev)
  else if s.ownMemExtent c (s.launchNo c) va (va + n) then .error (.wait (.pendingLine 0))
  else
    let x := s.cx c
    match s.xlatOf x.asid va with
    | none => .error (.wait (.translate va kind))
    | some t =>
      if !leafPermits t.attr kind (s.isSup c) then .error (accessFault kind 2 va)
      else if (kind = 1 || kind = 2) && !leafD t.attr then .error (.wait (.translate va kind))
      else
        let pa := t.pfn * 65536 + va % 65536
        if leafConf t.attr && s.noKeys pa then .error (accessFault kind 12 va)
        else if s.poisonBars pa n (kind = 1) then
          if bits pa 51 50 = 1 then .error (accessFault kind 13 va) else .error (.ends 0xD2 (BitVec.ofNat 64 va))
        else if s.grantHeld c (pa / 64) then .error (.wait (.grant (pa / 64)))
        else .ok (.mem pa (memKey t.g x.asid va))

/-- An address at a peer device: the device, the ASID under which it translates, and the VA there. -/
abbrev PeerAddr := Nat × Nat × Nat

/-- What a peer-leased address names (14 R407). -/
def State.leaseTarget (s : State) (va : Nat) : PeerAddr :=
  let b := 0xCA00 + 32 * bits va 53 48
  (fld (s.pkgReg b) 12 3, fld (s.pkgReg b) 31 16, fld (s.pkgReg (b + 8)) 55 16 * 65536 + bits va 47 0)

/-- The byte that the executing chunk of core `c` has stored to a place at a peer device (14 R415). -/
def State.bundleByte (s : State) (c : Nat) (t : PeerAddr) : Option Byte :=
  (s.cx c).chunk.bundle.reverse.findSome? (fun o =>
    if o.atomic.isNone && o.dev == t.1 && o.tasid == t.2.1 && decide (o.tva ≤ t.2.2) && decide (t.2.2 < o.tva + o.data.length) then
      o.data[t.2.2 - o.tva]?
    else none)

/-- Loads bytes from a peer device: stored bytes of the chunk, and for the others the answer of the device that the request names
now (14 R410, R415; 12 R377). `map`: what the instruction has read of the shard map. -/
def State.peerRead (s : State) (c : Nat) (r : LoadReq) (map : List (Nat × Nat)) : Except Stop (State × List Byte) :=
  if s.fenceHolds c then .error (.wait .offPackage)
  else
    let own := (List.range r.n).map (fun i => s.bundleByte c (r.dev, r.asid, r.tva + i))
    if own.all Option.isSome then .ok (s, own.map (fun b => b.getD 0))
    else match s.thr.answers.find? (fun a => a.1 == r) with
      | some (_, v) => .ok (s, (own.zip (toBytes r.n v)).map (fun e => e.1.getD e.2))
      | none => .error (.wait (.peer r map))

/-- Notes that the chunk used a lease (14 R410). -/
def State.noteLease (s : State) (c va : Nat) : State :=
  s.upCx c (fun x => { x with chunk := { x.chunk with leases := bits va 53 48 :: x.chunk.leases } })

/-- Loads `n` bytes (03 R93, R94). The steward reads committed memory (07 R246). -/
def State.loadAt (s : State) (c va n al kind : Nat) : Except Stop (State × List Byte) :=
  match s.place c va n al kind with
  | .error e => .error e
  | .ok (.mem pa key) =>
    if isSteward c then .ok (s, s.mem.readN pa n)
    else .ok (s.noteMem c key (pa / 64) true false, s.seeN c pa n)
  | .ok (.peer _) =>
    let t := s.leaseTarget va
    (s.noteLease c va).peerRead c { dev := t.1, asid := t.2.1, tva := t.2.2, n := n, va := va } []

/-- The uncommitted lines of a core that fall into the L1 set of a PA (06 R195; the set index is address bits 15:6,
log 6). -/
def State.setLines (s : State) (c pa : Nat) : Nat :=
  let x := s.cx c
  let ls := (x.chunk :: x.pend).flatMap (fun k =>
    k.stores.filterMap (fun e => if e.1 / 64 % 1024 == pa / 64 % 1024 then some (e.1 / 64) else none))
  ls.eraseDups.length

/-- The ways of a core's L1 that hold lines now: those in use, but for one that tests itself (13 R384, R385). -/
def State.usableWays (s : State) (c : Nat) : Nat :=
  (s.core c).l1Ways - (((s.tests.filter (fun t => t.core == c && t.st == 1 && t.row != 3)).map (·.unit)).eraseDups).length

/-- Stores bytes in the chunk (03 R93, R94; 06 R195). The steward's store is a synthetic chunk (07 R245). -/
def State.storeTo (s : State) (c va : Nat) (p : Place) (bs : List Byte) : Except Stop State :=
  match p with
  | .mem pa key =>
    if isSteward c then if s.synthBusy none pa then .error (.wait (.grant (pa / 64))) else .ok (s.synthWrite pa bs)
    else
      let s := (s.noteMem c key (pa / 64) false true).putN c pa bs
      let n := s.setLines c pa
      let w := s.usableWays c
      match (if w < n then s.useExt c else .ok s) with
      | .error e => .error e
      | .ok s => .ok (if w ≤ n then s.requestCut c else s)
  | .peer _ =>
    let s := s.noteLease c va
    let t := s.leaseTarget va
    .ok (s.upCx c (fun x => { x with chunk := { x.chunk with
      bundle := x.chunk.bundle ++ [{ va := va, data := bs, dev := t.1, tasid := t.2.1, tva := t.2.2 }] } }))

/-- A plain store of bytes at a VA. -/
def State.storeAt (s : State) (c va al : Nat) (bs : List Byte) : Except Stop State :=
  match s.place c va bs.length al 1 with
  | .error e => .error e
  | .ok p => s.storeTo c va p bs

/-! ## Watchpoints (13 R398) -/

/-- A watchpoint of the acting thread matches an access to bytes [va, va + n). -/
def State.watchHit (s : State) (va n : Nat) (ld st : Bool) : Bool :=
  let d := (s.arch s.cur.core).dbg
  !d.isEmpty && !s.thr.passEvent && (List.range 4).any (fun i =>
    let b := d.get (0x320 + i) 0
    b.getLsbD 0 && ((ld && b.getLsbD 1) || (st && b.getLsbD 2)) &&
    decide (fld b 55 6 ≤ (va + n - 1) / 64) && decide (va / 64 < fld (d.get (0x324 + i) 0) 55 6) &&
    (d.get (0x328 + i) 0).getLsbD s.cur.thr)

/-- The access is checked, then the watchpoints. -/
def State.watched (s : State) (va n al kind : Nat) : Except Stop Place :=
  match s.place s.cur.core va n al kind with
  | .error e => .error e
  | .ok q => if s.watchHit va n (kind != 1) (kind != 0) then .error (.cause 0x19 (BitVec.ofNat 64 va)) else .ok q

/-- A load of the acting thread. -/
def State.memLoad (s : State) (va n al : Nat) : Except Stop (State × List Byte) :=
  match s.watched va n al 0 with
  | .error e => .error e
  | .ok _ => s.loadAt s.cur.core va n al 0

/-- A store of the acting thread. -/
def State.memStore (s : State) (va al : Nat) (bs : List Byte) : Except Stop State :=
  match s.watched va bs.length al 1 with
  | .error e => .error e
  | .ok q => s.storeTo s.cur.core va q bs

end Sys2Proof.Machine
end

