-- ==== Sys2Proof/Machine/Ops.lean ====
section
/-! DEFINITION. Taking an exception and returning from one (02 R61, R62; 05 R168, R169; 06 R214–R219), the end of a task
instance by a cause (06 R217, R224, R226), and the trace records (13 R403) that these and other operations leave. -/
namespace Sys2Proof.Machine

/-! ## Trace records -/

/-- A trace record of a committed effect, if tracing of its class is on; `cls` is the TRC_CTL bit of the class, or 0 for
none (13 R402, R403). -/
def traceWord (c thr ev ch cycle : Nat) : Word :=
  BitVec.ofNat 64 (ev + (c % 4096) * 2 ^ 8 + thr * 2 ^ 20 + ch * 2 ^ 26 + cycle % 2 ^ 32 * 2 ^ 32)

/-- Tracing of a class is on in a context. -/
def Ctx.traces (x : Ctx) (cls : Nat) : Bool :=
  let t := x.arch.dbg.get 0x340 0
  t.getLsbD 0 && t.getLsbD cls

/-- Emits the record of a committed effect. -/
def State.emit (s : State) (c l cls ev thr ch : Nat) (data : Word) : State :=
  match s.launchCx c l with
  | none => s
  | some x =>
    if x.traces cls then
      s.upCore c (fun k => { k with traceOut := k.traceOut ++ [{ launch := l, pcs := false, w0 := traceWord c thr ev ch s.cycle, w1 := data }] })
    else s

/-- Holds the record of a barrier event until its chunk commits or is squashed. -/
def State.emitInChunk (s : State) (c cls ev thr : Nat) (data : Word) : State :=
  let x := s.cx c
  if x.traces cls then
    s.upCx c (fun x => { x with chunk := { x.chunk with
      traces := x.chunk.traces ++ [{ launch := x.launch.getD 0, pcs := false, w0 := traceWord c thr ev 0 s.cycle, w1 := data }] } })
  else s

/-! ## The end of a task instance -/

/-- The thread is over. -/
def Thr.over (t : Thr) (p : Phase) : Thr :=
  { t with phase := p, stall := none, raised := none, far := [], hz := 0, hold := false }

/-- The instance of launch `l` on core `c` ends with a cause; the first cause stands (06 R217, R224, R226). The executing
chunk is squashed, and no thread runs on. -/
def State.endInstance (s : State) (c l : Nat) (e : Ending) : State :=
  match s.anyCx c l with
  | none => s
  | some x =>
    if x.fin.isSome then s
    else
      let s := if (s.cx c).launch = some l && (s.core c).isRunning then s.squashExec c false else s
      s.upAnyCx c l (fun x => { x with
        fin := some e
        taking := false
        arch := { x.arch with
          ct := x.arch.ct.over .stopped
          mts := x.arch.mts.map (fun m => if m.2.thr.phase = .faulted || m.2.thr.phase = .halted then m
            else (m.1, { m.2 with thr := m.2.thr.over .idle, mode := .idle, bq := [] }))
          gang := none
          gangWait := none
          gangBad := false } })

/-- The ending of an engine command or of data that cannot be read: code and address. -/
def endingOf (c : Cause) (info : Word) : Ending := { code := c, thr := 16, info := info }

/-! ## The record of a thread (02 R61; 06 R219) -/

/-- Block, offset and park index. -/
structure Rec where
  blk : Word := 0
  off : Nat := 0
  park : Nat := 0
deriving DecidableEq, Repr


/-- Causes after which resumption goes on after the instruction (03 R112). -/
def skipCause (c : Cause) : Bool := c == 0x14 || decide (0xE0 ≤ c.toNat)

/-- Committed bytes at a fetch address of core `c`, without any check: the decoding of R62 raises no cause. -/
def State.peekHalf (s : State) (c va : Nat) : Half :=
  let pa := if isSteward c then some va
    else (s.xlatOf (s.cx c).asid va).map (fun t => t.pfn * 65536 + va % 65536)
  match pa with
  | some pa => BitVec.ofNat 16 (ofBytes (if isSteward c then s.mem.readN pa 2 else s.seeN c pa 2))
  | none => 0

/-- The halfwords from body halfword `off` to the end of a block. -/
def State.peekBody (s : State) (c : Nat) (blk : Word) (h : BitVec 32) (off : Nat) : List Half :=
  (List.range (hdrLen h + 1 - off)).map (fun i => s.peekHalf c (blk.toNat + 4 + 2 * (off - 1 + i)))

/-- Where a thread stands between instructions (06 R219): at an instruction, or body offset 1 of the next block. -/
def State.recNow (s : State) (c : Nat) (t : Thr) : Rec :=
  match t.phase with
  | .entry a => ⟨a, 1, 0⟩
  | .ending (.entry a) => ⟨a, 1, 0⟩
  | .resume a off park skip =>
    if skip && off != 0 then
      let h : BitVec 32 := s.peekHalf c (a.toNat + 2) ++ s.peekHalf c a.toNat
      let n := (decode (s.peekBody c a h off) (fun k =>
        (List.range 4).any (fun i => hdrPark h (i + 1) == off + k - 1 && hdrPark h (i + 1) != 0))).2
      if hdrLen h < off + n then ⟨nextBlock a h, 1, 0⟩ else ⟨a, off + n, park⟩
    else if off = 0 then ⟨a, 1, 0⟩ else ⟨a, off, park⟩
  | _ => ⟨t.blk, t.off, t.park⟩

/-- The record of a raised cause (02 R61). The step event names the next instruction, and so does what it raises in the other
members of a gang (13 R398). -/
def State.recOf (s : State) (c : Nat) (t : Thr) (r : Raised) : Rec :=
  if r.hdrFault then ⟨r.blk, 0, 0⟩
  else if r.cause = 0x17 || r.cause = 0xAB then s.recNow c t
  else ⟨t.blk, t.off, t.park⟩

/-! ## Taking a cause -/

/-- The value of `TRAP_OFF` (06 R216). -/
def trapOff (r : Rec) (skip : Bool) : Word := BitVec.ofNat 64 (r.off + r.park * 2 ^ 8 + b2n skip * 2 ^ 11)

/-- The ending that a CT cause makes where no handler takes it (06 R217; 12 R347). -/
def ctEnding (code sub : Cause) (r : Rec) (info : Word) : Ending :=
  { code := code, sub := sub, thr := 16, blk := r.blk, off := r.off, park := r.park, info := info }

/-- The wait that a control thread keeps as it takes an event: a removal by `tlbi` goes on, and the thread does not (10 R320; log
102). -/
def Thr.kept (t : Thr) : Option Stall :=
  match t.stall with
  | some ⟨.tlbi, n, b⟩ => some ⟨.tlbi, n, b⟩
  | _ => none

/-- The CT takes a cause (06 R217): the trap registers record it, INH and PPRIV are set, supervisor privilege is gained,
and the CT enters the block at VEC. Without a handler, or inside one, the task instance ends; a steward halts (07 R246). -/
def State.takeException (s : State) (c : Nat) (cause : Cause) (async : Bool) (r : Rec) (info : Word) : State :=
  let x := s.cx c
  let tr := x.arch.trap
  let inh := tr.stat.getLsbD 0
  let die := dieOf c
  let vec : Word := if isSteward c then BitVec.ofNat 64 (fld (s.dieReg die 0x0C8) 51 3 * 8) else tr.vec
  if isSteward c && (inh || vec = 0) then
    let cfg := s.dieReg die 0x0C0
    let s := s.setDieReg die 0x0C0 (setFld (setFld cfg 1 1 1) 59 52 cause.toNat)
    s.upThrAt c 16 (fun t => t.over .stopped)
  else if inh then s.endInstance c (s.launchNo c) (ctEnding 0xAF cause r info)
  else if vec = 0 then s.endInstance c (s.launchNo c) (ctEnding cause 0 r info)
  else
    let sup := s.isSup c
    s.upArch c (fun a => { a with
      gang := a.gang.map (fun g => { g with own := true })
      gangWait := none
      gangBad := false
      sup := true
      trap := { a.trap with
        cause := BitVec.ofNat 64 (cause.toNat + b2n async * 256)
        blk := BitVec.ofNat 64 (fld r.blk 55 3 * 8)
        off := trapOff r (!async && skipCause cause)
        info := info
        stat := BitVec.ofNat 64 (1 + b2n sup * 2) }
      ct := { a.ct with phase := .entry vec, stall := a.ct.kept, raised := none, hold := false, t0 := none } })

/-- The CT's debug halt: the record is written as the trap would write it, and the CT stands halted (03 R110; 13 R398). -/
def State.haltCt (s : State) (c : Nat) (cause : Cause) (r : Rec) (info : Word) : State :=
  s.upArch c (fun a => { a with
    trap := { a.trap with
      cause := BitVec.ofNat 64 cause.toNat
      blk := BitVec.ofNat 64 (fld r.blk 55 3 * 8)
      off := trapOff r (skipCause cause)
      info := info }
    ct := { a.ct with phase := .halted, stall := a.ct.kept, raised := none, stepOne := false, t0 := none } })

/-- Debug halting is enabled for a cause (13 R397, R398; 03 R110). -/
def haltsOn (dbgCtl : Word) (cause : Cause) : Bool :=
  (cause == 0x14 && dbgCtl.getLsbD 0) || (cause == 0x18 && dbgCtl.getLsbD 1) ||
  (cause == 0x19 && dbgCtl.getLsbD 2) || (cause == 0x17 && dbgCtl.getLsbD 3)

/-- When cause 0xA0 is taken, the slot sets OVR of the object, as one synthetic chunk, which squashes what has read or written the line
(09 R293; 07 R240). -/
def State.setOverrun (s : State) (c thr aux : Nat) : State :=
  if aux = 0 then s
  else
    let o := aux - 1
    let s := s.clearLine (o / 2 ^ 17) (o % 2 ^ 17 / 4)
    let s := s.setObjWord o 0 (setBits (s.objWord o 0) 36 36 1)
    s.emit c (s.launchNo c) 2 0x15 thr 0 (BitVec.ofNat 64 (s.objAddr (s.launchNo c) o))

/-- A micro-thread takes its cause (05 R167, R168): STATE 4, or 5 for a debug halt, with its trap record. Cause 0x1B is the host's
halt request, put off to a block's beginning (log 28). -/
def State.mtFault (s : State) (c i : Nat) (r : Raised) : State :=
  let halt := haltsOn ((s.arch c).dbg.get 0x300 0) r.cause || ((s.mtAt c i).thr.stepOne && r.cause == 0x17) || r.cause == 0x1B
  let s := s.setOverrun c i r.aux
  s.upMtAt c i (fun m =>
    let q := s.recOf c m.thr r
    { m with
      cause := r.cause, trapBlk := q.blk, trapOff := q.off, trapPark := q.park, trapInfo := r.info
      thr := { m.thr with
        phase := if halt then .halted else .faulted, stall := none, raised := none, stepOne := false, atEntry := none } })

/-- The CT takes the cause that it raised. -/
def State.ctFault (s : State) (c : Nat) (r : Raised) : State :=
  let t := (s.arch c).ct
  let s := s.setOverrun c 16 r.aux
  if haltsOn ((s.arch c).dbg.get 0x300 0) r.cause || (t.stepOne && r.cause == 0x17) then
    s.haltCt c r.cause (s.recOf c t r) r.info
  else s.takeException c r.cause false (s.recOf c t r) r.info

/-- The access that a declined record marked raises its cause, and the mark is spent (10 R322). -/
def Ctx.spend (x : Ctx) (cs : List Cause) : Ctx :=
  match x.declined with
  | some (_, kind) => if cs.contains (accessCause kind 10) then { x with declined := none } else x
  | none => x

/-- The causes of a trap cut can be taken: its chunks have committed, and no granted or reserved chunk holds the line of an object whose
OVR is to be set (06 R214; 07 R240). -/
def State.takeDue (s : State) (c : Nat) : Bool :=
  let x := s.cx c
  x.taking && x.pend.isEmpty && (threadsOf c).all (fun t => match (x.arch.thr t).raised with
    | some r => r.aux = 0 || !s.lineBusy ((r.aux - 1) / 2 ^ 17) ((r.aux - 1) % 2 ^ 17 / 4)
    | none => true)

/-- After the commit of a trap cut, every thread that raised a cause takes it: the MTs, then the CT (06 R214). -/
def State.takeCauses (s : State) (c : Nat) : State :=
  let s := s.upCx c (fun x => { x.spend ((threadsOf c).filterMap (fun t => (x.arch.thr t).raised.map (·.cause))) with taking := false })
  let s := (List.range 16).foldl (fun s i =>
    match (s.mtAt c i).thr.raised with
    | some r => (s.mtFault c i r).upThrAt c i (fun t => { t with late := none })
    | none => s) s
  let s := match (s.arch c).ct.raised with
    | some r => (s.upThrAt c 16 (fun t => { t with late := none })).ctFault c r
    | none => s
  s.upCx c (fun x => { x with chunk := { x.chunk with ckpt := x.arch, stepped := chkStep x.arch.chkCtl, target := 0 } })

/-! ## Returning -/

/-- The return from a handler (06 R218): a cut is requested, SUP and INH are restored, and the CT resumes at the record by
02 R62, once the cut has fallen. A steward executes no chunks and resumes at once (07 R245). -/
def State.eretTo (s : State) (c : Nat) : State :=
  let s := if isSteward c then s else s.requestCut c
  s.upArch c (fun a =>
    let tr := a.trap
    { a with
      gang := a.gang.map (fun g => { g with own := false })
      sup := tr.stat.getLsbD 1
      trap := { tr with stat := setFld tr.stat 0 0 0 }
      ct := { a.ct with
        phase := .resume (BitVec.ofNat 64 (fld tr.blk 55 3 * 8)) (fld tr.off 5 0) (fld tr.off 10 8) (fld tr.off 11 11 == 1)
        hold := !isSteward c
        stall := none
        passEvent := fld tr.cause 7 0 == 0x18 || fld tr.cause 7 0 == 0x19 } })

/-- A faulted or halted MT resumes from its record (05 R169; 03 R112). `after` continues after the instruction. -/
def Mt.resume (m : Mt) (after : Bool) : Mt :=
  { m with thr := { m.thr with
      phase := .resume m.trapBlk m.trapOff m.trapPark (after || skipCause m.cause)
      stall := none
      passEvent := m.cause == 0x18 || m.cause == 0x19 } }

end Sys2Proof.Machine
end

