-- ==== Sys2Proof/Machine/NetBase.lean ====
section
/-! DEFINITION. Network work requests (15 R438, R439) and their release: counters, regions and deregistration (R440, R442,
R451). -/
namespace Sys2Proof.Machine

/-! ## Fields of a work request (R438, R439) -/

/-- Bits hi:lo of a work request from byte offset `o`. -/
def wr (w : BitVec 512) (o hi lo : Nat) : Nat := bits w.toNat (8 * o + hi) (8 * o + lo)
def wrOp (w : BitVec 512) : Nat := wr w 0 3 0
def wrMode (w : BitVec 512) : Nat := wr w 0 5 4
def wrCtr (w : BitVec 512) : Nat := wr w 0 9 6
def wrPeer (w : BitVec 512) : Nat := wr w 0 27 16
def wrKey (w : BitVec 512) : Nat := wr w 0 47 32
def wrLva (w : BitVec 512) : Nat := wr w 8 55 0
def wrLen (w : BitVec 512) : Nat := wr w 0x10 31 0
def wrArg (w : BitVec 512) : Nat := wr w 0x18 63 0
/-- The fields of ARG of a registration. -/
def wrNmsg (w : BitVec 512) : Nat := wr w 0x18 15 0
def wrSendk (w : BitVec 512) : Bool := wr w 0x18 16 16 == 1
def wrSlot (w : BitVec 512) : Nat := wr w 0x18 47 32

/-- What the request adds to its counter at release (R440). -/
def wrIncs (w : BitVec 512) : Nat := match wrOp w with | 0 | 1 => 1 | 2 => wrNmsg w | _ => 0

/-- The request is invalid: cause 0x98 (R440). -/
def wrBad (w : BitVec 512) : Bool :=
  let len := wrLen w
  decide (3 < wrOp w) || decide (1 < wrMode w) || wr w 0 15 10 != 0 || wr w 0 31 28 != 0 || wr w 0 63 48 != 0 ||
  wr w 8 63 56 != 0 || wr w 0x10 63 32 != 0 || wr w 0x20 255 0 != 0 ||
  (match wrOp w with
    | 0 | 1 => len == 0 || decide (2 ^ 24 < len) || decide (1 < bits (wrLva w) 55 54)
    | 2 =>
      wrMode w != 0 || wrPeer w != 0 || len == 0 || len % 64 != 0 || bits (wrLva w) 55 54 != 0 || wrLva w % 64 != 0 ||
      wrNmsg w == 0 || wr w 0x18 31 17 != 0 || wr w 0x18 63 48 != 0 ||
      (if wrSendk w then decide (wrSlot w < 2) || len != wrNmsg w * wrSlot w * 64 else wrSlot w != 0)
    | _ => wrMode w != 0 || wrPeer w != 0 || wrCtr w != 0 || wrLva w != 0 || len != 0 || wrArg w != 0)

/-! ## Release -/

/-- The restarts that a launch has made (13 R390). -/
def State.attempt (s : State) (l : Nat) : Nat := ((s.launches.find l).map (·.restarts)).getD 0

/-- A region's entry is freed once it is deregistered and its accepted messages are complete (R451). -/
def State.freeRegion (s : State) (key : Nat) : State :=
  match s.regions.find key with
  | some r => if r.closing && r.msgs.isEmpty && r.dec = 0 then { s with regions := s.regions.del key } else s
  | none => s

/-- Deregisters a region. -/
def State.deregister (s : State) (key : Nat) : State :=
  match s.regions.find key with
  | some r => ({ s with regions := s.regions.put key { r with closing := true } } : State).freeRegion key
  | none => s

/-- A work request is released (R440, R442, R451; R436: while the engine does not run, the task instance ends). -/
def State.netRelease (s : State) (c l : Nat) (w : BitVec 512) (asid : Nat) (sup : Bool) : State :=
  let die := dieOf c
  let key := die * 256 + wrKey w % 256
  let tag := wrKey w / 256
  let s := s.upLaunchCx c l (fun x => { x with ctr := x.ctr.set (wrCtr w) ((x.ctr.get (wrCtr w) 0 + wrIncs w) % 65536) 0 })
  if fld (s.dieReg die 0x080) 0 0 = 0 then s.endInstance c l (endingOf 0x9D 0)
  else match wrOp w with
    | 0 | 1 =>
      let m : NetMsg := { no := s.released, die := die, core := c, launch := l, w := w, asid := asid, sup := sup }
      { s with netMsgs := s.netMsgs ++ [m], released := s.released + 1 }
    | 2 =>
      match s.regions.find key with
      | some _ => s.endInstance c l (endingOf 0x98 0)
      | none => { s with regions := s.regions.put key {
          tag := tag, base := wrLva w, len := wrLen w, nmsg := wrNmsg w, sendk := wrSendk w, slot := wrSlot w, asid := asid
          sup := sup, core := c, launch := l, ctr := wrCtr w, att := s.attempt l } }
    | _ =>
      match s.regions.find key with
      | some r => if r.tag = tag then s.deregister key else s
      | none => s

end Sys2Proof.Machine
end

