-- ==== Sys2Proof/Machine/Commit.lean ====
section
/-! DEFINITION. Cuts, commits and what a commit releases (06 R187–R201; 07 R231, R238; 09 R288; 14 R413). -/
namespace Sys2Proof.Machine

/-! ## Release of held commands (07 R231) -/

/-- Starts the next waiting copy of an idle channel (07 R243). -/
def Chan.start (ch : Chan) : Chan :=
  match ch.st, ch.waiting with
  | .idle, q :: r => { st := .active, cur := some q, waiting := r, w := q.dst, lines := 0, tpl := q.tpl }
  | _, _ => ch

/-- Two destination extents of copies meet (07 R240): both in the memory of one address space, or both in a common slot. -/
def dstMeet (a b : CopyCmd) : Bool :=
  let base := fun (q : CopyCmd) => if tDkind q.t = 0 then q.dst else q.dst % 2 ^ 21
  let lap := decide (base a < base b + dstSpan b.t) && decide (base b < base a + dstSpan a.t)
  if tDkind a.t = 0 || tDkind b.t = 0 then tDkind a.t == tDkind b.t && a.asid == b.asid && lap
  else a.launch == b.launch && lap && (dstCores a).any (fun d => (dstCores b).contains d)

/-- Releases a copy: its counter rises, and it starts or waits in its channel. An overlap with an earlier copy of the core
that has not completed ends the task instance with 0x87 (07 R231, R238, R240). -/
def State.releaseCopy (s : State) (c : Nat) (q : CopyCmd) : State :=
  let k := s.core c
  if k.chans.any (fun ch => ch.2.open.any (fun o => dstMeet o.1 q)) then
    s.endInstance c q.launch (endingOf 0x87 (BitVec.ofNat 64 q.dst))
  else
    let q := { q with no := s.released }
    let s := { s with released := s.released + 1 }
    let s := s.upLaunchCx c q.launch (fun x => { x with ctr := x.ctr.set (tCtr q.t) ((x.ctr.get (tCtr q.t) 0 + 1) % 65536) 0 })
    let ch := k.chans.get q.ch {}
    let s := s.upCore c (fun k => { k with chans := k.chans.put q.ch { ch with waiting := ch.waiting ++ [q] }.start })
    let s := s.emit c q.launch 1 0x01 16 q.ch (BitVec.ofNat 64 (q.tpl + (q.dst - rf q.t 8 55 0) % 2 ^ 48 * 2 ^ 16))
    if ch.st == .idle then s.emit c q.launch 1 0x02 16 q.ch (BitVec.ofNat 64 q.dst) else s

/-- The word a deterministic update carries (10 R311): issuer index, sequence number, level, domain id, phase. -/
def Ctx.detTag (x : Ctx) (c thr : Nat) : Nat × Nat × Nat × Nat × Nat :=
  let lvl := fld x.damStat 1 0
  let sh := 8 * (lvl - 1)
  let ph := fld x.domPhase (sh + 3) sh
  let arr := fld x.domPhase (sh + 4) (sh + 4)
  (if thr = 16 then 65536 + c else c * 16 + thr, x.detSeq.get thr 0, lvl,
    fld x.domId (20 * (lvl - 1) + 15) (20 * (lvl - 1)), (ph + arr) % 16)

/-- The far result of operation `id` arrives in a thread: the register is written, and nothing of it stays in flight (03 R77). -/
def Thr.resolve (t : Thr) (id : Nat) (v : Word) : Thr :=
  match t.far.find? (fun e => e.src == FarSrc.released id) with
  | some e => { t with far := t.far.filter (fun e => e.src != FarSrc.released id) }.setX e.reg v
  | none => t
/-- The same in all threads of a restored state, whose waits for it end. -/
def Arch.resolve (a : Arch) (id : Nat) (v : Word) : Arch :=
  { a with
    ct := (a.ct.resolve id v).settleOld
    mts := a.mts.map (fun m => (m.1, ({ m.2 with thr := m.2.thr.resolve id v } : Mt).settleOld)) }
/-- The same in a context and in every checkpoint, each of which is complete with the result (06 R193). -/
def Ctx.resolve (x : Ctx) (id : Nat) (v : Word) : Ctx :=
  { x with
    arch := x.arch.resolve id v
    chunk := { x.chunk with ckpt := x.chunk.ckpt.resolve id v }
    pend := x.pend.map (fun k => { k with ckpt := k.ckpt.resolve id v }) }

/-- A member leaves its gang: its control thread goes on at the block after that of `split` (05 R179), or has ended its stream
(R177). -/
def Arch.leave (a : Arch) : Arch :=
  { a with gang := none, gangWait := none, ct := if a.gangWait.isSome then a.ct.goesOn else a.ct }

/-- Appends a released matrix command. -/
def State.putMat (s : State) (c : Nat) (m : MatRel) : State :=
  { s with released := s.released + 1 }.upCore c (fun k => { k with mat := k.mat ++ [{ m with no := s.released }] })

/-- Releases one command of launch `l` (07 R231; 03 R77; 08 R274; 09 R301). -/
def State.releaseCmd (s : State) (c l : Nat) (cmd : Cmd) : State :=
  match cmd with
  | .copy q => s.releaseCopy c q
  | .cset n v => s.upLaunchCx c l (fun x => { x with ctr := x.ctr.set n (v % 65536) 0 })
  | .gather g =>
    let e := fld g.ctl 53 52
    let s := s.upLaunchCx c l (fun x => { x with fifoOut := x.fifoOut.put e (x.fifoOut.get e 0 + fld g.ctl 40 29 + 1) })
    let q := clusterOf c * 16 + fld g.ctl 57 54
    { s with gathers := s.gathers.put q (s.gathers.get q [] ++ [g]) }
  | .matrix m =>
    match m with
    | .mgo g =>
      let seq := ((s.launchCx c l).map (·.mgoSeq)).getD 0 + 1
      let s := s.upLaunchCx c l (fun x => { x with mgoSeq := seq })
      s.putMat c { launch := l, cmd := .mgo { g with seq := seq } }
    | m => s.putMat c { launch := l, cmd := m }
  | .atomic o =>
    match s.launchCx c l with
    | none => s
    | some x =>
      if o.kind = 2 && fld x.damStat 1 0 ≠ 0 then
        let o := { o with det := some (x.detTag c o.thr) }
        let s := s.upLaunchCx c l (fun x =>
          { x.resolve o.id 0 with detSeq := x.detSeq.put o.thr (x.detSeq.get o.thr 0 + 1) })
        s.upCore c (fun k => { k with detOut := k.detOut ++ [(l, o)] })
      else s.upCore c (fun k => { k with atomics := k.atomics ++ [(l, { o with stamp := x.lastStamp, near := x.reach == 0 })] })
  | .tlbi .. => s.upCore c (fun k => { k with tlbis := k.tlbis ++ [(l, cmd)] })
  | .dmem lvl v => s.upCore c (fun k => { k with dmems := k.dmems ++ [(l, lvl, v)] })
  | .split => s.upLaunchCx c l (·.upArchAll Arch.leave)
  | .fe r =>
    s.upCore c (fun k => { k with
      feOut := k.feOut ++ [{ r with launch := l, no := k.bundleNo, after := k.fenceMark }]
      bundleNo := k.bundleNo + 1 })
  | .net w asid sup => s.netRelease c l w asid sup

/-! ## Bundles (14 R413) -/

/-- Bundles sent to a device and not acknowledged. -/
def State.bundlesAt (s : State) (d : Nat) : Nat :=
  (s.cores.map (fun e => (e.2.bundles.filter (fun b => b.dev == d && b.sent.isSome)).length)).sum

/-- The oldest bundle for a device that is not sent and that no `fence.sys` holds, with its core (03 R100). -/
def State.nextBundle (s : State) (d : Nat) : Option (Nat × BundleOut) :=
  (s.cores.flatMap (fun e => (e.2.bundles.filter (fun b => b.dev == d && b.sent.isNone && !s.unacked e.1 b.after)).map (fun b => (e.1, b)))).foldl
    (fun a q => match a with
      | some p => if q.2.no < p.2.no then some q else some p
      | none => some q) none

/-- Sends waiting bundles to a device, in the order of their commits: at most 256 stand unacknowledged, and none passes a
`fence.sys` (14 R413; 03 R100). -/
def State.pumpBundles (s : State) (d : Nat) : Nat → State
  | 0 => s
  | n + 1 =>
    match s.nextBundle d with
    | none => s
    | some (c, b) =>
      if 256 ≤ s.bundlesAt d then s
      else
        let q := s.bseq.get d 0
        let s := { s with bseq := s.bseq.put d ((q + 1) % 4096), outbox := s.outbox ++ [Out.bundle d q b.ops] }
        (s.upCore c (fun k => { k with bundles := k.bundles.map (fun x =>
          if x.id == b.id then { x with sent := some (q, s.cycle) } else x) })).pumpBundles d n

/-- Sends every waiting bundle that can be sent: an acknowledgement from one device may end the hold of bundles for another (14
R417). -/
def State.pumpAll (s : State) : State :=
  ((s.cores.flatMap (fun e => (e.2.bundles.filter (fun b => b.sent.isNone)).map (·.dev))).eraseDups).foldl
    (fun s d => s.pumpBundles d 256) s

/-- Forms the bundles of a chunk, one for each target device, with the requests in thread order, and sends them. -/
def State.sendBundles (s : State) (c l : Nat) (ops : List PeerOp) : State :=
  (ops.map (·.dev)).eraseDups.foldl (fun s d =>
    let mine := ops.filter (·.dev == d)
    let s := { s with released := s.released + 1 }
    let s := s.upCore c (fun k => { k with
      bundles := k.bundles ++ [{ id := k.bundleNo, no := s.released, dev := d, launch := l, ops := mine, after := k.fenceMark }]
      bundleNo := k.bundleNo + 1 })
    s.pumpBundles d 1) s

/-! ## Wakes (09 R288) -/

/-- Clears the wake list of an object and sends a wake message to the cores of every listed node. -/
def State.wakeObject (s : State) (key : Nat) : State :=
  let d := key / 2 ^ 17 % 8192
  let w := s.objWord key 8
  let s := s.setObjWord key 8 0
  (onesOf w 64).foldl (fun s n =>
    (List.range 4).foldl (fun s i =>
      let e := clusterOf d * 256 + 4 * n + i
      s.upCore e (fun k => { k with wakes := k.wakes ++ [key] })) s) s

/-! ## Commit (06 R200, R205) -/

/-- A field of a launch descriptor: bits hi:lo of the bytes from offset `o` (12 R348). -/
def ld (d : BitVec 2048) (o hi lo : Nat) : Nat := bits d.toNat (8 * o + hi) (8 * o + lo)

/-- A launch. -/
def State.launch (s : State) (l : Nat) : Option Launch := s.launches.find l
/-- Changes a launch. -/
def State.upLaunch (s : State) (l : Nat) (f : Launch → Launch) : State :=
  match s.launches.find l with
  | some v => { s with launches := s.launches.put l (f v) }
  | none => s
/-- A command queue. -/
def State.queue (s : State) (q : Nat) : Queue := s.queues.get q {}
/-- Changes a command queue. -/
def State.upQueue (s : State) (q : Nat) (f : Queue → Queue) : State :=
  { s with queues := s.queues.put q (f (s.queue q)) }

/-- A committed write of a memory line by a launch enters its digest (12 R371): the line's bytes before and after. The VA is
the one that the reverse map gives the frame. -/
def State.digestLine (s : State) (l pa : Nat) (old new : List Byte) : State :=
  match s.launch l with
  | none => s
  | some v =>
    if ld v.d 0x08 18 18 = 0 then s
    else
      let e := s.memNat (s.rmapAddr pa) 8
      let va := bits e 57 18 * 65536 + pa % 65536 / 64 * 64
      let asid := ld v.d 0x08 15 0
      let dlt := fzh64 va asid new - fzh64 va asid old
      let s := s.upLaunch l (fun v => { v with digest := v.digest + dlt })
      s.upQueue v.queue (fun q => { q with digest := q.digest.map (· + dlt) })

/-- The lines that a table of stored bytes meets. -/
def storedLines (st : FMap Byte) : List Nat := (st.map (fun e => e.1 / 64)).eraseDups

/-- The effects of written lines beside their data. -/
def State.linesWritten (s : State) (st : FMap Byte) : State :=
  if s.poison.isEmpty && s.scrubs.isEmpty then s
  else (storedLines st).foldl (fun s line =>
    let bs := st.filter (fun e => e.1 / 64 == line)
    if bs.length = 64 then s.written (line * 64) 64 else bs.foldl (fun s e => s.written e.1 1) s) s

/-- Bytes become committed data for a launch, with their part in its digest (06 R200; 12 R371). -/
def State.commitBytes (s : State) (l : Nat) (st : FMap Byte) : State :=
  let s' := ({ s with mem := st.foldl (fun m e => m.write e.1 e.2) s.mem } : State).linesWritten st
  match s.launch l with
  | none => s'
  | some v =>
    if ld v.d 0x08 18 18 = 0 then s'
    else (storedLines st).foldl (fun q line =>
      q.digestLine l (line * 64) (s.mem.readN (line * 64) 64) (s'.mem.readN (line * 64) 64)) s'

/-- Bytes of one line are written for a launch as a synthetic chunk (06 R207). -/
def State.synthFor (s : State) (l pa : Nat) (bs : List Byte) : State :=
  let s := match s.paKey pa with
    | some key => s.squashKey key
    | none => s
  { s with clock := s.clock + 1 }.commitBytes l ((List.range bs.length).map (fun i => (pa + i, bs.getD i 0)))

/-! ## Commit-order recording (12 R342) -/

/-- The PA of an entry of a launch's log, `i` beyond its position: kind 0 to read it, 1 to write it. -/
def State.logEntry (s : State) (v : Launch) (i kind : Nat) : UnitRes Nat :=
  s.unitPa (ld v.d 0x08 15 0) (ld v.d 0xA0 55 0 + 8 * (v.ordPos + i)) kind

/-- Records a commit of reach ≥ 1 in the log of a launch with ORD = 1, at a PA if the entry can be written, or moves a replay on.
`n` is the ordinal of the commit among the instance's, from 1. -/
def State.logCommit (s : State) (l inst n : Nat) (pa : Option Nat) : State :=
  match s.launch l with
  | none => s
  | some v =>
    let ord := ld v.d 0x08 20 19
    if ord = 1 then
      if ld v.d 0xA8 31 0 ≤ v.ordPos then s
      else
        let s := match pa with
          | some pa => s.synthNat pa 8 (inst % 65536 + n % 2 ^ 32 * 65536)
          | none => s
        s.upLaunch l (fun v => { v with ordPos := v.ordPos + 1, ordFull := v.ordPos + 1 == ld v.d 0xA8 31 0 })
    else if ord = 2 && v.replay then s.upLaunch l (fun v => { v with ordPos := v.ordPos + 1 })
    else s

/-- The PAs of the next entries of a launch's log, one for each commit that is about to be granted: they are written as synthetic
chunks, so a line that a commit or a reservation holds makes them wait (06 R207; 12 R342). -/
def State.logPlaces (s : State) (l n : Nat) : UnitRes (List (Option Nat)) :=
  match s.launch l with
  | none => (s, .ok [])
  | some v =>
    if ld v.d 0x08 20 19 ≠ 1 then (s, .ok [])
    else (List.range (min n (ld v.d 0xA8 31 0 - v.ordPos))).foldl (fun (r : UnitRes (List (Option Nat))) i =>
      UnitRes.bind r (fun s ps => match s.logEntry v i 1 with
        | (s, .ok pa) => (s, .ok (ps ++ [some pa]))
        | (s, .error true) => (s, .error true)
        | (s, .error false) => (s, .ok (ps ++ [none])))) (s, .ok [])

/-- The commit that a replaying launch's log names next: instance and ordinal; none when the log is exhausted or cannot be read,
or the launch does not replay (12 R342). -/
def State.replayNext (s : State) (l : Nat) : UnitRes (Option (Nat × Nat)) :=
  match s.launch l with
  | none => (s, .ok none)
  | some v =>
    if !v.replay || ld v.d 0xA8 31 0 ≤ v.ordPos then (s, .ok none)
    else match s.logEntry v 0 0 with
      | (s, .ok pa) => (s, .ok (if s.poisoned pa 8 then none else some (s.memNat pa 2, s.memNat (pa + 2) 4)))
      | (s, .error true) => (s, .error true)
      | (s, .error false) => (s, .ok none)

/-- The instance that the log of a replaying launch names next has ended without making the commit: the launch leaves replay (12
R342; 13 R404). -/
def State.replayCheck (s : State) (l : Nat) (named : Option (Nat × Nat)) : State :=
  match s.launch l, named with
  | some v, some (i, _) =>
    if v.ended.any (fun e => e.1 == i) then s.upLaunch l (fun v => { v with replay := false, ordDiv := true }) else s
  | _, _ => s

/-- The launch replays its log. -/
def State.replays (s : State) (l : Nat) : Bool := ((s.launch l).map (·.replay)).getD false

/-- Replay holds the next commit of core `c`: the log names another one (12 R342; 13 R404). -/
def State.replayHolds (s : State) (c : Nat) (named : Option (Nat × Nat)) : Bool :=
  let x := s.cx c
  s.replays (x.launch.getD 0) && (match named with
    | some (i, n) => !(i == x.inst && n == (x.commits + 1) % 2 ^ 32)
    | none => false)

/-- E after a commit (06 R205). -/
def Ctx.grow (x : Ctx) : Ctx :=
  { x with cap := match x.cap with
    | none => none
    | some e => if chkTarget x.chunk.ckpt.chkCtl ≤ 2 * e then none else some (2 * e) }

/-- The committing chunk of core `c` takes effect with a stamp: its lines become committed data, its log is dropped, its
commands are released in thread order, E grows back, and raised causes are taken (06 R194, R200, R205, R214). -/
def State.applyCommit (s : State) (c : Nat) (stamp reach : Nat) : State :=
  let x := s.cx c
  match x.pend with
  | [] => s
  | k :: rest =>
    let l := x.launch.getD 0
    let s := s.commitBytes l k.stores
    let s := s.setCx c { x with
      pend := rest
      reach := reach
      lastStamp := stamp
      commits := if reach = 0 then x.commits else x.commits + 1 }.grow
    let s := k.newObjs.foldl State.keepObj (k.wakes.foldl State.wakeObject s)
    let s := if k.traces.isEmpty then s else s.upCore c (fun q => { q with traceOut := q.traceOut ++ k.traces })
    let s := s.sendBundles c l k.bundle
    let s := k.held.foldl (fun s h => s.releaseCmd c l h) s
    let s := if k.fenceSys then s.upCore c (fun q => { q with fenceMark := q.bundleNo }) else s
    let s := if k.wantsRsv then s.dropRsv c else s
    if s.takeDue c then s.takeCauses c else s

/-- The reach of the committing chunk of core `c`, and of its gang's as one unit (05 R178). -/
def State.headReach (s : State) (c : Nat) : Nat :=
  (s.gangCores c).foldl (fun r d => match (s.cx d).pend with | k :: _ => max r (s.reachOf d k) | [] => r) 0

/-- The committing chunk of core `c` has been cut and has not asked its reeve. -/
def State.headCut (s : State) (c : Nat) : Bool :=
  match (s.cx c).pend with
  | k :: _ => k.st == .cut
  | [] => false

/-- The committing chunk of core `c` wrote a slot line, before the release of a matrix command that has still to read it: the
command reads the line as it stood at its release, so the commit waits (08 R276 item 1). -/
def State.commitHeld (s : State) (c : Nat) : Bool :=
  let x := s.cx c
  match x.pend with
  | k :: _ => k.undo.any (fun u =>
      let l := x.launch.getD 0
      match (if isAway u.core then some 0 else (s.launchCx u.core l).map (·.wb)) with
      | some b => s.pendingRead l (u.core % 8192) (u.line * 64 - b) (u.line * 64 - b + 64) none
      | none => false)
  | [] => false

/-- Commits chunks of reach 0 at the head of the cut chunks: they need no reeve (06 R200 step 1). Their stamp is the
commit clock's value (R201). A gang commits as one unit. -/
def State.commitLocal (s : State) (c : Nat) : Nat → State
  | 0 => s
  | n + 1 =>
    let cs := s.gangCores c
    if cs.all s.headCut && !cs.any s.commitHeld && s.headReach c == 0 then
      (cs.foldl (fun s d => s.applyCommit d (max s.clock (s.cx d).lastStamp) 0) s).commitLocal c n
    else s

/-! ## Cut (06 R187, R193) -/

/-- A thread passes a cut: its hold ends, and in stepped mode it may run its next block. -/
def Thr.atCut (t : Thr) : Thr := { t with hold := false, blockDone := false }
/-- All threads pass a cut. -/
def Arch.atCut (a : Arch) : Arch :=
  { a with ct := a.ct.atCut, mts := a.mts.map (fun m => (m.1, { m.2 with thr := m.2.thr.atCut })) }

/-- What reduces E after a cut, from which a new TARGET governs (06 R186, R220). -/
def Ctx.capAtCut (x : Ctx) : Option Nat :=
  match x.cap with
  | some e => if chkTarget x.arch.chkCtl ≤ e then none else some e
  | none => none

/-- Stepped mode of the next chunk and the instructions it still has to retire (06 R215, R216). -/
def Chunk.stepNext (k : Chunk) (ctl : Word) : Bool × Nat :=
  let left := k.target - k.retired
  (chkStep ctl || (k.stepped && decide (0 < left)), left)

/-- Cuts the executing chunk of a core. `taking`: its raised causes are taken after the commit (06 R214). -/
def State.cutOne (s : State) (c : Nat) (taking : Bool) : State :=
  let x := s.cx c
  let k := x.chunk
  let a := x.arch.atCut
  let st := k.stepNext a.chkCtl
  s.setCx c { x with
    arch := a
    cap := x.capAtCut
    taking := taking
    pend := x.pend ++ [{ k with st := .cut }]
    chunk := { ckpt := a, stepped := st.1, target := st.2 } }

/-- The operation is full/empty operation `id` of launch `l`. -/
def FeReq.isOp (r : FeReq) (l id : Nat) : Bool := r.launch == l && r.id == id && r.peer.isNone

/-- A thread that waits for full/empty operation `id` stands at its instruction again, which may have a cause to raise (14 R420,
R423). -/
def Arch.backFe (a : Arch) (t id : Nat) (blk : Word) (off park : Nat) (late : Option (Cause × Word)) : Arch :=
  if (a.thr t).stall.map (·.why) != some (.fullEmpty id) then a
  else a.setThr t { a.thr t with
    phase := .resume blk off park false, stall := none, late := late, raised := none
    atEntry := if (a.thr t).atEntry = some 0x17 then none else (a.thr t).atEntry
    far := (a.thr t).far.filter (fun e => e.src != FarSrc.released id) }

/-- An event withdraws the full/empty operation that the CT waits for (14 R423; log 102): one held by a chunk, on its way to its
controller or listed there is dropped, and the CT stands at its instruction again; the answer of a peer device is waited for. -/
def State.withdrawCt (s : State) (c : Nat) : State :=
  let x := s.cx c
  match x.arch.ct.stall with
  | some ⟨.fullEmpty id, _, _⟩ =>
    let l := x.launch.getD 0
    let op := fun (h : Cmd) => match h with | .fe r => if r.id = id && r.thr = 16 then some r else none | _ => none
    let back := fun (s : State) (r : FeReq) => s.upCx c (·.upArchAll (·.backFe 16 id r.blk r.off r.park none))
    match (x.pend.flatMap (fun k => k.held.filterMap op)).head?, (s.core c).feOut.find? (·.isOp l id),
        s.feList.find? (fun r => r.core == c && r.isOp l id) with
    | some r, _, _ => back (s.upCx c (fun x => { x with
        pend := x.pend.map (fun k => { k with held := k.held.filter (fun h => (op h).isNone) }) })) r
    | none, some r, _ => back (s.upCore c (fun k => { k with feOut := k.feOut.filter (fun r => !r.isOp l id) })) r
    | none, none, some r => back { s with feList := s.feList.filter (fun r => !(r.core == c && r.isOp l id)) } r
    | none, none, none => s.upCx c (fun x => { x with feDrop := if x.feDrop.contains id then x.feDrop else x.feDrop ++ [id] })
  | _ => s

/-- The CT takes the first pending asynchronous event at a cut, unless its handler runs (06 R219). The result of a commit-released
instruction of the CT is written first, since the checkpoint of the cut is complete only then (R193); no thread runs meanwhile. A chunk
remembers the event, so that a squash of an older chunk brings it back. -/
def State.takeAsync (s : State) (c : Nat) : State :=
  if !(s.cx c).asyncOpen then s
  else
    let s := if (s.cx c).asyncCut then s else s.withdrawCt c
    let x := s.cx c
    match x.async with
    | [] => s
    | e :: r =>
      if x.arch.ct.awaitsCommit then s.setCx c { x with asyncCut := true }
      else
        let q := s.recNow c x.arch.ct
        let s := s.setCx c { x with async := r, asyncCut := false }
        let s := s.takeException c e.cause true q e.info
        s.upCx c (fun x => { x with chunk := { x.chunk with ckpt := x.arch, took := [e] } })

/-- Cuts the chunk of a core and of every member of its gang (05 R178); chunks of reach 0 commit at once. -/
def State.cut (s : State) (c : Nat) (taking : Bool) : State :=
  let cs := s.gangCores c
  let s := cs.foldl (fun s d => s.cutOne d taking) s
  let s := s.commitLocal c 3
  -- an asynchronous event is taken at the cut (06 R219)
  cs.foldl (fun s d => s.takeAsync d) s

end Sys2Proof.Machine
end

