-- ==== Sys2Proof/Machine/Operands.lean ====
section
/-! DEFINITION. Immediates (02 R46), the checks that stand before every instruction (02 R63 items 8–16), operands of the
binary integer instructions (03 R79), addresses of memory instructions (03 R78, R95). -/
namespace Sys2Proof.Machine

/-! ## Prefixes -/

/-- The payload of the REG prefix, 0 without one. -/
def regPay (p : Pfx) : Nat := (p.reg.map BitVec.toNat).getD 0
/-- A REG prefix is present. -/
def hasReg (p : Pfx) : Bool := p.reg.isSome
/-- An IMM prefix is present. -/
def hasImm (p : Pfx) : Bool := !p.imms.isEmpty
/-- Field `t` of the REG prefix (02 R45). -/
def regT (p : Pfx) : Nat := bits (regPay p) 10 7
/-- The variant bits of the REG prefix. -/
def regV (p : Pfx) : Nat := bits (regPay p) 6 0
/-- The bits of the IMM prefixes, the first uppermost (02 R46). -/
def immBits (p : Pfx) : Nat := p.imms.foldl (fun a v => a * 2048 + v.toNat) 0
/-- The unsigned immediate with a base field of `w` bits that holds `b`. -/
def uimm (p : Pfx) (w b : Nat) : Nat := immBits p * 2 ^ w + b
/-- The signed immediate. -/
def simm (p : Pfx) (w b : Nat) : Int := sextI (uimm p w b) (11 * p.imms.length + w)
/-- Fields of the MOD prefix (02 R45, R50). -/
def modSat (p : Pfx) : Bool := (p.md.map (·.getLsbD 10)).getD false
def modClamp (p : Pfx) : Nat := (p.md.map (fun m => bits m.toNat 9 8)).getD 0
def modNeg (p : Pfx) : Bool := (p.md.map (·.getLsbD 7)).getD false
def modAbs (p : Pfx) : Bool := (p.md.map (·.getLsbD 6)).getD false
def modK (p : Pfx) : Int := (p.md.map (fun m => sextI m.toNat 6)).getD 0

/-! ## The checks before an instruction (02 R63) -/

/-- Which threads may execute an instruction (02 R55, R68; 03 R104, R112; 04 R116). -/
inductive Who where
  /-- every thread -/
  | any
  /-- the CT in a kind 2 block; an MT raises 0x0E -/
  | ct
  /-- MTs; the CT raises 0x12 -/
  | mt
  /-- the CT; an MT raises 0x12 -/
  | notMt
deriving DecidableEq, Repr

/-- What the checks of an instruction look at. -/
structure Rules where
  /-- an undefined sub-operation within the row: 0x01 -/
  undef : Bool := false
  who : Who := .any
  /-- a control transfer (02 R55) -/
  transfer : Bool := false
  /-- supervisor-only (02 R69) -/
  super : Bool := false
  /-- the prefixes accepted -/
  reg : Bool := false
  imm : Bool := false
  md : Bool := false
  /-- a further prefix that is not accepted: 0x06 -/
  extra : Bool := false
  /-- a required prefix is missing: 0x07 -/
  lack : Bool := false
  /-- an illegal field value: 0x08 -/
  bad : Bool := false
  /-- an immediate out of range: 0x09 -/
  range : Bool := false
  /-- the scalar registers that the instruction names (02 R59) -/
  named : List Nat := []
  /-- a page-2 instruction that the steward does not execute (07 R245) -/
  page2 : Bool := false
deriving DecidableEq, Repr

/-- Raises a cause where a check fails. -/
def chk (fails : Bool) (c : Cause) : Except Stop Unit := if fails then .error (.cause c 0) else .ok ()

/-- The acting MT runs a broadcast block. -/
def State.inBcast (s : State) : Bool := !s.isCt && s.mt.mode == .broadcast
/-- The acting core is a steward. -/
def State.atSteward (s : State) : Bool := isSteward s.cur.core
/-- The instruction may not be executed by the acting thread: its cause. -/
def State.whoCause (s : State) (r : Rules) : Option Cause :=
  match r.who with
  | .any => if r.page2 && s.atSteward then some 0x12 else none
  | .ct =>
    if r.page2 && s.atSteward then some 0x12
    else if !s.isCt || hdrKind s.thr.hdr != 2 then some 0x0E else none
  | .mt => if s.isCt then some 0x12 else none
  | .notMt => if s.isCt then none else some 0x12

/-- A named register is in the hazard set (02 R59); x0 never is. -/
def Thr.hazard (t : Thr) (named : List Nat) : Bool := named.any (fun n => t.hz.getLsbD n)

/-- The checks of 02 R63 items 8 to 16, in order. -/
def State.gate (s : State) (p : Pfx) (r : Rules) : Except Stop Unit := do
  chk r.undef 0x01
  chk (r.transfer && s.inBcast) 0x0D
  (match s.whoCause r with | some c => .error (.cause c 0) | none => .ok ())
  chk (r.super && !s.isSup s.cur.core) 0x0F
  chk ((hasReg p && !r.reg) || (hasImm p && !r.imm) || (p.md.isSome && !r.md) || r.extra) 0x06
  chk r.lack 0x07
  chk (r.bad || (p.pg.getD 0 != 0)) 0x08
  chk r.range 0x09
  chk (s.thr.hazard r.named) 0x10

/-- A page-2 instruction (02 R67): its `sub` field must be 0 unless the entry uses it (05 R159; 07 R250). -/
def ctOnly (r : Rules) : Rules := { r with who := .ct, page2 := true }
/-- A page-2 instruction that an MT may execute as well (02 R68). -/
def ctOrMt (r : Rules) : Rules := { r with page2 := true }

/-- The instruction stands last in its block body (03 R77; 05 R176, R179). -/
def State.isLast (s : State) : Bool := s.thr.off + s.cur.len == hdrLen s.thr.hdr + 1

/-! ## Operands of binary integer instructions (03 R79) -/

/-- Constraint of R79: a part that an operand form leaves unused is not 0. -/
def binBad (p : Pfx) (f : FA) : Bool :=
  match hasReg p, hasImm p with
  | false, false => false
  | true, false => regV p != 0
  | false, true => f.s != 0
  | true, true => regT p != 0 || regV p != 0

/-- The registers that a binary instruction names. -/
def binNamed (p : Pfx) (f : FA) : List Nat :=
  match hasReg p, hasImm p with
  | true, false => [f.d.toNat, f.s.toNat, regT p]
  | false, true => [f.d.toNat]
  | _, _ => [f.d.toNat, f.s.toNat]

/-- The checks of a binary instruction. -/
def binRules (p : Pfx) (f : FA) : Rules := { reg := true, imm := true, bad := binBad p f, named := binNamed p f }

/-- Operand a. -/
def State.opA (s : State) (p : Pfx) (f : FA) : Word := if hasReg p then s.x f.s.toNat else s.x f.d.toNat
/-- Operand b. -/
def State.opB (s : State) (p : Pfx) (f : FA) : Word :=
  if hasImm p then wordOfInt (simm p 0 0) else if hasReg p then s.x (regT p) else s.x f.s.toNat

/-! ## Addresses -/

/-- xs + index + immediate, where the index is a register shifted by the access size (03 R78). -/
def State.vaOf (s : State) (p : Pfx) (base : Nat) (lg : Nat) : Word :=
  s.x base + (if hasReg p then s.x (regT p) <<< lg else 0) + wordOfInt (simm p 0 0)

/-- The base of a scratchpad access: an address register of an MT, the low half of a scalar register of the CT (03 R95). -/
def State.spBase (s : State) (n : Nat) : Nat := if s.isCt then (s.x n).toNat % 2 ^ 32 else (s.mt.getA n).toNat

/-- The scratchpad address of R95. -/
def State.spAddr (s : State) (p : Pfx) (base : Nat) (index : Nat) : Nat :=
  lowBits ((s.spBase base : Int) + (index : Int) + simm p 0 0) 32

end Sys2Proof.Machine
end

