-- ==== Sys2Proof/Machine/Run.lean ====
section
/-! DEFINITION. What stands around the effect of every instruction: completion, raising a cause, waiting, the row gang
(02 R52, R57; 05 R176–R178; 06 R186, R187, R214, R215; 13 R398), entering and resuming blocks (02 R56, R62) and fetching
(03 R86). -/
namespace Sys2Proof.Machine

/-! ## When a cut is due (06 R187, R188) -/

/-- The CT has ended its stream, and every MT has settled (05 R171 item 1). -/
def Arch.settled (a : Arch) : Bool :=
  a.ct.phase == .stopped &&
  (List.range 16).all (fun i => let m := a.mt i; m.idleEmpty || m.thr.phase == .faulted || m.thr.phase == .halted)

/-- A cut condition holds in the chunk of a core (06 R187, R188): a request, the length, an asynchronous event, a context
switch with fewer than 64 instructions of the target left (05 R183), or the end of the task instance (R171 item 2). -/
def State.cutDue (s : State) (c : Nat) : Bool :=
  let x := s.cx c
  !isSteward c && (x.chunk.cutReq || decide (x.eff ≤ x.chunk.retired) || x.asyncDue || s.switchDue c ||
    (x.arch.settled && x.fin.isNone && decide (0 < x.chunk.retired)))

/-! ## Raising a cause (06 R214, R215) -/

/-- A thread of a core raises a cause. -/
def State.mark (s : State) (c t : Nat) (r : Raised) : State := s.upThrAt c t (fun th => { th with raised := some r, stall := none, t0 := none })

/-- A thread of the core has raised a cause. -/
def State.anyRaised (s : State) (c : Nat) : Bool := (threadsOf c).any (fun t => (s.thrAt c t).raised.isSome)

/-- Some thread of the core or of its gang has raised a cause. -/
def State.gangRaised (s : State) (c : Nat) : Bool := (s.gangCores c).any s.anyRaised

/-- In stepped mode: the thread has ended its one block, reached a raising instruction, or cannot begin a block (06 R214); `held`:
a cut is due, so that no thread begins one (R187). No far result of its own is in flight but that of a commit-released instruction
that ended its block (01 R13; 03 R77). -/
def Thr.steppedDone (t : Thr) (noEntry held : Bool) : Bool :=
  t.onlyReleased &&
  match t.phase with
  | .entry _ | .resume .. => t.raised.isSome || t.blockDone || t.hold || held
  | .idle => t.raised.isSome || t.blockDone || noEntry || held
  | .body => if t.raised.isSome then t.pending.isEmpty else t.atBoundary
  | .ending _ => t.atBoundary
  | .faulted | .halted | .stopped => true

/-- Every thread of the core has done so. -/
def State.steppedAll (s : State) (c : Nat) : Bool :=
  let a := s.arch c
  let held := (s.gangCores c).any s.cutDue
  (s.cx c).chunk.stepped && (a.ct.steppedDone true held || (a.gangWait.isSome && a.ct.onlyReleased)) &&
  (List.range 16).all (fun i => (a.mt i).thr.steppedDone (a.mt i).bq.isEmpty held)

/-- And fewer than two cut chunks wait (06 R189, log 10). -/
def State.steppedReady (s : State) (c : Nat) : Bool := decide ((s.cx c).pend.length < 2) && s.steppedAll c

/-- A raised cause squashes the chunk, uncounted, and re-executes it in stepped mode; in stepped mode the chunk is cut
before the raising instructions once every thread is ready, and the causes are taken after its commit (06 R214). The
steward executes no chunks and takes the cause once its far results have arrived (02 R61; 07 R245). A gang acts as one (05
R178). -/
def State.steppedTrap (s : State) (c : Nat) : State :=
  let cs := s.gangCores c
  if !cs.any s.anyRaised then s
  else if isSteward c then
    let t := (s.arch c).ct
    match t.raised with
    | some r =>
      if !t.pending.isEmpty then s
      else (s.upThrAt c 16 (fun t => { t with raised := none })).takeException c r.cause false (s.recOf c t r) r.info
    | none => s
  else if cs.all (fun d => (s.cx d).chunk.stepped) then
    if cs.all s.steppedReady then s.cut c true else s
  else
    let marks := cs.map (fun d => (d, (s.cx d).chunk.retired))
    let s := s.squashExec c false
    marks.foldl (fun s e => s.upCx e.1 (fun x => { x with chunk := { x.chunk with
      stepped := true, target := max x.chunk.target e.2 } })) s

/-! ## Completion (02 R52, R57; 06 R186; 13 R398) -/

/-- How control goes on after an instruction. -/
inductive Flow where
  | next
  /-- to the block at an address (03 R86) -/
  | jump (t : Word)
  /-- the end of the thread's stream (03 R91) -/
  | stop
  /-- the instruction has itself set where the thread goes on -/
  | stay
  /-- the instruction has begun and waits; it completes by an event -/
  | hold
deriving DecidableEq, Repr

/-- What the body of an instruction answers. -/
abbrev Res := Except Stop (State × Flow)

/-- The acting thread stands where the flow says. -/
def State.flow (s : State) (fl : Flow) : State :=
  match fl with
  | .next => s.setThr (s.thr.advance s.inBcast s.cur.len)
  | .jump a => s.upThr (fun t => { t with phase := .ending (.entry a), stall := none, passEvent := false, answers := [], t0 := none })
  | .stop => s.upThr (fun t => { t with phase := .ending .stop, stall := none, passEvent := false, answers := [], t0 := none })
  | .stay | .hold => s

/-- The chunk has retired one more instruction. Stepped mode that a squash began ends with the instruction after the count at which
the cause arose, unless a cause has been raised again (06 R215; log 113); a length cut is pending from the instruction that reaches E. -/
def Chunk.retire (k : Chunk) (ctl : Word) (eff cycle : Nat) (raised : Bool) : Chunk :=
  let n := k.retired + 1
  { k with
    retired := n
    stepped := k.stepped && (chkStep ctl || raised || decide (n ≤ k.target))
    cutSince := if eff ≤ n && k.cutSince.isNone then some cycle else k.cutSince }

/-- One more retired instruction of the chunk; a steward executes no chunks. -/
def State.retire (s : State) : State :=
  if s.atSteward then s
  else (s.upCx s.cur.core (fun x => { x with chunk := x.chunk.retire x.arch.chkCtl x.eff s.cycle (s.gangRaised s.cur.core) })).noteCut s.cur.core

/-- A step event is due after the acting thread's instruction (13 R398, R399). -/
def State.stepDue (s : State) : Bool :=
  let d := (s.arch s.cur.core).dbg.get 0x300 0
  s.thr.stepOne || (d.getLsbD 4 && fld d 9 5 == s.cur.thr)

/-- The step event of the acting thread: its record names the next instruction. After an instruction that has ended a broadcast
block or an MT's stream, that is the first one of the next block that the MT enters; a CT that has ended its stream has none. A
commit-released instruction is complete once its effect has taken place, and the next one is the first of the next block (13 R398; 03
R77; log 108). -/
def State.stepEvent (s : State) : State :=
  let atNext := s.upThr (fun t => { t with atEntry := some 0x17 })
  match s.thr.phase with
  | .ending .stop | .ending .queue | .stopped | .idle => if s.isCt then s else atNext
  | .ending (.entry _) => if s.thr.awaitsCommit then atNext else s.mark s.cur.core s.cur.thr ⟨0x17, 0, false, 0, 0⟩
  | _ => s.mark s.cur.core s.cur.thr ⟨0x17, 0, false, 0, 0⟩

/-- The instruction of the acting thread is done: it retires, control goes on, waits that are over pass, and a step event
is raised where one is due. -/
def State.complete (s : State) (fl : Flow) : State :=
  if fl = .hold then s else
  let s := (s.retire.flow fl).settle s.cur.core s.cur.thr
  if s.stepDue then s.stepEvent else s

/-- Parking on a barrier object sets the core's bit of its wake list at once, outside the chunk (09 R288, R294). -/
def State.parkOn (s : State) (w : Wait) : State :=
  match w with
  | .barrier obj _ _ =>
    let a := obj / 2 ^ 17 * 2 ^ 21 + obj % 2 ^ 17 * 16 + 8 + coreIdx s.cur.core / 32
    let s := ({ s with
      vault := s.vault.write a (s.vault.read a ||| (1#8 <<< (coreIdx s.cur.core / 4 % 8)))
      objs := if s.objs.contains obj then s.objs else obj :: s.objs } : State).keepObj obj
    s.emit s.cur.core (s.launchNo s.cur.core) 2 0x12 s.cur.thr 0 (BitVec.ofNat 64 (s.objAddr (s.launchNo s.cur.core) obj))
  | _ => s

/-- A wait goes on: the same reason, or the same object. -/
def Wait.goesOn (a b : Wait) : Bool :=
  match a, b with
  | .barrier o _ _, .barrier o' _ _ => o == o'
  | a, b => a == b

/-- A load that has to wait for a peer device is sent, and what the instruction has read or used so far stands: the lines of the
shard map are in the read signature, and the lease is noted (12 R377; 14 R410, R412, R415). -/
def State.askPeer (s : State) (w : Wait) : State :=
  let c := s.cur.core
  match w with
  | .peer r map =>
    if s.thr.stall.map (·.why) == some w then s
    else
      let s := map.foldl (fun s e => s.noteMem c e.1 e.2 true false) s
      let s := if r.version.isNone then s.noteLease c r.va else s
      { s with outbox := s.outbox ++ [Out.load c s.cur.thr r] }
  | _ => s

/-- The acting thread waits before its instruction; a wait that goes on keeps its beginning. -/
def State.waitFor (s : State) (w : Wait) : State :=
  ((s.parkOn w).askPeer w).upThr (fun t => { t with
    t0 := some (t.t0.getD s.cycle)
    stall := match t.stall with
      | some q => if q.why.goesOn w then some { q with why := w } else some ⟨w, s.cur.len, s.cycle⟩
      | none => some ⟨w, s.cur.len, s.cycle⟩ })

/-- The acting thread raises the cause of its instruction, which stands before it with no effect (06 R214). -/
def State.raiseHere (s : State) (c : Cause) (info : Word) : State :=
  s.mark s.cur.core s.cur.thr ⟨c, info, false, 0, 0⟩

/-- The ending of a task instance by an instruction of the acting thread (06 R226). -/
def State.endHere (s : State) (c : Cause) (info : Word) : State :=
  s.endInstance s.cur.core (s.launchNo s.cur.core)
    { code := c, thr := s.cur.thr, blk := s.thr.blk, off := s.thr.off, park := s.thr.park, info := info }

/-- The armed breakpoints match the acting thread's next instruction (13 R398). -/
def State.breaks (s : State) : Bool :=
  let d := (s.arch s.cur.core).dbg
  let a := s.thr.blk.toNat + 4 + 2 * (s.thr.off - 1)
  !d.isEmpty && !s.thr.passEvent && (List.range 8).any (fun i =>
    let b := d.get (0x310 + i) 0
    b.getLsbD 0 && fld b 55 1 * 2 == a && (d.get (0x318 + i) 0).getLsbD s.cur.thr)

/-- The body of an instruction, after a cause that its operation has met, and the breakpoints. -/
def State.tryBody (s : State) (body : State → Res) : Res :=
  match s.thr.late with
  | some (k, i) => .error (.cause k i)
  | none => if s.breaks then .error (.cause 0x18 0) else body s

/-- The state after the body of the acting thread's instruction. -/
def State.finish (s : State) (r : Res) : State :=
  match r with
  | .ok (s', fl) => (s'.complete fl).steppedTrap s.cur.core
  | .error (.cause c info) => (s.raiseHere c info).steppedTrap s.cur.core
  | .error (.overrun o) => (s.mark s.cur.core s.cur.thr ⟨0xA0, 0, false, 0, o + 1⟩).steppedTrap s.cur.core
  | .error (.wait w) => s.waitFor w
  | .error (.ends c info) => s.endHere c info

/-! ## Row gangs (05 R177, R178; log 21) -/

/-- The leader of the gang of a core; the core itself outside one. -/
def State.leaderOf (s : State) (c : Nat) : Nat :=
  match (s.arch c).gang with
  | some g => if g.own then c else c - g.pos + g.lead
  | none => c

/-- The acting thread is the CT of a follower: the leader decides where control goes (05 R177). -/
def State.follows (s : State) : Bool := s.isCt && s.leaderOf s.cur.core != s.cur.core

/-- The acting core replaced. -/
def State.atCore (s : State) (c : Nat) : State := { s with cur := { s.cur with core := c } }

/-- The members of the acting core's gang, the leader first. -/
def State.gangOrder (s : State) : List Nat :=
  let c := s.cur.core
  s.leaderOf c :: (s.gangCores c).filter (· != s.leaderOf c)

/-- The cause that a body raises in a member, judged on the common state. -/
def State.memberCause (s : State) (body : State → Res) (c : Nat) : Option (Cause × Word × Nat) :=
  match (s.atCore c).tryBody body with
  | .error (.cause k i) => some (k, i, 0)
  | .error (.overrun o) => some (0xA0, 0, o + 1)
  | _ => none

/-- The wait that it meets. -/
def State.memberWait (s : State) (body : State → Res) (c : Nat) : Option Wait :=
  match (s.atCore c).tryBody body with
  | .error (.wait w) => some w
  | _ => none

/-- Every member performs the body in turn; control goes on as the leader's does. -/
def State.gangBodies (s : State) (body : State → Res) (cs : List Nat) (lead : Option Flow) : Except (Nat × Stop) State :=
  match cs with
  | [] => .ok s
  | c :: r =>
    match (s.atCore c).tryBody body with
    | .error e => .error (c, e)
    | .ok (s', fl) =>
      let fl := match fl with | .stay => .stay | .hold => .hold | fl => lead.getD fl
      ((s'.complete fl)).gangBodies body r (some (lead.getD fl))

/-- An instruction of the leader's stream, in every member (05 R177): no member performs it unless all can. A cause in one
traps every member, the others with 0xAB (R178). -/
def State.performGang (s : State) (body : State → Res) : State :=
  let c := s.cur.core
  let cs := s.gangOrder
  if cs.any (fun d => (s.memberCause body d).isSome) then
    (cs.foldl (fun q d =>
      let r := (s.memberCause body d).getD (0xAB, 0, 0)
      q.mark d 16 ⟨r.1, r.2.1, false, 0, r.2.2⟩) s).steppedTrap c
  else if cs.any (fun d => (s.memberWait body d).isSome) then
    cs.foldl (fun q d => match s.memberWait body d with | some w => ((q.atCore d).waitFor w).atCore c | none => q) s
  else match s.gangBodies body cs none with
    | .ok s' =>
      -- a step event in one member stops the others (13 R398)
      let s' := s'.atCore c
      (if cs.any (fun d => (s'.thrAt d 16).raised.isSome) then
        cs.foldl (fun q d => if (q.thrAt d 16).raised.isSome then q else q.mark d 16 ⟨0xAB, 0, false, 0, 0⟩) s'
      else s').steppedTrap c
    | .error (d, .wait w) => ((s.atCore d).waitFor w).atCore c
    | .error (d, .cause k i) =>
      (cs.foldl (fun q e => q.mark e 16 ⟨if e = d then k else 0xAB, if e = d then i else 0, false, 0, 0⟩) s).steppedTrap c
    | .error (d, .overrun o) =>
      (cs.foldl (fun q e => q.mark e 16 ⟨if e = d then 0xA0 else 0xAB, 0, false, 0, if e = d then o + 1 else 0⟩) s).steppedTrap c
    | .error (d, .ends k i) => ((s.atCore d).endHere k i).atCore c

/-- An instruction of the acting thread. In a gang the leader's control thread acts for every member, and a follower's does
nothing of its own. -/
def State.perform (s : State) (body : State → Res) : State :=
  if s.isCt && s.inStream s.cur.core then
    if s.follows then s else s.performGang body
  else s.finish (s.tryBody body)

/-- The answer of an instruction. -/
abbrev Ans := Host.Outcome State Fault Refusal

/-- An instruction: its checks, then its effect. -/
def State.instr (s : State) (p : Pfx) (r : State → Rules) (body : State → Res) : Ans :=
  .next (s.perform (fun s => match s.gate p (r s) with
    | .error e => .error e
    | .ok _ => body s))

/-- An effect that goes on to the next instruction. -/
def next (s : State) : Res := .ok (s, .next)

/-! ## Block headers (02 R55, R56, R62) -/

/-- The park fields of a header are as R54 asks: leading, strictly rising, within LEN. -/
def parksOk (h : BitVec 32) : Bool :=
  let k := hdrPark h
  (k 1 != 0 || (k 2 == 0)) && (k 2 != 0 || k 3 == 0) && (k 3 != 0 || k 4 == 0) &&
  (k 2 == 0 || decide (k 1 < k 2)) && (k 3 == 0 || decide (k 2 < k 3)) && (k 4 == 0 || decide (k 3 < k 4)) &&
  (List.range 4).all (fun i => decide (k (i + 1) ≤ hdrLen h))

/-- LEN and KIND 3 (02 R56). -/
def hdrLenCause (h : BitVec 32) : Option Cause :=
  if hdrLen h = 0 || hdrLen h = 63 then some 0x0A else if hdrKind h = 3 then some 0x0B else none

/-- The block is the handler that the CT enters (06 R217): it must be of kind 2. -/
def State.isHandler (s : State) (c : Nat) (a : Word) : Bool :=
  let tr := (s.arch c).trap
  let vec : Word := if isSteward c then BitVec.ofNat 64 (fld (s.dieReg (dieOf c) 0x0C8) 51 3 * 8) else tr.vec
  tr.stat.getLsbD 0 && a == vec

/-- The kind does not admit the thread (02 R55; 07 R246: the steward's first block is of kind 2). -/
def State.kindBad (s : State) (c t : Nat) (a : Word) (h : BitVec 32) : Bool :=
  if t = 16 then (s.isHandler c a || (s.arch c).ct.boot) && hdrKind h != 2
  else match (s.mtAt c t).mode with
    | .broadcast => hdrKind h != 0
    | _ => hdrKind h == 2

/-- The checks of a header on entry, in order (02 R56). -/
def State.hdrCause (s : State) (c t : Nat) (a : Word) (h : BitVec 32) : Option Cause :=
  match hdrLenCause h with
  | some k => some k
  | none => if s.kindBad c t a h then some 0x0D else if parksOk h then none else some 0x0C

/-- Fetches `n` bytes of code (03 R78, R86). The fetch enters no signature (DEDUCED: 13, the shacc run, where a chunk that
only fetches touches no memory). -/
def State.fetchN (s : State) (c va n al : Nat) : Except Stop Nat :=
  match s.place c va n al 3 with
  | .error e => .error e
  | .ok (.mem pa _) => .ok (ofBytes (if isSteward c then s.mem.readN pa n else s.seeN c pa n))
  | .ok (.peer _) => .error (accessFault 3 2 va)

/-- The threads that a control decision of a thread governs: those of the gang, for its leader's CT. -/
def State.governed (s : State) (c t : Nat) : List Nat := if t = 16 && s.inStream c then s.gangCores c else [c]

/-- Changes the position of the governed threads. -/
def State.place' (s : State) (c t : Nat) (f : Thr → Thr) : State :=
  (s.governed c t).foldl (fun s d => s.upThrAt d t f) s

/-- A header check or a fetch failed on the way into a block: the cause is recorded at body offset 0 of the block (02 R56;
03 R86). -/
def State.failEntry (s : State) (c t : Nat) (a : Word) (k : Cause) (info : Word) : State :=
  ((s.governed c t).foldl (fun q d => q.mark d t ⟨if d = c then k else 0xAB, if d = c then info else 0, true, a, 0⟩) s).steppedTrap c

/-- Fetches and checks the header at `a` for a thread that enters a block. -/
def State.withHeader (s : State) (c t : Nat) (a : Word) (f : BitVec 32 → State) : State :=
  match s.fetchN c a.toNat 4 8 with
  | .error (.wait w) => s.waitFor w
  | .error (.cause k i) => s.failEntry c t a k i
  | .error (.overrun _) => s.failEntry c t a 0xA0 0
  | .error (.ends k i) => s.endHere k i
  | .ok v =>
    let h := BitVec.ofNat 32 v
    match s.hdrCause c t a h with
    | some k => s.failEntry c t a k 0
    | none => f h

/-- A thread in the block at `a`, before its first instruction. -/
def Thr.begin (th : Thr) (a : Word) (h : BitVec 32) : Thr :=
  { th with blk := a, hdr := h, off := 1, park := 0, hz := 0, phase := .body, stall := none, t0 := none, blockDone := false, boot := false }

/-- A debug event that waits until a thread goes on falls before its next instruction (13 R398, R399; log 108); one in a member of a
gang stops the others (05 R178). -/
def State.entryEvent (s : State) (c t : Nat) : State :=
  let cs := s.governed c t
  if cs.all (fun d => (s.thrAt d t).atEntry.isNone) then s
  else (cs.foldl (fun q d => (q.upThrAt d t (fun th => { th with atEntry := none })).mark d t
    ⟨((s.thrAt d t).atEntry).getD 0xAB, 0, false, 0, 0⟩) s).steppedTrap c

/-- A thread enters the block at `a` (02 R53–R57, R59). -/
def State.enterBlock (s : State) (c t : Nat) (a : Word) : State :=
  s.withHeader c t a (fun h => (s.place' c t (·.begin a h)).entryEvent c t)

/-- The destination that an instruction adds to the hazard set (02 R58, R59), if it is far-class; a sub-operation that is not
defined is no instruction (R62). -/
def farDest : Instr → Option Nat
  | .ldSigned _ f | .ldUnsigned _ f | .spldSigned _ f | .spldUnsigned _ f => some f.d.toNat
  | .amo _ f | .cas _ f => if 1 < f.z.toNat then none else some f.d.toNat
  | .famo _ f => if 2 < f.z.toNat then none else some f.d.toNat
  | .qpop _ f | .lrecv _ f => some f.d.toNat
  | .epop _ f | .wmrd _ f | .qrd _ f => some f.d.toNat
  | .ldsh _ f _ _ => some f.d.toNat
  | .feld _ f m => if m = 3 then none else some f.d.toNat
  | .cread _ f o => if o = 3 then none else some f.d.toNat
  | .mtstat _ f o => if 5 < o.toNat then none else some f.d.toNat
  | _ => none

/-- The park points of a header as a test on the halfwords of an instruction that begins at `off`. -/
def parkAt (h : BitVec 32) (off k : Nat) : Bool :=
  (List.range 4).any (fun i => hdrPark h (i + 1) != 0 && hdrPark h (i + 1) + 1 == off + k)

/-- H rebuilt from halfword `h0` to before `off` (02 R62): instruction by instruction, decoding only. -/
def State.rebuildH (s : State) (c : Nat) (blk : Word) (h : BitVec 32) (off : Nat) : Nat → Nat → BitVec 16
  | 0, _ => 0
  | n + 1, h0 =>
    if off ≤ h0 then 0
    else
      let d := decode (s.peekBody c blk h h0) (parkAt h h0)
      let rest := s.rebuildH c blk h off n (h0 + max 1 d.2)
      match farDest d.1 with
      | some r => if r = 0 then rest else rest ||| (1#16 <<< r)
      | none => rest

/-- The record does not fit the block (02 R62). -/
def resumeBad (h : BitVec 32) (off park : Nat) : Bool :=
  decide (hdrLen h < off) ||
  (off != 0 && (decide (hdrParks h < park) || (park != 0 && decide (off ≤ hdrPark h park))))

/-- What a look at the body halfwords up to number `n` of the block at `a` has to wait for: the translation of a page of them (02 R62:
decoding alone raises no cause). -/
def State.bodyWait (s : State) (c : Nat) (a : Word) (h : BitVec 32) (n : Nat) : Option Wait :=
  match s.fetchN c (a.toNat + 4 + 2 * (min n (hdrLen h) - 1)) 2 2 with
  | .error (.wait w) => some w
  | _ => none

/-- A thread resumes from a record (02 R62), after the instruction when `skip` (03 R112). A park point that stands directly before
`off` and had not been passed, as for a thread that was halted there, is passed first (R59). -/
def State.resumeBlock (s : State) (c t : Nat) (a : Word) (off park : Nat) (skip : Bool) : State :=
  s.withHeader c t a (fun h =>
    if let some w := s.bodyWait c a h (if skip then hdrLen h else off - 1) then s.waitFor w
    else if resumeBad h off park then
      let s := s.upThrAt c t (fun th => { th with blk := a, off := off, park := park })
      ((s.governed c t).foldl (fun q d => q.mark d t ⟨if d = c then 0x11 else 0xAB, 0, false, 0, 0⟩) s).steppedTrap c
    else if off = 0 then s.place' c t (·.begin a h)
    else
      let hz := s.rebuildH c a h off 64 (if park = 0 then 1 else hdrPark h park + 1)
      let n := if skip then (decode (s.peekBody c a h off) (parkAt h off)).2 else 0
      let s := s.place' c t (fun th => { th.begin a h with off := off, park := park, hz := hz })
      let s := (s.governed c t).foldl (fun s d => s.settle d t) s
      if skip then
        (s.governed c t).foldl (fun s d =>
          let b := t != 16 && (s.mtAt d t).mode == .broadcast
          ((s.upThrAt d t (fun th => th.advance b (max 1 n))).settle d t).upThrAt d t (fun th => { th with blockDone := false })) s
      else s.entryEvent c t)

/-! ## Fetching an instruction (02 R45, R51, R57) -/

/-- The words of the chain that begins at body halfword `off`: to the base word, the end of the body, or five words. -/
def State.fetchChain (s : State) (c : Nat) (blk : Word) (h : BitVec 32) : Nat → Nat → Except Stop (List Half)
  | 0, _ => .ok []
  | n + 1, off =>
    if hdrLen h < off then .ok []
    else match s.fetchN c (blk.toNat + 4 + 2 * (off - 1)) 2 2 with
      | .error e => .error e
      | .ok v =>
        let w := BitVec.ofNat 16 v
        if isPfx w then
          match s.fetchChain c blk h n (off + 1) with
          | .error e => .error e
          | .ok r => .ok (w :: r)
        else .ok [w]

/-- The next instruction of the acting thread, in a block body, and its length. -/
def State.fetch (s : State) : Except Stop (Instr × Nat) :=
  let t := s.thr
  match s.fetchChain s.cur.core t.blk t.hdr 5 t.off with
  | .error e => .error e
  | .ok ws => .ok (decode ws (parkAt t.hdr t.off))

/-! ## Turns -/

/-- A wait whose instruction is simply tried again; the others end by an event of their own. -/
def Wait.retries : Wait → Bool
  | .residency _ | .pendingLine _ | .gang | .counter .. | .offPackage | .grant _ | .digest _ | .results => true
  | .shards _ devs => devs == none || devs == some []
  | .barrier _ _ woken => woken
  | .translate .. | .admission .. | .inputRoom .. | .join .. | .returnRoom _ | .linkRoom .. | .lateral .. |
    .phaseEnd _ | .tlbi | .peer .. | .fullEmpty _ | .pageFault => false

/-- A thread may not begin a block now: a cut is due in its core or its gang (06 R187), or its stepped block is done
(R214). -/
def State.holdsBlock (s : State) (c t : Nat) : Bool :=
  (s.gangCores c).any s.cutDue ||
  (s.governed c t).any (fun d => (s.cx d).chunk.stepped && (s.thrAt d t).blockDone)

/-- The context runs, and every thread of the core stands at a block boundary (06 R187). -/
def State.atBoundaries (s : State) (c : Nat) : Bool :=
  let x := s.cx c
  !isSteward c && (s.core c).isRunning && x.fin.isNone && !x.taking &&
  (threadsOf c).all (fun t => (s.thrAt c t).raised.isNone && (s.thrAt c t).atBoundary)

/-- Nothing but a due cut is missing: fewer than two cut chunks wait as well (06 R187, R189). -/
def State.atCutPoint (s : State) (c : Nat) : Bool := decide ((s.cx c).pend.length < 2) && s.atBoundaries c

/-- In stepped mode: the chunk has done something, and every thread has ended its block or stands at a boundary (06 R214). -/
def State.steppedCut (s : State) (c : Nat) : Bool :=
  let k := (s.cx c).chunk
  k.stepped && decide (0 < k.retired) && s.steppedAll c

/-- A cut of the core and its gang is due and every thread stands at a boundary: the cut falls before any of them goes on (06
R187, R189). -/
def State.cutStands (s : State) (c : Nat) : Bool :=
  let cs := s.gangCores c
  cs.any (fun d => s.cutDue d || s.steppedCut d) && cs.all s.atBoundaries

/-- The executing chunk has to ask for a reservation before it runs (06 R206). -/
def State.asksFirst (s : State) (c : Nat) : Bool :=
  (s.cx c).chunk.wantsRsv && s.rsvHolder != some c && !s.rsvQueue.contains c

/-- Nothing of its own keeps the thread from acting. -/
def Thr.canAct (t : Thr) : Bool :=
  t.raised.isNone && !t.hold && !t.parkWaits && (match t.stall with | some w => w.why.retries | none => true)

/-- A self-test of the core's registers, queues or vault lets it execute nothing (13 R384). -/
def State.testing (s : State) (c : Nat) : Bool := s.tests.any (fun t => t.core == c && (t.st == 0 || t.st == 2))

/-- The thread's context runs and nothing holds its threads. -/
def State.runs (s : State) (c : Nat) : Bool :=
  if s.testing c then false
  else if isSteward c then fld (s.dieReg (dieOf c) 0x0C0) 1 0 == 1
  else
    let x := s.cx c
    (s.core c).isRunning && x.fin.isNone && !x.taking && !x.asyncCut && x.parked.isNone && !s.asksFirst c && !s.cutStands c

/-- Two members of a gang stand at the same place of its stream; each resumes from its own record (05 R178). -/
def samePlace (a b : Phase) : Bool :=
  match a, b with
  | .resume .., .resume .. | .resume .., .entry _ | .entry _, .resume .. => true
  | a, b => a == b

/-- The thread may act (06 R187; 05 R177): in a gang, every member can issue. -/
def State.mayAct (s : State) (c t : Nat) : Bool :=
  if t = 16 then
    s.leaderOf c == c && (s.governed c 16).all (fun d => s.runs d && s.inStream d == s.inStream c &&
      (s.thrAt d 16).canAct && ((s.arch d).gangWait.isNone || (s.arch d).gangBad) && samePlace (s.thrAt d 16).phase (s.thrAt c 16).phase)
  else s.runs c && (s.thrAt c t).canAct

/-- The acting thread's turn: what it does without an instruction, or the instruction it executes. A turn of a thread that
cannot act changes nothing. -/
def State.turn (s : State) : State × Option Instr :=
  let c := s.cur.core
  let t := s.cur.thr
  if !s.mayAct c t then (s, none)
  else match s.thr.phase with
    | .entry a => if s.holdsBlock c t then (s, none) else (s.enterBlock c t a, none)
    | .resume a off park skip => if s.holdsBlock c t then (s, none) else (s.resumeBlock c t a off park skip, none)
    | .body =>
      match s.fetch with
      | .ok (i, n) => ({ s with cur := { s.cur with len := n } }, some i)
      | .error e => (s.perform (fun q => if q.cur.core = c then .error e else next q), none)
    | .idle => if t = 16 then (s, none) else (s, some .mtBeginEntry)
    | _ => (s, none)

end Sys2Proof.Machine
end

