-- ==== Sys2Proof/Machine/Boot.lean ====
section
/-! DEFINITION. How one instruction is placed where the next step runs it, in the state after reset (log 30): a context
on core 0 with one code page, and a turn for the thread that may execute the instruction. -/
namespace Sys2Proof.Machine

/-- The halfwords of a number, the first in the lowest bits. -/
def halves : Nat → Nat → List Half
  | 0, _ => []
  | n + 1, w => BitVec.ofNat 16 w :: halves n (w / 65536)

/-- The instruction is one of an MT's: page 1, queues and links (03 R104; 04 R116). -/
def mtInstr : Instr → Bool
  | .qpop .. | .qpush .. | .lsend .. | .lrecv .. => true
  | .vadd .. | .vsub .. | .vmul .. | .vfma .. | .vfms .. | .vmax .. | .vmin .. | .vand .. | .vor .. | .vxor .. => true
  | .vshl .. | .vshr .. | .vmac .. | .vcmp .. | .vsel .. | .vredsum .. | .vredmax .. | .vredmin .. | .vdot .. => true
  | .vexp2 .. | .vlog2 .. | .vrcp .. | .vrsqrt .. | .vsqrt .. | .vtanh .. | .vsig .. | .vsin .. | .vcos .. => true
  | .vcvt .. | .vqmx .. | .vdqmx .. | .vqbx .. | .vdqbx .. | .vtag .. | .vgtag .. | .vmov .. | .vbcast .. => true
  | .vperm .. | .vshuf .. | .vext .. | .vins .. | .vld .. | .vst .. | .aaddX .. | .aaddA .. | .ali .. => true
  | .amovAx .. | .amovXa .. | .amovMx .. | .amovXm .. => true
  | _ => false

/-- The address of the block that the placed instruction stands in. -/
def bootBlk : Nat := 0x10000

/-- A translation of the block's frame onto itself, with R, W, X, A and D (10 R315). -/
def bootXlat : Xlat := ⟨false, 0, 1, 1, 0x19D⟩

/-- A header: LEN and KIND. -/
def bootHdr (n kind : Nat) : BitVec 32 := BitVec.ofNat 32 (n * 2 ^ 26 + kind * 2 ^ 24)

/-- The context that executes the instruction: the CT in a kind 2 block, or MT 0 detached in a kind 1 block. -/
def bootCtx (mt : Bool) (n : Nat) : Ctx :=
  let t : Thr := { phase := .body, blk := BitVec.ofNat 64 bootBlk, hdr := bootHdr n (if mt then 1 else 2), off := 1 }
  let a : Arch := if mt then { mts := [(0, { thr := t, mode := .detached })] } else { ct := t }
  { launch := some 0, win := 1, arch := a, chunk := { ckpt := a } }

/-- The state in which the next step executes the instruction whose bits are `w`. -/
def State.placeWord (s : State) (nbits w : Nat) : State :=
  let n := nbits / 16
  let ws := halves n w
  let mt := mtInstr (decode ws (fun _ => false)).1
  let s := { s with
    mem := s.mem.writeN bootBlk (toBytes 4 (bootHdr n (if mt then 1 else 2)).toNat ++ toBytes (2 * n) w)
    tlb := bootXlat :: s.tlb
    agenda := ⟨{ core := 0, thr := if mt then 0 else 16 }, none⟩ :: s.agenda }
  s.upCore 0 (fun k => { k with slot0 := { st := .running, ctx := bootCtx mt n } })

end Sys2Proof.Machine
end

