-- ==== Sys2Proof/Machine/Queues.lean ====
section
/-! DEFINITION. Queues and links of an MT (03 R101–R104) and the arrival of far results (01 R11). -/
namespace Sys2Proof.Machine

/-- A far result from the same source is already waited for. -/
def Thr.awaits (t : Thr) (src : FarSrc) : Bool := t.far.any (fun e => e.src == src)

/-- Words of the thread's far results that will be taken from a source: a word that has come for one of them has left its queue (03
R101, R103; 05 R173). -/
def Thr.owed (t : Thr) (src : FarSrc) : Nat := (t.far.filter (fun e => e.src == src)).length

/-- Words in input queue `n`. -/
def Mt.inWords (m : Mt) (n : Nat) : Nat := (m.getQ n).length - m.thr.owed (.inputQueue n)

/-- Words in the return queue of MT `i`. -/
def State.rqWords (s : State) (c i : Nat) : Nat := (s.mtAt c i).rq.length - (s.arch c).ct.owed (.returnQueue i)

/-- `qpop` (03 R101): the head word is taken at issue, or when one comes, in program order. -/
def execQpop (p : Pfx) (f : FA) (s : State) : Ans :=
  s.instr p (fun _ => { who := .mt, bad := decide (3 < f.s.toNat), named := [f.d.toNat] }) (fun s =>
    let n := f.s.toNat
    match s.mt.getQ n with
    | w :: r =>
      if s.thr.awaits (.inputQueue n) then next (s.upThr (·.issueFar f.d.toNat (.inputQueue n)))
      else next ((s.setMt (s.mt.setQ n r)).upThr (·.issueFar f.d.toNat (.value w)))
    | [] => next (s.upThr (·.issueFar f.d.toNat (.inputQueue n))))

/-- `qpush` (03 R102). -/
def execQpush (p : Pfx) (f : FA) (s : State) : Ans :=
  s.instr p (fun _ => { who := .mt, bad := f.d != 0, named := [f.s.toNat] }) (fun s =>
    let w := s.x f.s.toNat
    if s.rqWords s.cur.core s.cur.thr < 16 then next (s.setMt { s.mt with rq := s.mt.rq ++ [w] })
    else .error (.wait (.returnRoom w)))

/-- Direction 0 is up, to MT i + 1; 1 is down, to MT i − 1 (03 R103). -/
def linkTarget (i dir : Nat) : Nat := if dir = 0 then (i + 1) % 16 else (i + 15) % 16

/-- The inbound port of MT `i` on the side of its neighbour `j`. -/
def Mt.port (m : Mt) (i j : Nat) : Option Word := if j = (i + 15) % 16 then m.linkUp else m.linkDown
/-- Sets that port. -/
def Mt.setPort (m : Mt) (i j : Nat) (w : Option Word) : Mt :=
  if j = (i + 15) % 16 then { m with linkUp := w } else { m with linkDown := w }

/-- `lsend` (03 R103). -/
def execLsend (p : Pfx) (f : FA) (s : State) : Ans :=
  s.instr p (fun _ => { who := .mt, bad := decide (1 < f.d.toNat), named := [f.s.toNat] }) (fun s =>
    let i := s.cur.thr
    let j := linkTarget i f.d.toNat
    let w := s.x f.s.toNat
    match (s.mtAt s.cur.core j).port j i with
    | some _ => .error (.wait (.linkRoom j w))
    | none => next (s.upMtAt s.cur.core j (·.setPort j i (some w))))

/-- `lrecv` (03 R103): up takes the word from MT i + 1, down that from MT i − 1. -/
def execLrecv (p : Pfx) (f : FA) (s : State) : Ans :=
  s.instr p (fun _ => { who := .mt, bad := decide (1 < f.s.toNat), named := [f.d.toNat] }) (fun s =>
    let i := s.cur.thr
    let j := linkTarget i f.s.toNat
    let src : FarSrc := .link (if j = (i + 15) % 16 then 0 else 1)
    match s.mt.port i j with
    | some w =>
      if s.thr.awaits src then next (s.upThr (·.issueFar f.d.toNat src))
      else next ((s.setMt (s.mt.setPort i j none)).upThr (·.issueFar f.d.toNat (.value w)))
    | none => next (s.upThr (·.issueFar f.d.toNat src)))

/-! ## Arrival of far results -/

/-- The word that a source holds now for a thread of core `c`, with the state after it is taken. -/
def State.takeFar (s : State) (c t : Nat) (src : FarSrc) : Option (State × Word) :=
  match src with
  | .value w => some (s, w)
  | .released _ => none
  | .inputQueue n =>
    match (s.mtAt c t).getQ n with
    | w :: r => some (s.upMtAt c t (·.setQ n r), w)
    | [] => none
  | .link port =>
    let j := if port = 0 then (t + 15) % 16 else (t + 1) % 16
    match (s.mtAt c t).port t j with
    | some w => some (s.upMtAt c t (·.setPort t j none), w)
    | none => none
  | .returnQueue mt =>
    match (s.mtAt c mt).rq with
    | w :: r => some (s.upMtAt c mt (fun m => { m with rq := r }), w)
    | [] => none
  | .fifo e n =>
    -- the waiting pops of a FIFO take its elements in the order in which they issued
    let first := (threadsOf c).all (fun q => (s.thrAt c q).far.all (fun f => match f.src with | .fifo e' m => e' != e || decide (n ≤ m) | _ => true))
    match (s.cx c).fifos.get e [] with
    | w :: r => if !first then none else some (s.upCx c (fun x => { x with
        fifos := x.fifos.set e r []
        fifoOut := x.fifoOut.put e (x.fifoOut.get e 0 - 1)
        chunk := { x.chunk with popped := x.chunk.popped ++ [(e, w)] } }), w)
    | [] => none

/-- The first far result of a list that can arrive, with those before it from other sources passed over: results of one
source arrive in program order. -/
def State.firstFar (s : State) (c t : Nat) (reg : Nat) : List Far → List FarSrc → Option (State × Word × Far)
  | [], _ => none
  | e :: r, seen =>
    if e.reg = reg && !(e.src.takes && seen.contains e.src) then
      match s.takeFar c t e.src with
      | some (s, w) => some (s, w, e)
      | none => s.firstFar c t reg r (e.src :: seen)
    else s.firstFar c t reg r (e.src :: seen)

/-- Removes the first entry equal to `e`. -/
def dropFar (e : Far) : List Far → List Far
  | [] => []
  | x :: r => if x = e then r else x :: dropFar e r

/-- A far result for register `reg` of a thread arrives: it is written, its far-pending bit clears, and a wait that is over
passes (01 R10, R11). -/
def State.arriveFar (s : State) (c t reg : Nat) : State :=
  match s.firstFar c t reg (s.thrAt c t).far [] with
  | none => s
  | some (s, w, e) =>
    (s.upThrAt c t (fun th => { th.setX reg w with far := dropFar e th.far })).settle c t

/-- FAR_RESULT_ARRIVE: the result of register `unit` of the acting thread (01 R11). A thread that waits for a peer device's
answer takes it instead: the value is `arg` (14 R415). -/
def execFarResultArrive (s : State) : Ans :=
  match s.thr.stall with
  | some ⟨.peer r _, _, _⟩ =>
    .next (s.upThr (fun t => { t with answers := (r, s.cur.arg % 256 ^ r.n) :: t.answers, stall := none }))
  | _ => .next (s.arriveFar s.cur.core s.cur.thr s.cur.unit)

/-- QUEUE_STALL_RELEASE: a stalled `qpush` or `lsend` finds room (03 R102, R103). -/
def execQueueStallRelease (s : State) : Ans :=
  let c := s.cur.core
  let i := s.cur.thr
  match s.thr.stall with
  | some ⟨.returnRoom w, len, _⟩ =>
    let s := { s with cur := { s.cur with len := len } }
    if s.rqWords c i < 16 && s.runs c then
      .next (((s.setMt { s.mt with rq := s.mt.rq ++ [w] }).complete .next).steppedTrap c)
    else .next s
  | some ⟨.linkRoom j w, len, _⟩ =>
    let s := { s with cur := { s.cur with len := len } }
    if ((s.mtAt c j).port j i).isNone && s.runs c then
      .next (((s.upMtAt c j (·.setPort j i (some w))).complete .next).steppedTrap c)
    else .next s
  | _ => .next s

end Sys2Proof.Machine
end

