-- ==== Sys2Proof/Machine/Copy.lean ====
section
/-! DEFINITION. Copy commands, templates, counters, watermarks and gather commands as threads see them (07 R229–R257). -/
namespace Sys2Proof.Machine

/-! ## Domains of a core (09 R296, R297) -/

/-- The core belongs to a domain of level 1, 2 or 3. -/
def Ctx.inDom (x : Ctx) (lvl : Nat) : Bool := x.domId.getLsbD (20 * (lvl - 1) + 16)
/-- The domain's id. -/
def Ctx.domNo (x : Ctx) (lvl : Nat) : Nat := fld x.domId (20 * (lvl - 1) + 15) (20 * (lvl - 1))
/-- The domain's current phase. -/
def Ctx.domPh (x : Ctx) (lvl : Nat) : Nat := fld x.domPhase (8 * (lvl - 1) + 3) (8 * (lvl - 1))
/-- The core has arrived in that phase. -/
def Ctx.domArr (x : Ctx) (lvl : Nat) : Bool := x.domPhase.getLsbD (8 * (lvl - 1) + 4)

/-! ## Held commands (07 R231) -/

/-- Holds a command in the executing chunk of the acting core and requests a cut. -/
def State.hold (s : State) (q : Cmd) : State :=
  (s.upCx s.cur.core (fun x => { x with chunk := { x.chunk with held := x.chunk.held ++ [q] } })).requestCut s.cur.core

/-- The commands that the chunks in flight hold. -/
def Ctx.inFlight (x : Ctx) : List Cmd := x.pend.flatMap (·.held) ++ x.chunk.held

/-- Entries of the command buffer in use: the commands of the chunks in flight, bundles that wait to be sent, and released network
requests that the engine has not taken (07 R231; 14 R413; 15 R441). -/
def State.cmdsUsed (s : State) (c : Nat) : Nat :=
  (s.cx c).inFlight.length + ((s.core c).bundles.filter (fun b => b.sent.isNone)).length +
    (s.netMsgs.filter (fun m => m.core == c && !m.taken)).length

/-- Room for one more command of the acting core: the buffer holds 256, and further ones go to the chunk extension area (07 R231; 06
R192). -/
def State.room (s : State) : Except Stop State :=
  if s.cmdsUsed s.cur.core < 256 then .ok s else s.useExt s.cur.core

/-- Holds a command where there is room, and goes on. -/
def State.holdCmd (s : State) (q : Cmd) : Res :=
  match s.room with
  | .error e => .error e
  | .ok s => next (s.hold q)

/-- An engine command in the sense of 07 R231 and R252: not one of the commit-released instructions of 03 R77. -/
def Cmd.engine : Cmd → Bool
  | .copy _ | .gather _ | .cset .. | .matrix _ | .net .. => true
  | .atomic _ | .tlbi .. | .dmem .. | .split | .fe .. => false

/-! ## The copy command (07 R229, R230) -/

/-- A template names a BX format (13 R395). -/
def tplBx (t : BitVec 512) : Bool := tagIsBx (tSfmt t) || tagIsBx (tDfmt t)

/-- A copy needs a feature that is not enabled: BX formats, or the CXL tier or peer access of a side in memory (13 R395). -/
def State.copyLacks (s : State) (q : CopyCmd) : Bool :=
  (tplBx q.t && !s.feature 1) || (tSkind q.t == 0 && s.regionOff q.src) || (tDkind q.t == 0 && s.regionOff q.dst)

/-- A base after ARG is added (07 R236). -/
def addArg (base : Nat) (kind : Nat) (arg : Int) : Nat :=
  if kind = 0 then lowBits ((base : Int) + arg) 56
  else base / 2 ^ 29 * 2 ^ 29 + lowBits (((base % 2 ^ 29 : Nat) : Int) + arg) 29

/-- The command that a store of `v` to channel `ch` forms. -/
def copyCmd (x : Ctx) (sup : Bool) (ch : Nat) (t : BitVec 512) (v : Word) : CopyCmd :=
  let arg := sextI (fld v 63 16) 48
  { launch := x.launch.getD 0, asid := x.asid, sup := sup, ch := ch, tpl := fld v 5 0, t := t
    src := addArg (rf t 0 55 0) (tSkind t) (if (tArg t) % 2 = 1 then arg else 0)
    dst := addArg (rf t 8 55 0) (tDkind t) (if 2 ≤ tArg t then arg else 0)
    scale := fld x.arch.scaleBase 20 6 * 64 }

/-- A base is outside the VA space, a scratchpad extent leaves its slot's window, or a multicast base names a core (07 R230, R233,
R241). -/
def copyBaseBad (q : CopyCmd) (win : Nat) : Bool :=
  let sp := srcSpan q.t
  (if tSkind q.t = 0 then bits q.src 55 54 == 3
   else decide (((q.src % 2 ^ 21 : Nat) : Int) + sp.1 < 0) ||
     decide (((win * 65536 : Nat) : Int) < ((q.src % 2 ^ 21 : Nat) : Int) + sp.2)) ||
  (if tDkind q.t = 0 then bits q.dst 55 54 == 3
   else decide (win * 65536 < q.dst % 2 ^ 21 + dstSpan q.t)) ||
  (tDkind q.t == 2 && bits q.dst 28 21 != 0)

/-- A scratchpad slot or a multicast target holds no window of the launch (07 R230). -/
def State.copyTargetBad (s : State) (q : CopyCmd) : Bool :=
  (tSkind q.t != 0 && (s.window (srcCore q) q.launch).isNone) ||
  (tDkind q.t != 0 && (dstCores q).any (fun d => (s.window d q.launch).isNone))

/-- The phase binding does not hold (07 R230, R242). -/
def Ctx.copyPhaseBad (x : Ctx) (t : BitVec 512) : Bool :=
  tPlvl t != 0 && (!x.inDom (tPlvl t) || x.domPh (tPlvl t) != tPhase t)

/-- Increments of a counter that held copies and work requests will make (07 R238; 15 R440). -/
def Ctx.heldIncs (x : Ctx) (n : Nat) : Nat :=
  (x.inFlight.map (fun c => match c with
    | .copy q => b2n (tCtr q.t == n)
    | .net w _ _ => if wrCtr w = n then wrIncs w else 0
    | _ => 0)).sum

/-- The checks of 07 R230 after those of R78; the cause of the first that fails. -/
def State.copyCause (s : State) (c va lg : Nat) (v : Word) : Option Cause :=
  let x := s.cx c
  let t := x.arch.templates.get (fld v 5 0) 0
  let q := copyCmd x (s.isSup c) (bits va 11 6) t v
  if lg ≠ 3 || bits va 5 0 ≠ 0 then some 0x52
  else if !tValid t || fld v 15 6 ≠ 0 || copyBaseBad q x.win then some 0x80
  else if s.copyTargetBad q then some 0x85
  else if x.copyPhaseBad t then some 0x86
  else if 0xFFFF < x.ctr.get (tCtr t) 0 + x.heldIncs (tCtr t) + 1 then some 0x83
  else none

/-- A store to the aperture (07 R228–R231). -/
def State.apertureStore (s : State) (va lg : Nat) (v : Word) : Res :=
  let c := s.cur.core
  let x := s.cx c
  let t := x.arch.templates.get (fld v 5 0) 0
  let q := copyCmd x (s.isSup c) (bits va 11 6) t v
  if s.copyLacks q then .error (.cause 0x1F 0)
  else if va % 2 ^ lg ≠ 0 then .error (accessFault 1 0 va)
  else match s.copyCause c va lg v with
    | some k => .error (.cause k (BitVec.ofNat 64 va))
    | none => s.holdCmd (.copy q)

/-! ## Templates, counters, watermarks (07 R251–R255) -/

/-- `ctpl` (07 R251). -/
def execCtpl (p : Pfx) (f : FAZ) (o : BitVec 1) (s : State) : Ans :=
  s.instr p (fun _ => ctOnly { bad := f.z != 0, named := [f.d.toNat, f.s.toNat] }) (fun s =>
    let c := s.cur.core
    let a := s.x f.s.toNat
    let r := if o = 0 then s.loadAt c a.toNat 64 64 0
      else match s.spot c (a.toNat % 2 ^ 32) 64 64 0 with
        | .error e => .error e
        | .ok q => s.spRead c q 64
    match r with
    | .error e => .error e
    | .ok (s, bs) =>
      let t := BitVec.ofNat 512 (ofBytes bs)
      let put := next (s.upArch c (fun q => { q with templates := q.templates.put (fld (s.x f.d.toNat) 5 0) t }))
      if !tValid t then put
      else if tplBx t && !s.feature 1 then .error (.cause 0x1F 0)
      else match tplCheck t with
        | some k => .error (.cause k a)
        | none => put)

/-- `cwait` (07 R252). -/
def execCwait (p : Pfx) (f : FI) (s : State) : Ans :=
  let t := uimm p 6 f.i.toNat
  s.instr p (fun _ => ctOrMt { imm := true, range := t == 0 || decide (65536 < t) }) (fun s =>
    let x := s.cx s.cur.core
    if x.inFlight.any Cmd.engine || t ≤ x.ctr.get f.d.toNat 0 then .error (.wait (.counter f.d.toNat t)) else next s)

/-- The source of a far result is FIFO `e`. -/
def FarSrc.ofFifo (e : Nat) : FarSrc → Bool
  | .fifo e' _ => e' == e
  | _ => false

/-- Pops of FIFO `e` that wait for an element. -/
def Arch.fifoOwed (a : Arch) (e : Nat) : Nat :=
  ((a.ct.far ++ a.mts.flatMap (fun m => m.2.thr.far)).filter (fun q => q.src.ofFifo e)).length
/-- The same in the running context of a core. -/
def State.fifoOwed (s : State) (c e : Nat) : Nat := (s.arch c).fifoOwed e

/-- Elements of FIFO `e` announced by commands in flight and held, less those popped (07 R249). -/
def State.outstanding (s : State) (c e : Nat) : Nat :=
  let x := s.cx c
  let held := (x.inFlight.map (fun q => match q with
    | .gather g => if fld g.ctl 53 52 = e then fld g.ctl 40 29 + 1 else 0
    | _ => 0)).sum
  x.fifoOut.get e 0 + held - s.fifoOwed c e

/-- Elements present in FIFO `e` of the running context: one that has come for a waiting pop has left it. -/
def State.fifoWords (s : State) (c e : Nat) : Nat := ((s.cx c).fifos.get e []).length - s.fifoOwed c e

/-- `cread` (07 R253). -/
def execCread (p : Pfx) (f : FAZ) (o : BitVec 2) (s : State) : Ans :=
  s.instr p (fun _ => ctOrMt { undef := o == 3, bad := f.z != 0, named := [f.d.toNat, f.s.toNat] }) (fun s =>
    let c := s.cur.core
    let v := s.x f.s.toNat
    let ch := (s.core c).chans.get (fld v 5 0) {}
    let st := match ch.st with | .idle => 0 | .active => 1 | .repair => 2 | .failed => 3
    let r := match o.toNat with
      | 0 => (s.cx c).ctr.get (fld v 3 0) 0
      | 1 => st + min 255 ch.waiting.length * 2 ^ 8 + ch.tpl * 2 ^ 16 + ch.lines % 2 ^ 32 * 2 ^ 32
      | _ => s.fifoWords c (fld v 1 0) + min 0xFFFF (s.outstanding c (fld v 1 0)) * 2 ^ 16
    next (s.upThr (·.issueFar f.d.toNat (.value (BitVec.ofNat 64 r)))))

/-- `cset` (07 R254). -/
def execCset (p : Pfx) (f : FAZ) (s : State) : Ans :=
  s.instr p (fun _ => ctOnly { bad := f.z != 0, named := [f.s.toNat] }) (fun s =>
    s.holdCmd (.cset f.d.toNat (fld (s.x f.s.toNat) 15 0)))

/-- `wmrd` (07 R255). -/
def execWmrd (p : Pfx) (f : FAZ) (s : State) : Ans :=
  s.instr p (fun _ => ctOrMt { bad := f.z != 0, named := [f.d.toNat, f.s.toNat] }) (fun s =>
    let ch := (s.core s.cur.core).chans.get (fld (s.x f.s.toNat) 5 0) {}
    next (s.upThr (·.issueFar f.d.toNat (.value (BitVec.ofNat 64 ch.w)))))

/-! ## Gather commands (07 R248, R256, R257) -/

/-- The checks of `epush`, in order, with the trap information. -/
def State.gatherCause (s : State) (c : Nat) (base ctl : Word) : Option (Cause × Word) :=
  let ib := 2 ^ (fld ctl 42 41 + 1)
  let ia := fld ctl 28 0
  let n := fld ctl 40 29 + 1
  let x := s.cx c
  let d := clusterOf c * 256 + bits ia 28 21
  if fld ctl 42 41 = 3 || fld ctl 63 58 ≠ 0 || fld base 63 56 ≠ 0 || fld base 55 54 = 3 || ia % ib ≠ 0 then some (0x88, base)
  else if (match s.window d (x.launch.getD 0) with
      | some (win, _) => !inWin win (ia % 2 ^ 21) (n * ib)
      | none => true) then some (0x8D, BitVec.ofNat 64 ia)
  else if 65535 < s.outstanding c (fld ctl 53 52) + n then some (0x8B, 0)
  else none

/-- `epush` (07 R256). -/
def execEpush (p : Pfx) (f : FAZ) (s : State) : Ans :=
  s.instr p (fun _ => ctOnly { reg := true, lack := !hasReg p, bad := f.d != 0 || f.z != 0 || regV p != 0
                               named := [f.s.toNat, regT p] }) (fun s =>
    let c := s.cur.core
    let base := s.x f.s.toNat
    let ctl := s.x (regT p)
    if base.toNat < 2 ^ 56 && s.regionOff base.toNat then .error (.cause 0x1F 0)
    else match s.gatherCause c base ctl with
    | some (k, i) => .error (.cause k i)
    | none => s.holdCmd (.gather { core := c, launch := s.launchNo c, asid := (s.cx c).asid, sup := s.isSup c, base := base.toNat, ctl := ctl }))

/-- `epop` (07 R257): pops that wait take elements in the order in which they issued. -/
def execEpop (p : Pfx) (f : FAZ) (s : State) : Ans :=
  s.instr p (fun _ => ctOrMt { bad := decide (3 < f.s.toNat) || f.z != 0, named := [f.d.toNat] }) (fun s =>
    let c := s.cur.core
    let e := f.s.toNat
    if s.outstanding c e = 0 then .error (.cause 0x8F 0)
    else
      let n := (s.cx c).nextId
      let late := next ((s.upCx c (fun x => { x with nextId := n + 1 })).upThr (·.issueFar f.d.toNat (.fifo e n)))
      if s.fifoOwed c e ≠ 0 then late
      else match s.takeFar c s.cur.thr (.fifo e n) with
        | some (s, w) => next (s.upThr (·.issueFar f.d.toNat (.value w)))
        | none => late)

end Sys2Proof.Machine
end

