-- ==== Sys2Proof/Machine/LoadStore.lean ====
section
/-! DEFINITION. Loads and stores of memory and scratchpad (03 R93–R95), fences (R100) and `cut` (R113). -/
namespace Sys2Proof.Machine

/-- A value of `n` bytes extended to a word. -/
def extend (signed : Bool) (n : Nat) (bs : List Byte) : Word :=
  if signed then sextW (ofBytes bs) (8 * n) else zextW (ofBytes bs) (8 * n)

/-- The checks of `ld` and `st`: `d`, the base and the index are named. -/
def ldRules (p : Pfx) (f : FAZ) : Rules :=
  { reg := true, imm := true, bad := regV p != 0
    named := f.d.toNat :: f.s.toNat :: (if hasReg p then [regT p] else []) }

/-- A load (03 R93). -/
def State.load (s : State) (p : Pfx) (f : FAZ) (signed : Bool) : Ans :=
  s.instr p (fun _ => ldRules p f) (fun s =>
    let n := 2 ^ f.z.toNat
    match s.memLoad (s.vaOf p f.s.toNat f.z.toNat).toNat n n with
    | .error e => .error e
    | .ok (s, bs) => next (s.upThr (·.issueFar f.d.toNat (.value (extend signed n bs)))))

/-- `ld` signed (03 R93). -/
def execLdSigned (p : Pfx) (f : FAZ) (s : State) : Ans := s.load p f true
/-- `ld` unsigned (03 R93). -/
def execLdUnsigned (p : Pfx) (f : FAZ) (s : State) : Ans := s.load p f false

/-- `st` (03 R93): to memory, or a copy command in the aperture (07 R228). -/
def execSt (p : Pfx) (f : FAZ) (s : State) : Ans :=
  s.instr p (fun _ => ldRules p f) (fun s =>
    let n := 2 ^ f.z.toNat
    let va := (s.vaOf p f.s.toNat f.z.toNat).toNat
    let v := s.x f.d.toNat
    if !s.atSteward && decide (va < 2 ^ 56) && bits va 55 54 != 3 && s.inAperture s.cur.core va then
      s.apertureStore va f.z.toNat v
    else match s.memStore va n (toBytes n v.toNat) with
      | .error e => .error e
      | .ok s => next s)

/-- The checks of `spld` and `spst` (03 R95): an MT's base is an address register. -/
def spRules (p : Pfx) (f : FAZ) (s : State) : Rules :=
  { reg := true, imm := true, bad := regV p != 0 || (!s.isCt && decide (7 < f.s.toNat))
    named := f.d.toNat :: (if s.isCt then [f.s.toNat] else []) ++ (if hasReg p then [regT p] else []) }

/-- The scratchpad place of an access. -/
def State.spSpot (s : State) (p : Pfx) (f : FAZ) (kind : Nat) : Except Stop Spot :=
  let n := 2 ^ f.z.toNat
  s.spot s.cur.core (s.spAddr p f.s.toNat (if hasReg p then ((s.x (regT p)).toNat <<< f.z.toNat) % 2 ^ 32 else 0)) n n kind

/-- A scratchpad load (03 R95). -/
def State.spLoad (s : State) (p : Pfx) (f : FAZ) (signed : Bool) : Ans :=
  s.instr p (spRules p f) (fun s =>
    let n := 2 ^ f.z.toNat
    match s.spSpot p f 0 with
    | .error e => .error e
    | .ok q =>
      match s.spRead s.cur.core q n with
      | .error e => .error e
      | .ok (s, bs) => next (s.upThr (·.issueFar f.d.toNat (.value (extend signed n bs)))))

/-- `spld` signed (03 R95). -/
def execSpldSigned (p : Pfx) (f : FAZ) (s : State) : Ans := s.spLoad p f true
/-- `spld` unsigned (03 R95). -/
def execSpldUnsigned (p : Pfx) (f : FAZ) (s : State) : Ans := s.spLoad p f false

/-- `spst` (03 R95). -/
def execSpst (p : Pfx) (f : FAZ) (s : State) : Ans :=
  s.instr p (spRules p f) (fun s =>
    match s.spSpot p f 1 with
    | .error e => .error e
    | .ok q =>
      match s.spWrite s.cur.core q (toBytes (2 ^ f.z.toNat) (s.x f.d.toNat).toNat) with
      | .error e => .error e
      | .ok s => next s)

/-! ## Fences and cuts -/

/-- Requests a cut; a steward executes no chunks (07 R245). -/
def State.cutHere (s : State) : State := if s.atSteward then s else s.requestCut s.cur.core

/-- `fence.pkg` (03 R100). -/
def execFencePkg (p : Pfx) (f : FA) (s : State) : Ans :=
  s.instr p (fun _ => { bad := f.d != 0 || f.s != 0 }) (fun s => next s.cutHere)
/-- `fence.sys` (03 R100). -/
def execFenceSys (p : Pfx) (f : FA) (s : State) : Ans :=
  s.instr p (fun _ => { bad := f.d != 0 || f.s != 0 }) (fun s =>
    next (if s.atSteward then s
      else (s.upCx s.cur.core (fun x => { x with chunk := { x.chunk with fenceSys := true } })).cutHere))
/-- `cut` (03 R113). -/
def execCut (p : Pfx) (f : FA) (s : State) : Ans :=
  s.instr p (fun _ => { bad := f.d != 0 || f.s != 0 }) (fun s => next s.cutHere)

end Sys2Proof.Machine
end

