-- ==== Sys2Proof/Machine/Flags.lean ====
section
/-! DEFINITION. The sticky floating-point flags of `FMT_CTL` (01 R14, R15) and the rounding modes (01 R26). -/
namespace Sys2Proof.Machine

/-- A set of flags: NV 1, DZ 2, OF 4, UF 8, NX 16, in the order of `FMT_CTL` bits 8 to 12. -/
abbrev Flags := BitVec 5
abbrev fNV : Flags := 1
abbrev fDZ : Flags := 2
abbrev fOF : Flags := 4
abbrev fUF : Flags := 8
abbrev fNX : Flags := 16

/-- The flags if a condition holds. -/
def flagIf (b : Bool) (f : Flags) : Flags := if b then f else 0

/-- `FMT_CTL` with flags set (01 R15). -/
def orFlags (ctl : Word) (f : Flags) : Word := ctl ||| (f.setWidth 64 <<< 8)

/-- `FMT_CTL` after a `csrw` (01 R14; 00 R5, R6): RM keeps its value for an undefined code, flags are cleared by ones. -/
def writeFmtCtl (old v : Word) : Word :=
  let rm := if fld v 2 0 ≤ 4 then fld v 2 0 else fld old 2 0
  BitVec.ofNat 64 (rm + fld v 4 3 * 8) ||| (old &&& 0x1F00#64 &&& ~~~v)

/-- Rounding modes. -/
inductive RMode where
  | rne | rz | ru | rd | sr
deriving DecidableEq, Repr

/-- The mode of a code; codes from 4 on are SR. -/
def rmodeOf (c : Nat) : RMode :=
  match c with
  | 0 => .rne
  | 1 => .rz
  | 2 => .ru
  | 3 => .rd
  | _ => .sr

end Sys2Proof.Machine
end

