-- ==== Sys2Proof/Machine/Numeric.lean ====
section
/-! DEFINITION. Exact values and their rounding: decoding and encoding of the floating formats (01 R25–R33), NaNs (R30,
R41), overflow and underflow (R28, R29), stochastic rounding (R27), conversion to integers (R40), and the exact operations
of IEEE arithmetic (R26). -/
namespace Sys2Proof.Machine

/-- An exact value. `fin neg m e st` is (−1)^neg × (m + θ) × 2^e with 0 < θ < 1 where `st`, and θ = 0 otherwise. A NaN
carries its sign and its payload, aligned to 23 significand bits, the quiet bit uppermost. -/
inductive Num where
  | nan (neg : Bool) (pay : Nat)
  | inf (neg : Bool)
  | fin (neg : Bool) (m : Nat) (e : Int) (st : Bool)
deriving DecidableEq, Repr

/-- Zero of a sign. -/
def Num.zero (neg : Bool) : Num := .fin neg 0 0 false
/-- The default NaN (01 R30 item 5). -/
def Num.dflt : Num := .nan false 0x7FFFFF
/-- A signalling NaN. -/
def Num.isSnan : Num → Bool
  | .nan _ p => !p.testBit 22
  | _ => false
def Num.isNan : Num → Bool
  | .nan .. => true
  | _ => false
def Num.isInf : Num → Bool
  | .inf _ => true
  | _ => false
/-- The value is zero. -/
def Num.isZero : Num → Bool
  | .fin _ m _ st => m == 0 && !st
  | _ => false
/-- The sign bit. -/
def Num.sign : Num → Bool
  | .nan n _ => n
  | .inf n => n
  | .fin n _ _ _ => n
/-- The value with a given sign. -/
def Num.withSign (v : Num) (n : Bool) : Num :=
  match v with
  | .nan _ p => .nan n p
  | .inf _ => .inf n
  | .fin _ m e st => .fin n m e st
/-- A quiet NaN of a NaN. -/
def Num.quiet : Num → Num
  | .nan n p => .nan n (p ||| 0x400000)
  | v => v
/-- An exact integer. -/
def Num.ofInt (i : Int) : Num := .fin (decide (i < 0)) i.natAbs 0 false
/-- Times a power of two; infinities, NaNs and zeros stay. -/
def Num.scale (v : Num) (k : Int) : Num :=
  match v with
  | .fin n m e st => .fin n m (e + k) st
  | v => v

/-! ## Formats (01 R25, R31) -/

/-- A floating format: width, precision with the leading bit, exponent field width and bias, the largest finite value as
`maxN` × 2^`maxQ`, and whether it has infinities and NaNs. -/
structure Fmt where
  w : Nat
  p : Nat
  eb : Nat
  bias : Nat
  maxN : Nat
  maxQ : Int
  hasInf : Bool
  hasNan : Bool
deriving DecidableEq, Repr

def fp32 : Fmt := ⟨32, 24, 8, 127, 0xFFFFFF, 104, true, true⟩
def fp16 : Fmt := ⟨16, 11, 5, 15, 0x7FF, 5, true, true⟩
def bf16 : Fmt := ⟨16, 8, 8, 127, 0xFF, 120, true, true⟩
def e4m3 : Fmt := ⟨8, 4, 4, 7, 14, 5, false, true⟩
def e5m2 : Fmt := ⟨8, 3, 5, 15, 7, 13, true, true⟩
def e3m2 : Fmt := ⟨6, 3, 3, 3, 7, 2, false, false⟩
def e2m3 : Fmt := ⟨6, 4, 2, 1, 15, -1, false, false⟩
def e2m1 : Fmt := ⟨4, 2, 2, 1, 3, 1, false, false⟩

/-- The floating format of a tag. `acc` holds FP32 (01 R18). -/
def fmtOf (t : Nat) : Option Fmt :=
  match t with
  | 5 | 22 => some fp32
  | 6 => some fp16
  | 7 => some bf16
  | 8 => some e4m3
  | 9 => some e5m2
  | 10 => some e3m2
  | 11 => some e2m3
  | 12 => some e2m1
  | _ => none

/-- The exponent of the least subnormal. -/
def Fmt.qmin (f : Fmt) : Int := 1 - (f.bias : Int) - ((f.p : Int) - 1)

/-- The value of a code. -/
def Fmt.decode (f : Fmt) (c : Nat) : Num :=
  let mb := f.p - 1
  let neg := c.testBit (f.w - 1)
  let x := bits c (f.w - 2) mb
  let m := c % 2 ^ mb
  if f.hasInf && x == 2 ^ f.eb - 1 then
    if m = 0 then .inf neg else .nan neg (m * 2 ^ (23 - mb))
  else if f.hasNan && !f.hasInf && x == 2 ^ f.eb - 1 && m == 2 ^ mb - 1 then .nan neg (m * 2 ^ (23 - mb))
  else if x = 0 then .fin neg m f.qmin false
  else .fin neg (m + 2 ^ mb) (f.qmin + (x : Int) - 1) false

/-- The sign bit of a code. -/
def Fmt.signBit (f : Fmt) (neg : Bool) : Nat := if neg then 2 ^ (f.w - 1) else 0

/-- The code of (−1)^neg × n × 2^q, where q is the quantum of the value in the format. -/
def Fmt.pack (f : Fmt) (neg : Bool) (n : Nat) (q : Int) : Nat :=
  let mb := f.p - 1
  let r := if n = 2 ^ f.p then (2 ^ mb, q + 1) else (n, q)
  f.signBit neg + (if r.1 < 2 ^ mb then r.1 else (r.2 - f.qmin + 1).toNat * 2 ^ mb + (r.1 - 2 ^ mb))

/-- The largest finite code of a sign. -/
def Fmt.maxCode (f : Fmt) (neg : Bool) : Nat := f.pack neg f.maxN f.maxQ
/-- The code of an infinity; E4M3 has its NaN in that place (01 R28). -/
def Fmt.infCode (f : Fmt) (neg : Bool) : Nat :=
  if f.hasInf then f.signBit neg + (2 ^ f.eb - 1) * 2 ^ (f.p - 1) else f.signBit neg + (2 ^ (f.w - 1) - 1)

/-- The code of a NaN, quieted (01 R41; R40 for targets without NaNs). -/
def Fmt.nanCode (f : Fmt) (neg : Bool) (pay : Nat) : Nat :=
  let mb := f.p - 1
  if !f.hasNan then 0
  else if !f.hasInf then f.signBit neg + (2 ^ (f.w - 1) - 1)
  else f.signBit neg + (2 ^ f.eb - 1) * 2 ^ mb + (pay / 2 ^ (23 - mb) ||| 2 ^ (mb - 1))

/-! ## Rounding -/

/-- A magnitude in units of 2^q, rounded: the integer and whether it was inexact. `z` is the draw of 01 R27. -/
def roundAt (neg : Bool) (m : Nat) (e : Int) (st : Bool) (q : Int) (mode : RMode) (z : Nat) : Nat × Bool :=
  if q ≤ e then (m * 2 ^ (e - q).toNat, st)
  else
    let sh := (q - e).toNat
    let n := m / 2 ^ sh
    let rem := m % 2 ^ sh
    let inexact := rem != 0 || st
    let up := match mode with
      | .rne => decide (2 ^ (sh - 1) < rem) || (rem == 2 ^ (sh - 1) && (st || n % 2 == 1))
      | .rz => false
      | .ru => inexact && !neg
      | .rd => inexact && neg
      | .sr =>
        if !inexact then false
        else if neg then !decide (z % 2 ^ 24 < ((2 ^ sh - rem) * 2 ^ 24 - b2n st) / 2 ^ sh)
        else decide (z % 2 ^ 24 < rem * 2 ^ 24 / 2 ^ sh)
    (if up then n + 1 else n, inexact)

/-- How a rounding is done: mode, draw, saturation of MOD (02 R50) and `SATN` (01 R14). -/
structure Rnd where
  mode : RMode
  z : Nat := 0
  sat : Bool := false
  satn : Bool := false
deriving DecidableEq, Repr

/-- The format saturates every overflow under `SATN` (01 R28). -/
def Fmt.saturates (f : Fmt) (r : Rnd) : Bool :=
  r.sat || !f.hasNan || (r.satn && (f == e4m3 || f == e5m2))

/-- The result of an overflow (01 R28). -/
def Fmt.overflow (f : Fmt) (r : Rnd) (neg : Bool) : Nat :=
  if f.saturates r then f.maxCode neg
  else match r.mode with
    | .rne | .sr => f.infCode neg
    | .rz => f.maxCode neg
    | .ru => if neg then f.maxCode neg else f.infCode neg
    | .rd => if neg then f.infCode neg else f.maxCode neg

/-- The code of a finite value (01 R28, R29). `more` tells that the value already differs from the exact one (04 R140). Under SR tininess
is judged on the value delivered, for which a and b are neighbours on the grid of the subnormals (DEDUCED, log 9). -/
def Fmt.roundMore (f : Fmt) (r : Rnd) (neg : Bool) (m : Nat) (e : Int) (st more : Bool) : Nat × Flags :=
  if m = 0 && !st then (f.signBit neg, 0)
  else
    let top := e + (m.log2 : Int)
    let qu := top - ((f.p : Int) - 1)
    let q := max qu f.qmin
    let v := roundAt neg m e st q r.mode r.z
    if decide (f.maxN * 2 ^ (f.maxQ - f.qmin).toNat < v.1 * 2 ^ (q - f.qmin).toNat) then (f.overflow r neg, fOF ||| fNX)
    else
      let tiny := match r.mode with
        | .sr => decide (v.1 * 2 ^ (q - f.qmin).toNat < 2 ^ (f.p - 1))
        | mode =>
          let u := roundAt neg m e st qu mode r.z
          decide (qu < f.qmin) && decide (u.1 < 2 ^ (f.qmin - qu).toNat * 2 ^ (f.p - 1))
      (f.pack neg v.1 q, flagIf (v.2 || more) fNX ||| flagIf ((v.2 || more) && tiny) fUF)

/-- The code of a finite value whose rounding is its only error. -/
def Fmt.round (f : Fmt) (r : Rnd) (neg : Bool) (m : Nat) (e : Int) (st : Bool) : Nat × Flags :=
  f.roundMore r neg m e st false

/-- The code of a value (01 R40, R41). A signalling NaN raises NV. -/
def Fmt.encode (f : Fmt) (r : Rnd) (v : Num) : Nat × Flags :=
  match v with
  | .nan n p => (f.nanCode n p, flagIf (!p.testBit 22 || !f.hasNan) fNV)
  | .inf n =>
    if f.hasInf && !(f == e5m2 && r.satn) then (f.infCode n, 0)
    else (if f.saturates r then f.maxCode n else f.infCode n, fOF ||| fNX)
  | .fin n m e st => f.round r n m e st

/-! ## Integers (01 R40) -/

/-- A value as an integer multiple of 2^q between `lo` and `hi`. -/
def encodeStep (r : Rnd) (lo hi : Int) (q : Int) (v : Num) : Int × Flags :=
  match v with
  | .nan .. => (0, fNV)
  | .inf n => (if n then lo else hi, fNV)
  | .fin n m e st =>
    let u := roundAt n m e st q r.mode r.z
    let i : Int := if n then -(u.1 : Int) else (u.1 : Int)
    if i < lo then (lo, fNV) else if hi < i then (hi, fNV) else (i, flagIf u.2 fNX)

/-- An integer target of `w` bits. -/
def encodeInt (r : Rnd) (w : Nat) (signed : Bool) (v : Num) : Int × Flags :=
  if signed then encodeStep r (-(2 ^ (w - 1) : Nat)) ((2 ^ (w - 1) : Nat) - 1) 0 v
  else encodeStep r 0 ((2 ^ w : Nat) - 1) 0 v

/-! ## Exact operations -/

/-- The first NaN of the operands, quieted; and NV for any signalling one (01 R30 items 1, 2). -/
def pickNan (vs : List Num) : Option Num := (vs.find? Num.isNan).map Num.quiet
/-- NV where an operand is a signalling NaN. -/
def snanFlag (vs : List Num) : Flags := flagIf (vs.any Num.isSnan) fNV

/-- The signed integer of a finite value in units of 2^q, exact for q at most its exponent. -/
def unitsOf (n : Bool) (m : Nat) (e q : Int) : Int :=
  let u : Int := (m * 2 ^ (e - q).toNat : Nat)
  if n then -u else u

/-- The exact sum of finite values; the sign of a zero sum is that of IEEE 754. -/
def addFin (mode : RMode) (n1 : Bool) (m1 : Nat) (e1 : Int) (n2 : Bool) (m2 : Nat) (e2 : Int) : Num :=
  let q := min e1 e2
  let t := unitsOf n1 m1 e1 q + unitsOf n2 m2 e2 q
  if t = 0 then
    .zero (if m1 = 0 && m2 = 0 && n1 == n2 then n1 else mode == .rd)
  else .fin (decide (t < 0)) t.natAbs q false

/-- The sum of values that are not NaNs. -/
def addNum (mode : RMode) (a b : Num) : Num × Flags :=
  match a, b with
  | .inf x, .inf y => if x = y then (.inf x, 0) else (.dflt, fNV)
  | .inf x, _ => (.inf x, 0)
  | _, .inf y => (.inf y, 0)
  | .fin n1 m1 e1 _, .fin n2 m2 e2 _ => (addFin mode n1 m1 e1 n2 m2 e2, 0)
  | _, _ => (.dflt, 0)

/-- The product of values that are not NaNs. -/
def mulNum (a b : Num) : Num × Flags :=
  let n := a.sign ^^ b.sign
  match a, b with
  | .fin _ m1 e1 _, .fin _ m2 e2 _ => (.fin n (m1 * m2) (e1 + e2) false, 0)
  | a, b => if a.isZero || b.isZero then (.dflt, fNV) else (.inf n, 0)

/-- Addition (01 R26, R30). -/
def fadd (mode : RMode) (a b : Num) : Num × Flags :=
  match pickNan [a, b] with
  | some v => (v, snanFlag [a, b])
  | none => addNum mode a b

/-- Subtraction. -/
def fsub (mode : RMode) (a b : Num) : Num × Flags :=
  match pickNan [a, b] with
  | some v => (v, snanFlag [a, b])
  | none => addNum mode a (b.withSign (!b.sign))

/-- Multiplication. -/
def fmul (a b : Num) : Num × Flags :=
  match pickNan [a, b] with
  | some v => (v, snanFlag [a, b])
  | none => mulNum a b

/-- a × b ± c with one rounding to come (01 R30 item 3); `order` lists the operands by position. -/
def ffma (mode : RMode) (a b c : Num) (negProd : Bool) (order : List Num) : Num × Flags :=
  let inv := (a.isZero && b.isInf) || (a.isInf && b.isZero)
  match pickNan order with
  | some v => (v, snanFlag order ||| flagIf inv fNV)
  | none =>
    if inv then (.dflt, fNV)
    else
      let p := (mulNum a b).1
      addNum mode (if negProd then p.withSign (!p.sign) else p) c

/-- a < b for values that are not NaNs. -/
def numLt (a b : Num) : Bool :=
  match a, b with
  | .inf x, .inf y => x && !y
  | .inf x, _ => x
  | _, .inf y => !y
  | .fin n1 m1 e1 _, .fin n2 m2 e2 _ =>
    let q := min e1 e2
    decide (unitsOf n1 m1 e1 q < unitsOf n2 m2 e2 q)
  | _, _ => false
/-- a = b as values: zeros of both signs are equal. -/
def numEq (a b : Num) : Bool := !a.isNan && !b.isNan && !numLt a b && !numLt b a

/-- The greater, or the lesser, with −0 below +0 (03 R99). -/
def fmaxmin (greater : Bool) (a b : Num) : Num × Flags :=
  match pickNan [a, b] with
  | some v => (v, snanFlag [a, b])
  | none =>
    let less := numLt a b || (numEq a b && a.sign && !b.sign)
    (if less == greater then b else a, 0)

/-! ## The MOD prefix (02 R50) -/

/-- The fields of a MOD prefix. -/
structure Mod where
  sat : Bool := false
  clamp : Nat := 0
  neg : Bool := false
  abs : Bool := false
  k : Int := 0
deriving DecidableEq, Repr

/-- abs, neg, scale. -/
def Mod.pre (o : Mod) (v : Num) : Num :=
  let v := if o.abs then v.withSign false else v
  let v := if o.neg then v.withSign (!v.sign) else v
  v.scale o.k

/-- The code of 1.0, or −1.0. -/
def Fmt.one (f : Fmt) (neg : Bool) : Nat := f.pack neg (2 ^ (f.p - 1)) (1 - (f.p : Int))

/-- clamp, then saturate. -/
def Mod.post (o : Mod) (f : Fmt) (c : Nat) : Nat :=
  let v := f.decode c
  let one : Num := .fin false 1 0 false
  let c := if v.isNan then c
    else match o.clamp with
      | 1 => if v.sign then 0 else if numLt one v then f.one false else c
      | 2 => if numLt v (one.withSign true) then f.one true else if numLt one v then f.one false else c
      | 3 => if v.sign then 0 else c
      | _ => c
  if o.sat && (f.decode c).isInf then f.maxCode (f.decode c).sign else c

/-- The whole of R50 for one element: the exact result v with the flags it raised. -/
def Mod.apply (o : Mod) (f : Fmt) (r : Rnd) (v : Num × Flags) : Nat × Flags :=
  let e := f.encode { r with sat := o.sat } (o.pre v.1)
  (o.post f e.1, v.2 ||| e.2)

/-- The same for a value that already differs from the exact one. -/
def Mod.applyMore (o : Mod) (f : Fmt) (r : Rnd) (v : Num × Flags) (more : Bool) : Nat × Flags :=
  match o.pre v.1 with
  | .fin n m e st =>
    let q := f.roundMore { r with sat := o.sat } n m e st more
    (o.post f q.1, v.2 ||| q.2)
  | _ => o.apply f r v

/-- An exact integer result in a width (02 R49; 04 R128): abs, neg, then saturation or wrap-around. -/
def Mod.int (o : Mod) (w : Nat) (u : Bool) (v : Int) : Nat :=
  let v := if o.abs then (v.natAbs : Int) else v
  let v := if o.neg then -v else v
  let lo : Int := if u then 0 else -(2 ^ (w - 1) : Nat)
  let hi : Int := if u then (2 ^ w : Nat) - 1 else (2 ^ (w - 1) : Nat) - 1
  lowBits (if o.sat then max lo (min hi v) else v) w

end Sys2Proof.Machine
end

