-- ==== Sys2Proof/Machine/Atomics.lean ====
section
/-! DEFINITION. Atomics (03 R96–R99): what they compute, and where they take place. -/
namespace Sys2Proof.Machine

/-! ## Operations -/

/-- The integer operations of R96 on values of `n` bits. -/
def amoNew (op n old b : Nat) : Nat :=
  let less := fun (signed : Bool) => if signed then decide (sextI old n < sextI b n) else decide (old < b)
  match op with
  | 0 => (old + b) % 2 ^ n
  | 1 => old &&& b
  | 2 => old ||| b
  | 3 => old ^^^ b
  | 4 => if less true then old else b
  | 5 => if less false then old else b
  | 6 => if less true then b else old
  | 7 => if less false then b else old
  | _ => b

/-- The format of a `famo` (R96). -/
def famoFmt (z : Nat) : Fmt := if z = 0 then fp32 else if z = 1 then fp16 else bf16

/-- The result of a `famo` (R99). -/
def famoNew (op z old b : Nat) : Nat :=
  let f := famoFmt z
  let x := f.decode old
  let y := f.decode b
  let v := match op with | 0 => fadd .rne x y | 1 => fmaxmin true x y | _ => fmaxmin false x y
  (f.encode ⟨.rne, 0, false, false⟩ v.1).1

/-- Bytes that the operation reads and writes. -/
def FarOp.size (o : FarOp) : Nat := if o.kind = 2 then (if o.z = 0 then 4 else 2) else 4 * (o.z + 1)
/-- The new value of an operation on an old value; none where `cas` writes nothing (R97). -/
def FarOp.new (o : FarOp) (old : Nat) : Option Nat :=
  let n := 8 * o.size
  let b := o.b.toNat % 2 ^ n
  match o.kind with
  | 0 => some (amoNew o.op n old b)
  | 1 => if old = o.cmp.toNat % 2 ^ n then some b else none
  | _ => some (famoNew o.op o.z old b)
/-- The word that xd receives (R97, R99). -/
def FarOp.result (o : FarOp) (old : Nat) : Word :=
  if o.kind = 2 || o.zext then zextW old (8 * o.size) else sextW old (8 * o.size)

/-! ## Fields and checks -/

def amoU (p : Pfx) : Bool := (regPay p).testBit 6
def amoSp (p : Pfx) : Bool := (regPay p).testBit 5
def amoFar (p : Pfx) : Bool := (regPay p).testBit 4
def amoOp (p : Pfx) : Nat := bits (regPay p) 3 0

/-- The field values that raise 0x08 (R96). -/
def amoBad (p : Pfx) (f : FAZ) (kind : Nat) : Bool :=
  match kind with
  | 0 => decide (8 < amoOp p) || (amoU p && f.z == 1) || (amoSp p && amoFar p)
  | 1 => amoOp p != 0 || (amoU p && f.z == 1) || (amoSp p && amoFar p)
  | _ => bits (regPay p) 6 2 != 0 || bits (regPay p) 1 0 == 3

/-- The base of a scratchpad atomic is an address register of an MT. -/
def State.baseIsA (s : State) (p : Pfx) (kind : Nat) : Bool := kind != 2 && amoSp p && !s.isCt

/-- The checks of R96. -/
def amoRules (p : Pfx) (f : FAZ) (kind : Nat) (s : State) : Rules :=
  { undef := decide ((if kind = 2 then 2 else 1) < f.z.toNat), reg := true, imm := true, lack := !hasReg p
    bad := amoBad p f kind || (s.baseIsA p kind && decide (7 < f.s.toNat))
    named := f.d.toNat :: regT p :: (if s.baseIsA p kind then [] else [f.s.toNat]) }

/-- The operation of the acting thread's instruction. -/
def State.farOp (s : State) (p : Pfx) (f : FAZ) (kind va : Nat) : FarOp :=
  { id := (s.cx s.cur.core).nextId, thr := s.cur.thr, kind := kind
    op := if kind = 2 then bits (regPay p) 1 0 else amoOp p
    z := f.z.toNat, launch := s.launchNo s.cur.core, asid := (s.cx s.cur.core).asid, sup := s.isSup s.cur.core, va := va, zext := amoU p, b := s.x (regT p), cmp := s.x f.d.toNat
    blk := s.thr.blk, off := s.thr.off, park := s.thr.park }

/-! ## Places of execution (R98) -/

/-- At a scratchpad address, as one access (R97). -/
def State.amoSlot (s : State) (p : Pfx) (f : FAZ) (kind : Nat) : Res :=
  let o := s.farOp p f kind 0
  let c := s.cur.core
  match s.spot c (s.spAddr p f.s.toNat 0) o.size o.size 2 with
  | .error e => .error e
  | .ok q =>
    match s.spRmw c q o.size with
    | .error e => .error e
    | .ok (s, bs) =>
      let old := ofBytes bs
      let s := match o.new old with
        | none => s
        | some v => s.vaultWrite q.core q.phys (toBytes o.size v)
      next (s.upThr (·.issueFar f.d.toNat (.value (o.result old))))

/-- In the issuing core's L1, within the chunk, whose read and write signatures it enters whether or not it writes (06 R196); the steward
acts on memory (07 R245). -/
def State.amoNear (s : State) (f : FAZ) (o : FarOp) (q : Place) (pa key : Nat) : Res :=
  let c := s.cur.core
  let steward := isSteward c
  let old := ofBytes (if steward then s.mem.readN pa o.size else s.seeN c pa o.size)
  let s := if steward then s else s.noteMem c key (pa / 64) true true
  let fin := fun (s : State) => next (s.upThr (·.issueFar f.d.toNat (.value (o.result old))))
  match o.new old with
  | none => fin s
  | some v =>
    match s.storeTo c o.va q (toBytes o.size v) with
    | .error e => .error e
    | .ok s => fin s

/-- Held for the commit of the chunk: at the home slice, or in the bundle for a peer device (R77, R98). -/
def State.amoHeld (s : State) (f : FAZ) (o : FarOp) (q : Place) : Res :=
  let c := s.cur.core
  let held : Except Stop State := match q with
    | .mem .. => match s.room with
      | .error e => .error e
      | .ok s => .ok ((s.hold (.atomic o)).upCx c (fun x => { x with nextId := x.nextId + 1 }))
    | .peer _ =>
      let t := s.leaseTarget o.va
      .ok (((s.noteLease c o.va).requestCut c).upCx c (fun x => { x with
        nextId := x.nextId + 1
        chunk := { x.chunk with bundle := x.chunk.bundle ++
          [{ va := o.va, data := [], atomic := some o, dev := t.1, tasid := t.2.1, tva := t.2.2 }] } }))
  match held with
  | .error e => .error e
  | .ok s => next (s.upThr (·.issueFar f.d.toNat (.released o.id)))

/-- An atomic: 0 `amo`, 1 `cas`, 2 `famo`. -/
def State.atomic (s : State) (p : Pfx) (f : FAZ) (kind : Nat) : Ans :=
  s.instr p (amoRules p f kind) (fun s =>
    if kind ≠ 2 && amoSp p then s.amoSlot p f kind
    else
      let va := (s.x f.s.toNat + wordOfInt (simm p 0 0)).toNat
      let o := s.farOp p f kind va
      let steward := s.atSteward
      -- in a steward, which executes no chunks, nothing is commit-released (07 R245, R246; log 128)
      let released := !steward && (kind == 2 || amoFar p || (decide (va < 2 ^ 56) && bits va 55 54 == 2))
      if !steward && decide (va < 2 ^ 56) && s.regionOff va then .error (.cause 0x1F 0)
      else if released && !s.isLast then .error (.cause 0x15 0)
      else match s.watched va o.size o.size 2 with
        | .error e => .error e
        | .ok q =>
          match q with
          | .mem pa key => if released then s.amoHeld f o q else s.amoNear f o q pa key
          | .peer _ => s.amoHeld f o q)

/-- `amo` (R96–R98). -/
def execAmo (p : Pfx) (f : FAZ) (s : State) : Ans := s.atomic p f 0
/-- `cas` (R96–R98). -/
def execCas (p : Pfx) (f : FAZ) (s : State) : Ans := s.atomic p f 1
/-- `famo` (R96, R98, R99). -/
def execFamo (p : Pfx) (f : FAZ) (s : State) : Ans := s.atomic p f 2

end Sys2Proof.Machine
end

