-- ==== Sys2Proof/Machine/Threads.lean ====
section
/-! DEFINITION. The control thread's page 2 instructions over its micro-threads (05 R159–R173) and the events that end their
waits. -/
namespace Sys2Proof.Machine

/-- The MTs that a mask selects (05 R160). -/
def mtsOf (mask : Nat) : List Nat := onesOf mask 16

/-! ## Broadcast and detachment (R161–R164) -/

/-- The checks of `bcast` and `mtgo`. -/
def admitRules (p : Pfx) (f : FI) : Rules :=
  ctOnly { reg := true, imm := true, extra := hasReg p && hasImm p, bad := hasReg p && (regV p != 0 || f.i != 0)
           named := f.d.toNat :: (if hasReg p then [regT p] else []) }

/-- The target (R162). -/
def State.admitTarget (s : State) (p : Pfx) (f : FI) : Word :=
  if hasReg p then s.x (regT p) else s.thr.blk + wordOfInt (simm p 6 f.i.toNat) * 8

/-- The checks on the header of an entry, after its fetch (R162). -/
def entryCause (bcast : Bool) (h : BitVec 32) : Option Cause :=
  match hdrLenCause h with
  | some k => some k
  | none => if hdrKind h = 0 || (!bcast && hdrKind h = 1) then (if parksOk h then none else some 0x0C) else some 0x0D

/-- Every masked MT has room in its block queue. -/
def State.bqRoom (s : State) (c mask : Nat) : Bool := (mtsOf mask).all (fun i => decide ((s.mtAt c i).bq.length < 4))
/-- A masked MT is faulted with a full block queue (R163). -/
def State.bqDead (s : State) (c mask : Nat) : Bool :=
  (mtsOf mask).any (fun i => (s.mtAt c i).thr.phase == .faulted && decide (4 ≤ (s.mtAt c i).bq.length))
/-- Appends an entry to the block queue of every masked MT, at one instant. -/
def State.admitAll (s : State) (c mask : Nat) (e : BqEntry) : State :=
  (mtsOf mask).foldl (fun s i => s.upMtAt c i (fun m => { m with bq := m.bq ++ [e] })) s

/-- `bcast` and `mtgo` (R162, R163). -/
def State.startEntry (s : State) (p : Pfx) (f : FI) (bcast : Bool) : Ans :=
  s.instr p (fun _ => admitRules p f) (fun s =>
    let c := s.cur.core
    let t := s.admitTarget p f
    match s.fetchN c t.toNat 4 8 with
    | .error e => .error e
    | .ok v =>
      match entryCause bcast (BitVec.ofNat 32 v) with
      | some k => .error (.cause k 0)
      | none =>
        let mask := fld (s.x f.d.toNat) 15 0
        if s.bqRoom c mask then next (s.admitAll c mask ⟨bcast, t⟩)
        else if s.bqDead c mask then .error (.cause 0xA8 0)
        else .error (.wait (.admission bcast mask t)))

/-- `bcast` (R162). -/
def execBcast (p : Pfx) (f : FI) (s : State) : Ans := s.startEntry p f true
/-- `mtgo` (R162). -/
def execMtgo (p : Pfx) (f : FI) (s : State) : Ans := s.startEntry p f false

/-! ## Input and return queues (R172, R173) -/

/-- Input queue `n` of every masked MT has room. -/
def State.inRoom (s : State) (c n mask : Nat) : Bool :=
  (mtsOf mask).all (fun i => decide ((s.mtAt c i).inWords n < 16))
/-- A masked MT with a full queue is faulted. -/
def State.inDead (s : State) (c n mask : Nat) : Bool :=
  (mtsOf mask).any (fun i => (s.mtAt c i).thr.phase == .faulted && decide (16 ≤ (s.mtAt c i).inWords n))
/-- Appends a word to input queue `n` of every masked MT. -/
def State.inPush (s : State) (c n mask : Nat) (w : Word) : State :=
  (mtsOf mask).foldl (fun s i => s.upMtAt c i (fun m => m.setQ n (m.getQ n ++ [w]))) s

/-- `qwr` (R172). -/
def execQwr (p : Pfx) (f : FAZ) (s : State) : Ans :=
  s.instr p (fun _ => ctOnly { named := [f.d.toNat, f.s.toNat] }) (fun s =>
    let c := s.cur.core
    let n := f.z.toNat
    let mask := fld (s.x f.d.toNat) 15 0
    let w := s.x f.s.toNat
    if s.inRoom c n mask then next (s.inPush c n mask w)
    else if s.inDead c n mask then .error (.cause 0xA8 0)
    else .error (.wait (.inputRoom n mask w)))

/-- `qrd` (R173). -/
def execQrd (p : Pfx) (f : FAZ) (s : State) : Ans :=
  s.instr p (fun _ => ctOnly { bad := f.z != 0, named := [f.d.toNat, f.s.toNat] }) (fun s =>
    let c := s.cur.core
    let i := fld (s.x f.s.toNat) 3 0
    match (s.mtAt c i).rq with
    | w :: r =>
      if s.thr.far.any (fun e => e.src == .returnQueue i) then next (s.upThr (·.issueFar f.d.toNat (.returnQueue i)))
      else next ((s.upMtAt c i (fun m => { m with rq := r })).upThr (·.issueFar f.d.toNat (.value w)))
    | [] => next (s.upThr (·.issueFar f.d.toNat (.returnQueue i))))

/-! ## Joining and status (R165, R167) -/

/-- Every masked MT is idle with an empty queue, faulted or halted. -/
def State.joined (s : State) (c mask : Nat) : Bool :=
  (mtsOf mask).all (fun i => let m := s.mtAt c i; m.idleEmpty || m.thr.phase == .faulted || m.thr.phase == .halted)
/-- Every masked MT is idle. -/
def State.allIdle (s : State) (c mask : Nat) : Bool := (mtsOf mask).all (fun i => (s.mtAt c i).idleEmpty)

/-- `mtjoin` (R165). With an empty mask every masked MT is idle, so that fd := true, although R160 says "no further effect" (DESIGN CHOICE,
log 120). -/
def execMtjoin (p : Pfx) (f : FAZ) (s : State) : Ans :=
  s.instr p (fun _ => ctOnly { bad := decide (7 < f.d.toNat) || f.z != 0, named := [f.s.toNat] }) (fun s =>
    let c := s.cur.core
    let mask := fld (s.x f.s.toNat) 15 0
    if s.joined c mask then next (s.setF f.d.toNat (s.allIdle c mask))
    else .error (.wait (.join f.d.toNat mask)))

/-- The record of `mtstat` (R167); `rq` is the number of words in the return queue. -/
def Mt.statRecord (m : Mt) (rq o : Nat) : Word :=
  match o with
  | 0 => m.stat
  | 1 => m.trapBlk
  | 2 => BitVec.ofNat 64 (m.trapOff + m.trapPark * 2 ^ 8)
  | 3 => m.trapInfo
  | 4 => m.thr.blk
  | _ => BitVec.ofNat 64 (m.inWords 0 + m.inWords 1 * 2 ^ 8 + m.inWords 2 * 2 ^ 16 + m.inWords 3 * 2 ^ 24 + rq * 2 ^ 32 +
      b2n (m.linkUp.isSome && !m.thr.awaits (.link 0)) * 2 ^ 40 + b2n (m.linkDown.isSome && !m.thr.awaits (.link 1)) * 2 ^ 41)

/-- `mtstat` (R167). -/
def execMtstat (p : Pfx) (f : FAZ) (o : BitVec 3) (s : State) : Ans :=
  s.instr p (fun _ => ctOnly { undef := decide (5 < o.toNat), bad := f.z != 0, named := [f.d.toNat, f.s.toNat] }) (fun s =>
    let i := fld (s.x f.s.toNat) 3 0
    next (s.upThr (·.issueFar f.d.toNat (.value ((s.mtAt s.cur.core i).statRecord (s.rqWords s.cur.core i) o.toNat)))))

/-! ## Resuming and killing (R169, R170) -/

/-- `mtres` (R169). -/
def execMtres (p : Pfx) (f : FAZ) (o : BitVec 1) (s : State) : Ans :=
  s.instr p (fun _ => ctOnly { bad := f.d != 0 || f.z != 0, named := [f.s.toNat] }) (fun s =>
    let c := s.cur.core
    next ((mtsOf (fld (s.x f.s.toNat) 15 0)).foldl (fun s i => s.upMtAt c i (fun m =>
      if m.thr.phase = .faulted || m.thr.phase = .halted then m.resume (o == 1) else m)) s))

/-- An MT after `mtkill` (R170). -/
def Mt.kill (m : Mt) : Mt :=
  { m with
    thr := { m.thr with
      phase := .idle, stall := none, raised := none, far := [], hz := 0, answers := [], late := none, passEvent := false
      stepOne := false, atEntry := none }
    mode := .idle, bq := [], q := [], linkUp := none, linkDown := none }

/-- `mtkill` (R170). -/
def execMtkill (p : Pfx) (f : FAZ) (s : State) : Ans :=
  s.instr p (fun _ => ctOnly { bad := f.d != 0 || f.z != 0, named := [f.s.toNat] }) (fun s =>
    let c := s.cur.core
    next ((mtsOf (fld (s.x f.s.toNat) 15 0)).foldl (fun s i =>
      let ids := match (s.mtAt c i).thr.stall with | some ⟨.fullEmpty id, _, _⟩ => [id] | _ => []
      (s.upMtAt c i Mt.kill).upCx c (fun x => { x with feDrop := x.feDrop ++ ids })) s))

/-! ## The ends of waits -/

/-- The waiting instruction of the acting thread is done, with an effect. -/
def State.waitDone (s : State) (len : Nat) (f : State → State) : State :=
  ((f { s with cur := { s.cur with len := len } }).complete .next).steppedTrap s.cur.core

/-- The waiting instruction of the acting thread begins again; so does that of every member of a gang. -/
def State.waitAgain (s : State) : State :=
  (s.governed s.cur.core s.cur.thr).foldl (fun s d => s.upThrAt d s.cur.thr (fun t => { t with stall := none })) s

/-- The waiting instruction raises a cause. -/
def State.waitTrap (s : State) (k : Cause) (info : Word) : State := (s.raiseHere k info).steppedTrap s.cur.core

/-- The thread's core runs it alone: no gang moves its control thread. -/
def State.alone (s : State) : Bool := !(s.isCt && s.inStream s.cur.core)

/-- ADMIT_ENTRY: a waiting `bcast`, `mtgo` or `qwr` is admitted, or meets a faulted MT (R163, R172). -/
def execAdmitEntry (s : State) : Ans :=
  let c := s.cur.core
  if !s.runs c then .next s
  else match s.thr.stall with
    | some ⟨.admission b mask t, len, _⟩ =>
      if s.bqRoom c mask then
        .next (if s.alone then s.waitDone len (fun s => s.admitAll c mask ⟨b, t⟩) else s.waitAgain)
      else if s.bqDead c mask then .next (if s.alone then s.waitTrap 0xA8 0 else s.waitAgain)
      else .next s
    | some ⟨.inputRoom n mask w, len, _⟩ =>
      if s.inRoom c n mask then
        .next (if s.alone then s.waitDone len (fun s => s.inPush c n mask w) else s.waitAgain)
      else if s.inDead c n mask then .next (if s.alone then s.waitTrap 0xA8 0 else s.waitAgain)
      else .next s
    | _ => .next s

/-- MTJOIN_COMPLETE: the masked MTs have settled (R165). -/
def execMtjoinComplete (s : State) : Ans :=
  let c := s.cur.core
  if !s.runs c then .next s
  else match s.thr.stall with
    | some ⟨.join fd mask, len, _⟩ =>
      if s.joined c mask then
        .next (if s.alone then s.waitDone len (fun s => s.setF fd (s.allIdle c mask)) else s.waitAgain)
      else .next s
    | _ => .next s

/-- MT_BEGIN_ENTRY: an idle MT begins the entry at the head of its block queue (R161). -/
def execMtBeginEntry (s : State) : Ans :=
  let c := s.cur.core
  let i := s.cur.thr
  let m := s.mt
  if i = 16 || !s.mayAct c i || m.thr.phase != .idle || s.holdsBlock c i then .next s
  else match m.bq with
    | [] => .next s
    | e :: r =>
      let s := s.setMt { m with
        bq := r
        mode := if e.bcast then .broadcast else .detached
        thr := { m.thr with phase := .entry e.addr } }
      .next (s.enterBlock c i e.addr)

end Sys2Proof.Machine
end

