-- ==== Sys2Proof/Machine/Gang.lean ====
section
/-! DEFINITION. Row gangs: formation and dissolution (05 R175–R179). -/
namespace Sys2Proof.Machine

/-- The size of the group that a `gang` immediate names, and its leader. -/
def gangSize (i : BitVec 6) : Nat := 2 ^ (bits i.toNat 1 0 + 1)
def gangLead (i : BitVec 6) : Nat := bits i.toNat 5 2
/-- The cores of the group of core `c` (R175). -/
def gangGroup (c : Nat) (i : BitVec 6) : List Nat :=
  let g := gangSize i
  (List.range g).map (fun k => c - c % 16 % g + k)

/-- A context of launch `l` whose task instance has not ended. -/
def Ctx.lives (x : Ctx) (l : Nat) : Bool := x.launch == some l && x.fin.isNone

/-- A core of the group is mapped out, or has no task instance of launch `l` that has not ended, in a slot or saved
(R176, R180). -/
def State.gangAbsent (s : State) (l d : Nat) : Bool :=
  let k := s.core d
  !s.usable d ||
  !((k.slot0.st != .empty && k.slot0.ctx.lives l) || (k.slot1.st != .empty && k.slot1.ctx.lives l) ||
    s.images.any (fun m => m.core == d && m.ctx.lives l))

/-- The cores of the row whose waiting `gang` disagrees with immediate `i` given by core `c` (R176). -/
def State.gangClash (s : State) (c : Nat) (i : BitVec 6) : List Nat :=
  (List.range 16).filterMap (fun k =>
    let d := c - c % 16 + k
    match s.anyCx d (s.launchNo c) with
    | some x => match x.arch.gangWait, x.arch.gang with
      | some j, none => if d != c && j != i && ((gangGroup c i).contains d || (gangGroup d j).contains c) then some d else none
      | _, _ => none
    | none => none)

/-- Marks the context of launch `l` on core `d`, whether it runs or not, for cause 0xAA; the mark stands through a squash. -/
def State.gangSpoil (s : State) (l d : Nat) : State :=
  s.upAnyCx d l (·.upArchAll (fun a => { a with gangBad := true, ct := { a.ct with stall := none } }))

/-- The control thread waits at its instruction, which has begun. -/
def State.begun (s : State) (w : Wait) : State :=
  s.upThr (fun t => { t with stall := some ⟨w, s.cur.len, s.cycle⟩ })

/-- `gang` (R175, R176). A core that waits already waits on where another core of its group ends or is mapped out later (log 141). -/
def execGang (p : Pfx) (f : FI) (s : State) : Ans :=
  s.instr p (fun _ => ctOnly { bad := f.d != 0, range := decide (gangSize f.i ≤ gangLead f.i) }) (fun s =>
    let c := s.cur.core
    let a := s.arch c
    let clash := s.gangClash c f.i
    if !s.isLast then .error (.cause 0xA9 0)
    else if a.gang.isSome then .error (.cause 0xAE 0)
    else if (gangGroup c f.i).any (s.gangAbsent (s.launchNo c)) then .error (.cause 0xAD 0)
    else if a.gangBad then .error (.cause 0xAA 0)
    else if !clash.isEmpty then .ok ((c :: clash).foldl (fun s d => s.gangSpoil (s.launchNo c) d) s, .hold)
    else .ok (((s.upArch c (fun a => { a with gangWait := some f.i })).requestCut c).begun .gang, .hold))

/-- `split` (R179). -/
def execSplit (p : Pfx) (f : FAZ) (s : State) : Ans :=
  s.instr p (fun _ => ctOnly { bad := f.d != 0 || f.s != 0 || f.z != 0 }) (fun s =>
    let c := s.cur.core
    if !s.isLast then .error (.cause 0xA9 0)
    else if (s.arch c).gang.isNone then .error (.cause 0xAE 0)
    else
      let s := (s.upArch c (fun a => { a with gangWait := some 0 })).upCx c (fun x =>
        { x with chunk := { x.chunk.retire x.arch.chkCtl x.eff s.cycle (s.gangRaised c) with held := x.chunk.held ++ [.split] } })
      .ok ((s.requestCut c).begun .gang, .hold))

/-- The core has executed `gang`, and the chunk of it has committed. -/
def State.gangReady (s : State) (d : Nat) (i : BitVec 6) : Bool :=
  let x := s.cx d
  x.arch.gang.isNone && x.arch.gangWait == some i && !x.arch.gangBad && x.chunk.ckpt.gangWait == some i && x.pend.isEmpty &&
    x.arch.ct.pending.isEmpty

/-- A member's state when the gang forms: membership, and a follower at the leader's place (R176). -/
def Arch.form (a lead : Arch) (g : Gang) : Arch :=
  let t := lead.ct.goesOn
  let own := a.ct
  { a with
    gang := some g
    gangWait := none
    ct := { own with blk := t.blk, hdr := t.hdr, off := t.off, park := t.park, phase := t.phase, hz := 0, stall := none,
                     blockDone := false, passEvent := false } }

/-- GANG_FORM: every core of the group has executed `gang` and committed, and the gang forms at one instant (R176). -/
def execGangForm (s : State) : Ans :=
  let c := s.cur.core
  match (s.arch c).gangWait with
  | none => .next s
  | some i =>
    let cs := gangGroup c i
    if !cs.all (fun d => (s.cx d).launch == (s.cx c).launch && s.gangReady d i) then .next s
    else
      let lead := s.cx (c - c % 16 % gangSize i + gangLead i)
      .next (cs.foldl (fun s d =>
        let g : Gang := { size := bits i.toNat 1 0, pos := d % 16 % gangSize i, lead := gangLead i }
        s.upCx d (fun x => { x with
          arch := x.arch.form lead.arch g
          chunk := { x.chunk with
            ckpt := x.chunk.ckpt.form lead.chunk.ckpt g
            retired := x.chunk.retired + 1 } })) s)

end Sys2Proof.Machine
end

