-- ==== Sys2Proof/Machine/Chunks.lean ====
section
/-! DEFINITION. The steps of chunks: cuts, the reeves' grants, write signatures, the end of a commit, reservations, lateral
waits, the stepped trap and the cut watchdog (06 R187–R219), and a word that decodes to no instruction (02 R63). -/
namespace Sys2Proof.Machine

/-- ILLEGAL_ENCODING: an instruction word with a cause of its own (02 R63 items 2–7, R65). -/
def execIllegalEncoding (c : Cause) (s : State) : Ans := .next (s.perform (fun _ => .error (.cause c 0)))

/-! ## The cut -/

/-- CHUNK_CUT: the core, with its whole gang, cuts its chunk (06 R187; 05 R178); an event whose cut has fallen is taken once the CT's
checkpoint is complete (R193, R219). -/
def execChunkCut (s : State) : Ans :=
  let c := s.cur.core
  let cs := s.gangCores c
  if (s.cx c).asyncCut then .next (s.takeAsync c)
  else if cs.any s.anyRaised then .next (s.steppedTrap c)
  else if cs.all s.atCutPoint && cs.any (fun d => s.cutDue d || s.steppedCut d) then .next (s.cut c false)
  else .next (s.noteCut c)

/-- STEPPED_TRAP: a raised cause moves on: the squash into stepped mode, or the trap cut (06 R214). -/
def execSteppedTrap (s : State) : Ans := .next (s.steppedTrap s.cur.core)

/-! ## Grants (06 R200, R201, R206; 12 R342; 13 R404) -/

/-- The reeve that a commit goes to: of its reach, or of the package where its launch replays. -/
def State.reeveLevel (s : State) (c : Nat) : Nat :=
  if s.replays ((s.cx c).launch.getD 0) then 3 else s.headReach c

/-- The signatures of a unit of commit: the union over the gang. -/
def State.headSigs (s : State) (cs : List Nat) : Chunk :=
  cs.foldl (fun (k : Chunk) d => match (s.cx d).pend with
    | q :: _ => { k with rsig := k.rsig ||| q.rsig, wsig := k.wsig ||| q.wsig }
    | [] => k) {}

/-- A granted, unfinished commit of the subtree stands against chunk `k`. -/
def State.grantBlocked (s : State) (lvl c : Nat) (cs : List Nat) (k : Chunk) : Bool :=
  s.cores.any (fun e => !cs.contains e.1 && inSubtree lvl c e.1 &&
    e.2.cx.pend.any (fun d => d.isGranted && k.conflicts d))

/-- The reservation of another core stands against chunk `k`. -/
def State.reserveBlocked (s : State) (cs : List Nat) (k : Chunk) : Bool :=
  match s.rsvHolder with
  | none => false
  | some h => !cs.contains h && (match (s.cx h).rsvPlace with
    | some i => k.conflicts (((s.cx h).pend ++ [(s.cx h).chunk]).getD i {})
    | none => false)

/-- The place at which the committing chunk of a core waits in its reeve. -/
def State.headPlace (s : State) (c : Nat) : Option Nat :=
  match (s.cx c).pend with
  | k :: _ => match k.st with | .requested p _ => some p | _ => none
  | [] => none

/-- The committing chunk of core `d` has reach 1 to 3. -/
def State.reaches (s : State) (d : Nat) : Bool := ((s.cx d).pend.head?.map (s.reachOf d)).getD 0 != 0

/-- The committing chunk of core `d` is granted at a level with the commit clock's stamp; its commit is logged. -/
def State.grantHead (s : State) (lvl d : Nat) (pa : Option Nat) : State :=
  let x := s.cx d
  let far := s.reaches d
  let s := s.setCx d { x with pend := match x.pend with
    | q :: r => { q with st := .granted s.clock lvl [] } :: r
    | [] => [] }
  if far then s.logCommit (x.launch.getD 0) x.inst (x.commits + 1) pa else s

/-- Grants the waiting commit of core `c` and its gang if nothing stands against it: one stamp of the commit clock (log 123), and the
entries of the commit-order log, whose lines must be free. -/
def State.tryGrant (s : State) (c : Nat) : State :=
  let l := s.launchNo c
  let cs := s.gangCores c
  if !cs.all (fun d => (s.headPlace d).isSome) then s
  else match s.replayNext l with
    | (s, .error _) => s
    | (s, .ok named) =>
      let s := s.replayCheck l named
      let lvl := s.reeveLevel c
      let k := s.headSigs cs
      if s.grantBlocked lvl c cs k || s.reserveBlocked cs k || cs.all (fun d => s.replayHolds d named) then s
      else match s.logPlaces l (cs.filter s.reaches).length with
        | (s, .error _) => s
        | (s, .ok pas) =>
          let far := cs.filter s.reaches
          cs.foldl (fun s d => s.grantHead lvl d ((pas[far.idxOf d]?).getD none)) { s with clock := s.clock + 1 }

/-- The cores whose commits wait in a reeve, in arrival order. -/
def State.waitingCommits (s : State) : List Nat :=
  ((s.cores.keys.filterMap (fun c => (s.headPlace c).map (fun p => (p, c)))).mergeSort (fun a b => decide (a.1 ≤ b.1))).map (·.2)

/-- Retests the waiting commits in arrival order (06 R200 step 3). -/
def State.retest (s : State) : State := s.waitingCommits.foldl State.tryGrant s

/-- COMMIT_REQUEST: the signatures of a committing chunk arrive at the reeve of its reach (06 R200 step 2). -/
def execCommitRequest (s : State) : Ans :=
  let c := s.cur.core
  let cs := s.gangCores c
  if !cs.all s.headCut || cs.any s.commitHeld then .next s
  else if s.headReach c = 0 then .next (s.commitLocal c 3)
  else
    let s := { s with arrivals := s.arrivals + 1 }
    let s := cs.foldl (fun s d => s.upCx d (fun x => { x with pend := match x.pend with
      | q :: r => { q with st := .requested s.arrivals s.cycle } :: r
      | [] => [] })) s
    .next (s.tryGrant c)

/-! ## Write signatures (06 R200 steps 4–7) -/

/-- The first ungranted chunk of core `d`, but for the reserved one, whose signatures a write signature meets: its place among the
core's chunks. -/
def State.sigVictim (s : State) (d : Nat) (wsig : BitVec 2048) : Option Nat :=
  s.victim d (fun k => sigOverlap wsig k.rsig || sigOverlap wsig k.wsig)

/-- WRITE_SIGNATURE_ARRIVE: the write signature of the granted commit of core `unit` reaches the L1 of the acting core,
which squashes what it meets, except a reserved chunk (R206), and acknowledges. -/
def execWriteSignatureArrive (s : State) : Ans :=
  let d := s.cur.core
  let c := s.cur.unit
  match (s.cx c).pend with
  | k :: r =>
    match k.st with
    | .granted stamp lvl acks =>
      if acks.contains d || d = c || !inSubtree lvl c d then .next s
      else
        let s := s.upCx c (fun x => { x with pend := { k with st := .granted stamp lvl (d :: acks) } :: r })
        if (s.gangCores c).contains d then .next s
        else match s.sigVictim d k.wsig with
          | some i => .next (s.squash d i true)
          | none => .next s
    | _ => .next s
  | [] => .next s

/-- Every L1 of the subtree has acknowledged the commit of core `c`. -/
def State.acknowledged (s : State) (c : Nat) : Bool :=
  match (s.cx c).pend with
  | k :: _ =>
    match k.st with
    | .granted _ lvl acks => s.cores.all (fun e =>
        e.1 == c || !inSubtree lvl c e.1 || !e.2.isRunning || acks.contains e.1)
    | _ => false
  | [] => false

/-- The commit of core `c` takes effect. -/
def State.finishCommit (s : State) (c : Nat) : State :=
  match (s.cx c).pend with
  | k :: _ =>
    match k.st with
    | .granted stamp _ _ => s.applyCommit c stamp (s.reachOf c k)
    | _ => s
  | [] => s

/-- COMMIT_FINISH: the commit of the acting core, and of its gang as one unit, is finished; the reeves retest what waits,
and a following chunk of reach 0 commits (06 R200 step 7; 05 R178). -/
def execCommitFinish (s : State) : Ans :=
  let c := s.cur.core
  let cs := s.gangCores c
  if s.takeDue c then .next (s.takeCauses c)
  else if !cs.all s.acknowledged then .next s
  else
    let s := (cs.foldl State.finishCommit s).retest
    .next (cs.foldl (fun s d => s.commitLocal d 3) s)

/-! ## Reservations (06 R206) -/

/-- RESERVATION_REQUEST: a chunk that began with E = 64 after a counted squash asks the package reeve. -/
def execReservationRequest (s : State) : Ans :=
  let c := s.cur.core
  let x := s.cx c
  if (x.chunk :: x.pend).any (·.wantsRsv) && s.rsvHolder != some c && !s.rsvQueue.contains c then
    .next { s with rsvQueue := s.rsvQueue ++ [c] }
  else .next s

/-- RESERVATION_GRANT: the package reeve grants the oldest request, one at a time. -/
def execReservationGrant (s : State) : Ans :=
  match s.rsvHolder, s.rsvQueue with
  | none, c :: r => .next { s with rsvHolder := some c, rsvQueue := r }
  | none, [] => .next s.retest
  | some _, _ => .next s

/-! ## Lateral waits (06 R198) -/

/-- LATERAL_WAIT_RELEASE: the chunk in the way has committed or been squashed, or a reservation decides for the access, which
is tried again. -/
def execLateralWaitRelease (s : State) : Ans :=
  let c := s.cur.core
  match s.thr.stall with
  | some ⟨.lateral _ line wr, _, _⟩ =>
    match s.lineHolder c line wr with
    | some (_, _, granted) => if s.execReserved c && !granted then .next s.waitAgain else .next s
    | none => .next s.waitAgain
  | _ => .next s

/-- LATERAL_WAIT_TIMEOUT: a wait longer than 4,096 cycles squashes the waiting chunk, counted, unless it holds a
reservation. -/
def execLateralWaitTimeout (s : State) : Ans :=
  let c := s.cur.core
  match s.thr.stall with
  | some ⟨.lateral .., _, t⟩ =>
    if s.cycle ≤ t + 4096 || s.execReserved c then .next s else .next (s.squashExec c true)
  | _ => .next s

/-! ## The cut watchdog (06 R219) -/

/-- CUT_WATCHDOG: a requested or length cut has stayed pending too long. The chunk is squashed, and cause 0xB0 arises with the
record of the checkpoint; without a handler, or inside one, it ends the task instance. -/
def execCutWatchdog (s : State) : Ans :=
  let c := s.cur.core
  let x := s.cx c
  let w := fld x.arch.chkCtl 19 16
  match x.chunk.cutSince with
  | none => .next s
  | some t =>
    if w = 0 || s.cycle < t + 2 ^ (w + 15) || x.fin.isSome || !s.cutDue c then .next s
    else
      -- the end of the instance squashes the chunk itself
      let ends := s
      let s := s.squashExec c false
      let a := s.arch c
      let q := s.recNow c a.ct
      if a.trap.stat.getLsbD 0 || a.trap.vec = 0 then .next (ends.endInstance c (s.launchNo c) (ctEnding 0xB0 0 q 0))
      else if a.ct.awaitsCommit then .next ((s.upCx c (fun x => { x with async := { cause := 0xB0 } :: x.async })).takeAsync c)
      else
        let s := s.takeException c 0xB0 true q 0
        .next (s.upCx c (fun x => { x with chunk := { x.chunk with ckpt := x.arch } }))

end Sys2Proof.Machine
end

