-- ==== Sys2Proof/Machine/Barriers.lean ====
section
/-! DEFINITION. Barrier objects (09 R286–R295), domains, `dsync` and `dmem` (R296–R302), and the steps that end their
waits. -/
namespace Sys2Proof.Machine

/-! ## Barrier objects (R286, R287) -/

/-- The registers that a barrier instruction names: the base only in the CT. -/
def State.barBase (s : State) (n : Nat) : List Nat := if s.isCt then [n] else []
/-- An MT names the object by an address register. -/
def State.barField (s : State) (n : BitVec 4) : Bool := !s.isCt && decide (7 < n.toNat)

/-- The object's place: kinds 0 load, 1 store, 2 atomic. -/
def State.objSpot (s : State) (n kind : Nat) : Except Stop Spot := s.spot s.cur.core (s.spBase n) 16 16 kind
/-- The object's name: core × 2^17 + physical unit. -/
def Spot.obj (p : Spot) : Nat := p.core * 2 ^ 17 + p.phys / 16

/-- Fields of bits 63:0 of an object. -/
def objArrived (v : Nat) : Nat := bits v 15 0
def objExpect (v : Nat) : Nat := bits v 31 16
def objPhase (v : Nat) : Nat := bits v 35 32
def objOvr (v : Nat) : Bool := v.testBit 36
def objArmed (v : Nat) : Bool := v.testBit 37
def objDom (v : Nat) : Nat := bits v 55 40
def objLvl (v : Nat) : Nat := bits v 57 56

/-- The object belongs to a domain that the core is not in (R292). -/
def Ctx.otherDomain (x : Ctx) (v : Nat) : Bool :=
  objLvl v != 0 && (!x.inDom (objLvl v) || x.domNo (objLvl v) != objDom v)

/-- The scratchpad address that a record names. -/
def Spot.addr (p : Spot) : Nat := coreIdx p.core * 2 ^ 21 + p.off

/-- The configuration that `barinit` writes (R291). -/
def barWord (x : Ctx) (v : Word) : Nat :=
  let e := fld v 15 0
  let lvl := fld v 17 16
  e * 2 ^ 16 + fld v 21 18 * 2 ^ 32 + b2n (e != 0) * 2 ^ 37 + (if lvl = 0 then 0 else x.domNo lvl) * 2 ^ 40 + lvl * 2 ^ 56

/-- A barrier instruction has named an object in the executing chunk of the acting core: its upper half is a wake list from now on. The
name is the chunk's until it commits, unless it stands already (R288; log 13). -/
def State.nameObj (s : State) (obj : Nat) : State :=
  let inFlight := s.cores.any (fun e => (e.2.cx.chunk :: e.2.cx.pend).any (fun q => q.newObjs.contains obj))
  let mine := (s.cx s.cur.core).chunk.newObjs.contains obj
  if s.objs.contains obj && (!inFlight || mine) then s
  else { s with objs := if s.objs.contains obj then s.objs else obj :: s.objs }.upCx s.cur.core (fun x =>
    { x with chunk := { x.chunk with newObjs := obj :: x.chunk.newObjs } })

/-- `barinit` (R290, R291). -/
def execBarinit (p : Pfx) (f : FAZ) (s : State) : Ans :=
  s.instr p (fun _ => ctOnly { bad := f.z != 0, named := [f.d.toNat, f.s.toNat] }) (fun s =>
    let c := s.cur.core
    let x := s.cx c
    let v := s.x f.d.toNat
    match s.objSpot f.s.toNat 1 with
    | .error e => .error e
    | .ok q =>
      if fld v 17 16 ≠ 0 && !x.inDom (fld v 17 16) then .error (.cause 0xA3 0)
      else match s.spWrite c q (toBytes 8 (barWord x v)) with
        | .error e => .error e
        | .ok s =>
          next ((s.nameObj q.obj).upCx c (fun x => { x with chunk := { x.chunk with wakes := x.chunk.wakes ++ [q.obj] } })))

/-- `barv` (R290, R292). -/
def execBarv (p : Pfx) (f : FI) (s : State) : Ans :=
  let n := f.i.toNat
  s.instr p (fun s => ctOrMt { bad := s.barField f.d, range := n == 0 || decide (16 < n), named := s.barBase f.d.toNat })
    (fun s =>
      let c := s.cur.core
      match s.objSpot f.d.toNat 2 with
      | .error e => .error e
      | .ok q =>
        match s.spRmw c q 8 with
        | .error e => .error e
        | .ok (s, bs) =>
          let v := ofBytes bs
          let a := objArrived v + n
          if !objArmed v then .error (.cause 0xA1 0)
          else if (s.cx c).otherDomain v then .error (.cause 0xA2 0)
          else if objOvr v || objExpect v < a then .error (.overrun q.obj)
          else
            let last := a == objExpect v
            let ph := (objPhase v + b2n last) % 16
            let v' := setBits (setBits v 15 0 (if last then 0 else a)) 35 32 ph
            let s := ((s.nameObj q.obj).vaultWrite q.core q.phys (toBytes 8 v')).requestCut c
            let s := s.emitInChunk c 2 0x10 s.cur.thr (BitVec.ofNat 64 (q.addr + objArrived v' * 2 ^ 32))
            if last then
              let s := s.emitInChunk c 2 0x11 s.cur.thr (BitVec.ofNat 64 (q.addr + ph * 2 ^ 32))
              next (s.upCx c (fun x => { x with chunk := { x.chunk with wakes := x.chunk.wakes ++ [q.obj] } }))
            else next s)

/-- The objects on which threads of a core, but not thread `t`, are parked. -/
def State.parkedOn (s : State) (c t : Nat) : List Nat :=
  ((threadsOf c).filterMap (fun i => if i = t then none else match (s.thrAt c i).stall with
    | some ⟨.barrier o _ _, _, _⟩ => some o
    | _ => none)).eraseDups

/-- t0 of the acting thread's `barw`: the cycle at which it first waited; the current one if it begins (R294). -/
def State.barSince (s : State) : Nat := s.thr.t0.getD s.cycle

/-- No limit (R294). -/
abbrev noLimit : Nat := 0xFFFFFFFF

/-- `barw` (R290, R294). -/
def execBarw (p : Pfx) (f : FAZ) (s : State) : Ans :=
  s.instr p (fun s => ctOrMt { reg := true, lack := !hasReg p
                               bad := decide (7 < f.d.toNat) || s.barField f.s || f.z != 0 || regV p != 0
                               named := s.barBase f.s.toNat ++ [regT p] }) (fun s =>
    let c := s.cur.core
    let w := s.x (regT p)
    let lim := fld w 35 4
    match s.objSpot f.s.toNat 0 with
    | .error e => .error e
    | .ok q =>
      match s.spRead c q 8 with
      | .error e => .error e
      | .ok (s, bs) =>
        let v := ofBytes bs
        if !objArmed v then .error (.cause 0xA1 0)
        else if (s.cx c).otherDomain v then .error (.cause 0xA2 0)
        else if objPhase v ≠ fld w 3 0 then next ((s.nameObj q.obj).setF f.d.toNat true)
        else if lim ≠ noLimit && lim ≤ s.cycle - s.barSince then next ((s.nameObj q.obj).setF f.d.toNat false)
        else if !(s.parkedOn c s.cur.thr).contains q.obj && 4 ≤ (s.parkedOn c s.cur.thr).length then .error (.cause 0xA5 0)
        else .error (.wait (.barrier q.obj lim false)))

/-- A parked thread is to read its object again. -/
def Thr.wake (t : Thr) (obj : Nat) : Thr :=
  match t.stall with
  | some ⟨.barrier o l _, n, b⟩ => if o = obj then { t with stall := some ⟨.barrier o l true, n, b⟩ } else t
  | _ => t

/-- BARRIER_WAKE: the oldest wake message of the acting core wakes the threads that are parked on its object (R294). -/
def execBarrierWake (s : State) : Ans :=
  let c := s.cur.core
  match (s.core c).wakes with
  | [] => .next s
  | o :: r =>
    let s := s.upCore c (fun k => { k with wakes := r })
    let ts := (threadsOf c).filter (fun t => match (s.thrAt c t).stall with
      | some ⟨.barrier o' _ _, _, _⟩ => o' == o
      | _ => false)
    .next (ts.foldl (fun s t =>
      (s.upThrAt c t (·.wake o)).emit c (s.launchNo c) 2 0x13 t 0 (BitVec.ofNat 64 (s.objAddr (s.launchNo c) o))) s)

/-- BARW_TIMEOUT: the limit of a parked thread is over; it reads its object once more (R294). -/
def execBarwTimeout (s : State) : Ans :=
  let c := s.cur.core
  match s.thr.stall with
  | some ⟨.barrier o l false, _, t⟩ =>
    if l = noLimit || s.cycle < s.thr.t0.getD t + l || s.cutStands c then .next s
    else
      let s := s.upThr (·.wake o)
      .next (s.emit c (s.launchNo c) 2 0x14 s.cur.thr 0 (BitVec.ofNat 64 (s.objAddr (s.launchNo c) o)))
  | _ => .next s

/-! ## Domains (R298) -/

/-- The cluster, die or package that keeps the domains of a level for a core. -/
def domPlace (lvl c : Nat) : Nat := match lvl with | 1 => clusterOf c | 2 => dieOf c | _ => 0

/-- The record is that of a domain. -/
def Dom.is (d : Dom) (lvl place id : Nat) : Bool := d.lvl == lvl && d.place == place && d.id == id

/-- The domain that a context of core `c` belongs to at a level. -/
def State.domOf (s : State) (c lvl : Nat) (x : Ctx) : Option Dom := s.doms.find? (·.is lvl (domPlace lvl c) (x.domNo lvl))

/-- Deterministic updates of a phase that have been released and not applied (10 R313). -/
def State.detPending (s : State) (d : Dom) : Bool :=
  s.dets.any (fun h => h.lvl == d.lvl && h.place == d.place && h.id == d.id && h.ph == d.ph) ||
  s.cores.any (fun e => domPlace d.lvl e.1 == d.place && e.2.detOut.any (fun q => match q.2.det with
    | some (_, _, lvl, id, ph) => lvl == d.lvl && id == d.id && ph == d.ph
    | none => false))

/-- A copy of launch `l` is bound to a level, and to a phase where one is given (07 R242). -/
def CopyCmd.bound (q : CopyCmd) (l lvl : Nat) (ph : Option Nat) : Bool :=
  q.launch == l && tPlvl q.t == lvl && (match ph with | some n => tPhase q.t == n | none => true)

/-- A bound copy of launch `l` on core `c` is released and neither complete nor discarded by its failure. -/
def State.boundOpen (s : State) (c l lvl : Nat) (ph : Option Nat) : Bool :=
  (s.core c).chans.any (fun ch => ch.2.open.any (fun q => q.1.bound l lvl ph && !(ch.2.st == .failed && ch.2.cur == some q.1)))

/-- A bound copy of launch `l` on core `c` is not complete: a released one, or one that a chunk in flight holds (07 R242). -/
def State.boundCopy (s : State) (c l lvl : Nat) (ph : Option Nat) : Bool :=
  (s.core c).chans.any (fun ch => ch.2.open.any (fun q => q.1.bound l lvl ph)) ||
    (s.cx c).inFlight.any (fun h => match h with | .copy q => q.bound l lvl ph | _ => false)

/-- Every member of a domain has arrived, and every copy that is bound to its phase is complete (R298, R300). -/
def State.phaseMet (s : State) (d : Dom) : Bool :=
  !d.members.isEmpty && d.arrived.length == d.members.length && d.members.all (fun m => !s.boundCopy m.1 m.2 d.lvl (some d.ph))

/-- Every member has arrived, the copies bound to the phase are complete, and the updates of a deterministic phase are applied: the
phase ends, and every member is told (R298, R300; 10 R313). -/
def State.endPhase (s : State) (lvl place id : Nat) : State :=
  match s.doms.find? (·.is lvl place id) with
  | none => s
  | some d =>
    if !s.phaseMet d || (d.det && s.detPending d) then s
    else
      let s := { s with doms := s.doms.map (fun q =>
        if q.is lvl place id then { q with ph := (q.ph + 1) % 16, arrived := [] } else q) }
      d.members.foldl (fun s m => s.upCore m.1 (fun k => { k with phaseEnds := k.phaseEnds ++ [(m.2, lvl)] })) s

/-- A member leaves a domain, its arrival with it; the last one ends the domain (R298, R301, R302). -/
def State.leaveDom (s : State) (c l lvl id : Nat) : State :=
  let place := domPlace lvl c
  let drop := fun (q : Dom) =>
    if q.is lvl place id then
      { q with members := q.members.filter (· != (c, l)), arrived := q.arrived.filter (· != (c, l)) } else q
  let doms := (s.doms.map drop).filter (fun q => !(q.is lvl place id && q.members.isEmpty))
  let s := { s with doms := doms }
  s.endPhase lvl place id

/-- A domain with one more member. -/
def Dom.add (q : Dom) (c l : Nat) : Dom := { q with members := List.append q.members [(c, l)] }

/-- A core joins a domain; the first member makes it, with phase 0 (R298, R301). -/
def State.joinDom (s : State) (c l lvl id : Nat) (det : Bool) : State :=
  let place := domPlace lvl c
  if s.doms.any (·.is lvl place id) then
    { s with doms := s.doms.map (fun q => if q.is lvl place id then q.add c l else q) }
  else
    let d : Dom := { lvl := lvl, place := place, id := id, members := [(c, l)], arrived := [], ph := 0, det := det }
    { s with doms := s.doms ++ [d] }

/-- The fields of `DOM_ID` and `DOM_PHASE` of a level. -/
def Ctx.setDomId (x : Ctx) (lvl v : Nat) : Ctx :=
  { x with domId := setFld x.domId (20 * (lvl - 1) + 16) (20 * (lvl - 1)) v }
def Ctx.setDomPh (x : Ctx) (lvl ph : Nat) (arr : Bool) : Ctx :=
  { x with domPhase := setFld x.domPhase (8 * (lvl - 1) + 4) (8 * (lvl - 1)) (ph % 16 + b2n arr * 16) }

/-! ## `dsync` (R299) -/

/-- `dsync`: it requests a cut and waits; DSYNC_ARRIVAL and PHASE_END_RECEIVE carry it on. -/
def execDsync (p : Pfx) (f : FI) (s : State) : Ans :=
  let lvl := f.i.toNat
  s.instr p (fun _ => ctOnly { bad := f.d != 0, range := lvl == 0 || decide (3 < lvl) }) (fun s =>
    let c := s.cur.core
    if !(s.cx c).inDom lvl then .error (.cause 0xA3 0)
    else .ok ((s.requestCut c).upThr (fun t => { t with stall := some ⟨.phaseEnd lvl, s.cur.len, s.cycle⟩ }), .hold))

/-- The CT stands in `dsync` at a level. -/
def Arch.inDsync (a : Arch) (lvl : Nat) : Bool :=
  match a.ct.stall with
  | some ⟨.phaseEnd l, _, _⟩ => l == lvl
  | _ => false

/-- The cut of the `dsync` has fallen, and every chunk before it has committed. -/
def Ctx.dsyncCut (x : Ctx) (lvl : Nat) : Bool :=
  x.arch.inDsync lvl && x.chunk.ckpt.inDsync lvl && x.pend.all (fun k => k.ckpt.inDsync lvl)

/-- The sequence counters of the deterministic updates begin again for a level: what is committed from now on counts in the next phase (10
R311, log 136). -/
def Ctx.clearSeq (x : Ctx) (lvl : Nat) : Ctx := if fld x.damStat 1 0 = lvl then { x with detSeq := [] } else x

/-- A context has arrived in the open phase of a level (R299). -/
def Ctx.arrive (x : Ctx) (lvl : Nat) : Ctx := (x.setDomPh lvl (x.domPh lvl) true).clearSeq lvl

/-- DSYNC_ARRIVAL: the arrival of the acting core at level `unit` reaches its reeve (R298, R299). A change of membership that was
released before the `dsync` takes effect first (R301). -/
def execDsyncArrival (s : State) : Ans :=
  let c := s.cur.core
  let lvl := s.cur.unit
  let x := s.cx c
  let l := s.launchNo c
  if !x.dsyncCut lvl || !x.inDom lvl || x.domArr lvl || s.boundCopy c l lvl (some (x.domPh lvl)) || x.fin.isSome ||
      (s.core c).dmems.any (fun e => e.1 == l && e.2.1 == lvl) then .next s
  else
    let place := domPlace lvl c
    let id := x.domNo lvl
    let s := s.emit c l 3 0x18 16 0 (BitVec.ofNat 64 (lvl + x.domPh lvl * 16))
    let s := s.setCx c ((s.cx c).arrive lvl)
    let s := { s with doms := s.doms.map (fun (q : Dom) =>
      if q.is lvl place id && !q.arrived.contains (c, l) then { q with arrived := q.arrived ++ [(c, l)] } else q) }
    .next (s.endPhase lvl place id)

/-- The CT passes its `dsync`; in a checkpoint as well, so that no squash repeats it. -/
def Arch.passDsync (a : Arch) (lvl : Nat) : Arch :=
  if a.inDsync lvl then
    { a with ct := a.ct.goesOn }
  else a

/-- A context after the end of a phase. -/
def Ctx.passPhase (x : Ctx) (lvl : Nat) : Ctx :=
  let x := x.setDomPh lvl ((x.domPh lvl + 1) % 16) false
  { x with
    arch := x.arch.passDsync lvl
    chunk := { x.chunk with ckpt := x.chunk.ckpt.passDsync lvl
                            retired := x.chunk.retired + b2n (x.arch.inDsync lvl) }
    pend := x.pend.map (fun k => { k with ckpt := k.ckpt.passDsync lvl }) }

/-- A phase end can be taken: its context stands in the `dsync`, after the cut; or its task instance is over. -/
def State.phaseEndDue (s : State) (c : Nat) (e : Nat × Nat) : Bool :=
  match s.launchCx c e.1 with
  | some x => x.dsyncCut e.2 && !s.boundCopy c e.1 e.2 (some (x.domPh e.2)) && !((s.cx c).launch == some e.1 && s.cutStands c)
  | none => !s.images.any (fun im => im.core == c && im.ctx.launch == some e.1)

/-- The reeves look again at the domains of the running context of core `c`: what held the end of a phase may be gone by a squash
(R300). -/
def State.endPhases (s : State) (c : Nat) : State :=
  [1, 2, 3].foldl (fun s lvl => if (s.cx c).inDom lvl then s.endPhase lvl (domPlace lvl c) ((s.cx c).domNo lvl) else s) s

/-- PHASE_END_RECEIVE: the oldest phase end that was sent to the acting core and can be taken ends its `dsync` (R298, R299;
10 R311). -/
def execPhaseEndReceive (s : State) : Ans :=
  let c := s.cur.core
  match (s.core c).phaseEnds.find? (s.phaseEndDue c) with
  | none => .next (s.endPhases c)
  | some (l, lvl) =>
    let s := s.upCore c (fun k => { k with phaseEnds := k.phaseEnds.erase (l, lvl) })
    match s.launchCx c l with
    | none => .next s
    | some x =>
      let s := s.emit c l 3 0x19 16 0 (BitVec.ofNat 64 (lvl + x.domPh lvl * 16))
      .next (s.upLaunchCx c l (·.passPhase lvl))

/-! ## `dmem` (R301) -/

/-- The three forms of `dmem`. -/
def State.dmem (s : State) (p : Pfx) (f : FAZ) (lvl : Nat) : Ans :=
  s.instr p (fun _ => ctOnly { super := true, bad := f.d != 0 || f.z != 0, named := [f.s.toNat] }) (fun s =>
    let v := s.x f.s.toNat
    if v.getLsbD 17 && !s.feature 3 then .error (.cause 0x1F 0)
    else if v.getLsbD 17 && !v.getLsbD 16 then .error (.cause 0x08 0)
    else if (s.cx s.cur.core).domArr lvl then .error (.cause 0xA4 0)
    else s.holdCmd (.dmem lvl v))

/-- `dmem.cl`. -/
def execDmemCl (p : Pfx) (f : FAZ) (s : State) : Ans := s.dmem p f 1
/-- `dmem.die`. -/
def execDmemDie (p : Pfx) (f : FAZ) (s : State) : Ans := s.dmem p f 2
/-- `dmem.pkg`. -/
def execDmemPkg (p : Pfx) (f : FAZ) (s : State) : Ans := s.dmem p f 3

/-- A join that R301 refuses: another mark than the domain's, or a second deterministic level. -/
def State.joinBad (s : State) (c lvl : Nat) (x : Ctx) (v : Word) : Bool :=
  let det := v.getLsbD 17
  let dam := fld x.damStat 1 0
  v.getLsbD 16 &&
  ((match s.doms.find? (·.is lvl (domPlace lvl c) (fld v 15 0)) with | some d => d.det != det | none => false) ||
    (det && dam != 0 && dam != lvl))

/-- A membership change takes effect, of a context in a slot or in its image. -/
def State.changeDom (s : State) (c l lvl : Nat) (x : Ctx) (v : Word) : State :=
  let s := if x.inDom lvl then s.leaveDom c l lvl (x.domNo lvl) else s
  let s := if v.getLsbD 16 then s.joinDom c l lvl (fld v 15 0) (v.getLsbD 17) else s
  let ph := match s.doms.find? (·.is lvl (domPlace lvl c) (fld v 15 0)) with
    | some d => if v.getLsbD 16 then d.ph else x.domPh lvl
    | none => x.domPh lvl
  let dam := fld x.damStat 1 0
  let s := s.upCore c (fun k => { k with phaseEnds := k.phaseEnds.filter (· != (l, lvl)) })
  s.upAnyCx c l (fun x =>
    let x := ((if v.getLsbD 17 then { x with detSeq := [] } else x.clearSeq lvl).setDomId lvl (fld v 16 0)).setDomPh lvl ph false
    { x with damStat := if v.getLsbD 17 then BitVec.ofNat 64 lvl else if dam = lvl then 0 else x.damStat })

/-- DMEM_RELEASE: the oldest released membership change of the acting core, once the copies bound to its level have
completed. -/
def execDmemRelease (s : State) : Ans :=
  let c := s.cur.core
  match (s.core c).dmems with
  | [] => .next s
  | (l, lvl, v) :: r =>
    if s.boundOpen c l lvl none then .next s
    else
      let s := s.upCore c (fun k => { k with dmems := r })
      match s.launchCx c l with
      | none => .next s
      | some x =>
        if s.joinBad c lvl x v then .next (s.endInstance c l (endingOf 0xB6 0))
        else .next (s.changeDom c l lvl x v)

/-- An ending task instance leaves its domains at every level at which its bound copies are complete or discarded (R302). -/
def State.leaveAll (s : State) (c l : Nat) : State :=
  [1, 2, 3].foldl (fun s lvl =>
    match s.anyCx c l with
    | some x => if x.inDom lvl && !s.boundOpen c l lvl none then s.changeDom c l lvl x 0 else s
    | none => s) s

end Sys2Proof.Machine
end

