-- ==== Sys2Proof/Machine/ErrorLog.lean ====
section
/-! DEFINITION. The error log of a die (13 R386, R387). -/
namespace Sys2Proof.Machine

/-- The 32 bytes of a record. -/
def ErrRec.word (r : ErrRec) (seq : Nat) : Nat :=
  r.cause.toNat + r.outcome % 4 * 2 ^ 8 + b2n r.mapped * 2 ^ 10 + b2n r.restart * 2 ^ 11 +
    (if r.pkgu then 2 ^ 28 else r.core % 4096 * 2 ^ 16) + seq % 2 ^ 32 * 2 ^ 32 + r.loc % 2 ^ 64 * 2 ^ 64 +
    r.cycle % 2 ^ 64 * 2 ^ 128 + r.inst % 2 ^ 16 * 2 ^ 192 + r.lseq % 2 ^ 32 * 2 ^ 208

/-- The sequence number that the next record of a die takes. -/
def State.logSeq (s : State) (die : Nat) : Nat := fld (s.dieReg die 0x058) 31 0

/-- Writes a record with a sequence number; a full log drops it (R386). -/
def State.logWith (s : State) (r : ErrRec) (seq : Nat) : State :=
  let b := s.dieReg r.die 0x048
  let t := s.dieReg r.die 0x058
  let tail := fld t 31 0
  let used := (tail + 2 ^ 32 - fld (s.dieReg r.die 0x050) 31 0) % 2 ^ 32
  if fld b 0 0 = 0 || 2 ^ fld b 5 1 ≤ used then
    s.setDieReg r.die 0x058 (setFld t 63 32 (min 0xFFFFFFFF (fld t 63 32 + 1)))
  else
    let s := s.synthNat (fld b 51 12 * 4096 + tail % 2 ^ fld b 5 1 * 32) 32 (r.word seq)
    s.setDieReg r.die 0x058 (setFld t 31 0 ((tail + 1) % 2 ^ 32))

/-- Logs an error. -/
def State.logErr (s : State) (r : ErrRec) : State := s.logWith { r with cycle := s.cycle } (s.logSeq r.die)

/-- The structure, by its number and its row in the table of R380, lies outside the cores: it is one of the cluster, the die or the
package, such as a gather engine or a network engine, or of a steward, which is no core (R387). -/
def errPkgu (c st row : Nat) : Bool :=
  isSteward c || st == 3 || st == 4 || (st == 5 && (row == 1 || row == 3)) || st == 6 || st == 7

/-- What holds a unit: a core, a cluster, or a die with what lies outside its clusters. -/
def errPlace (c st row : Nat) : Nat :=
  if st = 5 && row = 1 then 4100 + clusterOf c else if errPkgu c st row then 4096 + dieOf c else c

/-- The key of a unit in the history of errors. Rows tell units apart but for those of one thread's registers and queues, and of one L1
way, whose lines are uncommitted, clean or dirty (R384). -/
def errKey (st c row unit code : Nat) : Nat :=
  let kind := if st = 0 || st = 2 || st = 3 then 0 else if st = 1 then b2n (row == 3) else row
  ((((st * 4 + kind) * 2 ^ 13) + errPlace c st row) * 2 ^ 8 + unit) * 2 ^ 12 + code

/-- Logs an error, which the history of its unit keeps. -/
def State.logHist (s : State) (r : ErrRec) (t : SelfTest) : State :=
  { s.logErr r with
    errors := (errKey t.st t.core t.row t.unit t.code, s.cycle) :: s.errors.filter (fun e => decide (s.cycle ≤ e.2 + 2 ^ 31)) }

/-- Starts the self-test of a unit after its error (R384). -/
def State.startTest (s : State) (r : ErrRec) (seq : Nat) (t : SelfTest) : State :=
  { s with tick := s.tick + 1, tests := s.tests ++ [{ t with err := { r with cycle := s.cycle }, seq := seq }] }

/-- Logs the failure of a UALink request or bundle, an error of a link, which tests itself: which lane of which port is not told (14 R418;
R384, log 137). -/
def State.logLink (s : State) (r : ErrRec) : State :=
  let w := (Config.freeWord s.tick).toNat
  let t : SelfTest := { err := r, seq := 0, st := 6, row := 0, core := r.die * 1024, unit := w / 4 % 4, code := 1280 + w % 4 }
  (s.logHist r t).startTest r (s.logSeq r.die) t

/-- The task instance and launch of a core, for a record. -/
def State.recInst (s : State) (c l : Nat) : Nat × Nat :=
  match s.anyCx c l with
  | some x => (x.inst, ((s.launch l).map (·.seq)).getD 0)
  | none => (0xFFFF, 0)

end Sys2Proof.Machine
end

