-- ==== Sys2Proof/Machine/Near.lean ====
section
/-! DEFINITION. Page 2 instructions with near results: `chkcfg` (06 R220), `seedrd` (12 R369), `digrd` (12 R372), and the
removal of translations by `tlbi` (10 R320). -/
namespace Sys2Proof.Machine

/-! ## `chkcfg` (06 R191, R220) -/

/-- The executing chunk holds the reservation (06 R191, R206). -/
def State.hasRsv (s : State) (c : Nat) : Bool := s.execReserved c

/-- `CHK_STAT` (06 R191). -/
def State.chkStat (s : State) (c : Nat) : Word :=
  let x := s.cx c
  BitVec.ofNat 64 (x.eff % 2 ^ 15 + b2n (s.hasRsv c) * 2 ^ 15 + x.reach % 4 * 2 ^ 16 + x.chunk.sq % 4 * 2 ^ 18 +
    x.squashes % 2 ^ 32 * 2 ^ 32)

/-- `chkcfg.len`. -/
def execChkcfgLen (p : Pfx) (f : FAZ) (s : State) : Ans :=
  s.instr p (fun _ => ctOnly { bad := f.z != 0, named := [f.d.toNat, f.s.toNat] }) (fun s =>
    let c := s.cur.core
    let n := (s.x f.s.toNat).toNat
    if n < 256 || 16384 < n then .error (.cause 0x1A 0)
    else
      let old := (s.arch c).chkCtl
      next ((s.upArch c (fun a => { a with chkCtl := setFld old 14 0 n })).setX f.d.toNat (BitVec.ofNat 64 (chkTarget old))))

/-- `chkcfg.stat`. -/
def execChkcfgStat (p : Pfx) (f : FAZ) (s : State) : Ans :=
  s.instr p (fun _ => ctOnly { bad := f.z != 0 || f.s != 0, named := [f.d.toNat] }) (fun s =>
    next (s.setX f.d.toNat (s.chkStat s.cur.core)))

/-- `chkcfg.order`. -/
def execChkcfgOrder (p : Pfx) (f : FAZ) (s : State) : Ans :=
  s.instr p (fun _ => ctOnly { bad := f.z != 0 || f.s != 0, named := [f.d.toNat] }) (fun s =>
    next (s.setX f.d.toNat (BitVec.ofNat 64 (s.cx s.cur.core).lastStamp)))

/-! ## `seedrd` (12 R369) -/

/-- `seedrd`: entry xs[3:0] from the top, 0 past the depth. -/
def execSeedrd (p : Pfx) (f : FAZ) (s : State) : Ans :=
  s.instr p (fun _ => ctOnly { bad := f.z != 0, named := [f.d.toNat, f.s.toNat] }) (fun s =>
    next (s.setX f.d.toNat ((s.cx s.cur.core).seeds.getD (fld (s.x f.s.toNat) 3 0) 0)))

/-- `seedrd.depth`. -/
def execSeedrdDepth (p : Pfx) (f : FAZ) (s : State) : Ans :=
  s.instr p (fun _ => ctOnly { bad := f.z != 0 || f.s != 0, named := [f.d.toNat] }) (fun s =>
    next (s.setX f.d.toNat (BitVec.ofNat 64 (s.cx s.cur.core).seeds.length)))

/-! ## Instructions that wait for the commits before them (09 R299; 12 R372, R378) -/

/-- The CT waits in its instruction for a reason, in a checkpoint too: its cut has fallen. -/
def State.cutBefore (s : State) (c : Nat) (w : Wait) : Bool :=
  let x := s.cx c
  let waits := fun (a : Arch) => (a.ct.stall.map (·.why)) == some w
  waits x.arch && waits x.chunk.ckpt && x.pend.isEmpty

/-- The instruction requests a cut and waits at its boundary until the earlier chunks of the core have committed; then
`body` completes it. A steward executes no chunks and does not wait (07 R245). -/
def State.afterCommits (s : State) (w : Wait) (body : State → Res) : Res :=
  let c := s.cur.core
  if isSteward c || s.cutBefore c w then body s
  else if s.thr.stall.isSome then .ok (s, .hold)
  else .ok ((s.requestCut c).upThr (fun t => { t with stall := some ⟨w, s.cur.len, s.cycle⟩ }), .hold)

/-! ## `digrd` (12 R372) -/

/-- The digest of the context's launch, or of its queue. -/
def State.digestOf (s : State) (queue : Bool) : Word :=
  match (s.cx s.cur.core).launch.bind s.launch with
  | some v => if queue then (s.queue v.queue).digest.getD 0 else v.digest
  | none => 0

/-- Both forms of `digrd`; the steward executes them as well (07 R245). -/
def State.digrd (s : State) (p : Pfx) (f : FAZ) (queue : Bool) : Ans :=
  s.instr p (fun _ => { who := .ct, super := true, bad := f.z != 0 || f.s != 0, named := [f.d.toNat] }) (fun s =>
    if !s.feature 6 then .error (.cause 0x1F 0)
    else s.afterCommits (.digest queue) (fun s => next (s.setX f.d.toNat (s.digestOf queue))))

/-- `digrd`. -/
def execDigrd (p : Pfx) (f : FAZ) (s : State) : Ans := s.digrd p f false
/-- `digrd.q`. -/
def execDigrdQ (p : Pfx) (f : FAZ) (s : State) : Ans := s.digrd p f true

/-! ## `tlbi` (10 R320) -/

/-- The instruction ends its block, and the thread stands before the next one for a reason. -/
def State.standAfter (s : State) (w : Wait) : State :=
  s.setThr { s.thr.advance s.inBcast s.cur.len with stall := some ⟨w, s.cur.len, s.cycle⟩ }

/-- The four forms of `tlbi`: held for the commit of the chunk; the CT then stands at its block boundary. -/
def State.tlbi (s : State) (p : Pfx) (f : FAZ) (sub : Nat) (noS noD : Bool) : Ans :=
  s.instr p (fun _ => { who := .ct, super := true, bad := f.z != 0 || (noS && f.s != 0) || (noD && f.d != 0)
                        named := (if noS then [] else [f.s.toNat]) ++ (if noD then [] else [f.d.toNat]) }) (fun s =>
    let va := (s.x f.s.toNat).toNat
    let cmd := Cmd.tlbi sub va (s.x f.d.toNat)
    if !s.atSteward && !s.isLast then .error (.cause 0x15 0)
    else if s.atSteward then
      .ok ((s.upCore s.cur.core (fun k => { k with tlbis := k.tlbis ++ [(0, cmd)] })).standAfter .tlbi, .stay)
    else match s.room with
      | .error e => .error e
      | .ok s => .ok ((s.hold cmd).standAfter .tlbi, .stay))

/-- `tlbi.page`. -/
def execTlbiPage (p : Pfx) (f : FAZ) (s : State) : Ans := s.tlbi p f 0 false false
/-- `tlbi.asid`. -/
def execTlbiAsid (p : Pfx) (f : FAZ) (s : State) : Ans := s.tlbi p f 1 true false
/-- `tlbi.all`. -/
def execTlbiAll (p : Pfx) (f : FAZ) (s : State) : Ans := s.tlbi p f 2 true true
/-- `tlbi.wbinv`. -/
def execTlbiWbinv (p : Pfx) (f : FAZ) (s : State) : Ans := s.tlbi p f 3 false false

/-- A translation is removed by a form with its operands. -/
def Xlat.removed (x : Xlat) (sub va : Nat) (xd : Word) : Bool :=
  match sub with
  | 1 => !x.g && x.asid == fld xd 15 0
  | 2 => true
  | _ => decide (bits va 55 54 < 2) && x.vpn == bits va 55 16 && x.g == xd.getLsbD 16 && (x.g || x.asid == fld xd 15 0)

/-- The reverse-map entry of a frame names the page of a VA under the operand of `tlbi` (10 R317). -/
def State.frameIs (s : State) (line va : Nat) (xd : Word) : Bool :=
  let g := xd.getLsbD 16
  bits (s.memNat (s.rmapAddr (line * 64)) 8) 57 0 ==
    1 + b2n g * 2 + (if g then 0 else fld xd 15 0) * 4 + bits va 55 16 * 2 ^ 18

/-- The chunk holds an uncommitted line of the frame. -/
def State.holdsFrame (s : State) (va : Nat) (xd : Word) (k : Chunk) : Bool :=
  (storedLines k.stores).any (fun line => s.frameIs line va xd)

/-- Chunks with an uncommitted line of a frame are squashed without counting. -/
def State.dropFrame (s : State) (va : Nat) (xd : Word) : State :=
  s.cores.keys.foldl (fun s d =>
    let x := s.cx d
    match x.pend.findIdx? (fun k => !k.isGranted && s.holdsFrame va xd k) with
    | some i => s.squash d i false
    | none => if s.holdsFrame va xd x.chunk then s.squashExec d false else s) s

/-- A granted, unfinished commit writes the frame. -/
def State.frameBusy (s : State) (va : Nat) (xd : Word) : Bool :=
  s.cores.any (fun e => e.2.cx.pend.any (fun k => k.isGranted && s.holdsFrame va xd k))

/-- A released atomic or update that is not yet applied was checked under a removed translation (R320: every access that used
it has finished). -/
def State.farUses (s : State) (sub va : Nat) (xd : Word) : Bool :=
  let uses := fun (o : FarOp) => ((s.xlatOf o.asid o.va).map (·.removed sub va xd)).getD false
  s.cores.any (fun e => e.2.atomics.any (fun q => uses q.2) || e.2.detOut.any (fun q => uses q.2)) ||
  s.dets.any (fun h => h.held.any (fun q => uses q.2))

/-- A thread passes a wait that stands after its instruction. -/
def Thr.passWait (t : Thr) (w : Wait) : Thr := if t.stall.map (·.why) = some w then { t with stall := none } else t

/-- Changes a thread in a restored state. -/
def Arch.upThr (a : Arch) (t : Nat) (f : Thr → Thr) : Arch := a.setThr t (f (a.thr t))

/-- Changes a thread of a context and of every checkpoint in it, so that no squash repeats what it waited for. -/
def Ctx.upThrAll (x : Ctx) (t : Nat) (f : Thr → Thr) : Ctx :=
  { x with
    arch := x.arch.upThr t f
    chunk := { x.chunk with ckpt := x.chunk.ckpt.upThr t f }
    pend := x.pend.map (fun k => { k with ckpt := k.ckpt.upThr t f }) }

/-- TLBI_COMPLETE: the oldest removal of the acting core is complete in every die, and its CT goes on (10 R316, R320). -/
def execTlbiComplete (s : State) : Ans :=
  let c := s.cur.core
  match (s.core c).tlbis with
  | (l, .tlbi sub va xd) :: r =>
    let far := decide (bits va 55 54 < 2)
    if (sub = 3 && far && s.frameBusy va xd) || s.farUses sub va xd then .next s
    else
      let s := { s with tlb := s.tlb.filter (fun x => !x.removed sub va xd) }
      let s := if sub = 3 && far then s.dropFrame va xd else s
      let s := s.upCore c (fun k => { k with tlbis := r })
      .next (if isSteward c then s.upCx c (·.upThrAll 16 (·.passWait .tlbi)) else s.upLaunchCx c l (·.upThrAll 16 (·.passWait .tlbi)))
  | _ => .next s

end Sys2Proof.Machine
end

