-- ==== Sys2Proof/Machine/Faults.lean ====
section
/-! DEFINITION. Translation on demand, page faults and their records (10 R314–R322), fault messages and the steward's packets
(07 R243–R247). -/
namespace Sys2Proof.Machine

/-! ## Records (10 R321) -/

/-- The 128-bit identity of a context. -/
def State.identity (s : State) (c l : Nat) : Nat :=
  let x := (s.anyCx c l).getD {}
  let slot := ((s.core c).slotOf l).getD 0
  let seq := ((s.launch l).map (·.seq)).getD 0
  x.asid % 2 ^ 16 + c % 4096 * 2 ^ 16 + slot % 2 * 2 ^ 28 + seq % 2 ^ 32 * 2 ^ 32 + x.inst % 2 ^ 16 * 2 ^ 64 +
    fld (s.pkgReg 0xC800) 9 0 * 2 ^ 80

/-- A record without its sequence number and CYCLE. -/
def postBody (type : Nat) (cause : Cause) (kind va ident blk x30 : Nat) : BitVec 512 :=
  BitVec.ofNat 512 (type + cause.toNat * 2 ^ 8 + kind % 4 * 2 ^ 16 + va % 2 ^ 64 * 2 ^ 64 + ident % 2 ^ 128 * 2 ^ 128 +
    blk % 2 ^ 64 * 2 ^ 320 + x30 % 2 ^ 64 * 2 ^ 384)

/-- The fault queue of a die is in use. -/
def State.fqValid (s : State) (die : Nat) : Bool := fld (s.dieReg die 0x010) 0 0 == 1
/-- It has room. -/
def State.fqRoom (s : State) (die : Nat) : Bool :=
  let n := (fld (s.dieReg die 0x020) 31 0 + 2 ^ 32 - fld (s.dieReg die 0x018) 31 0) % 2 ^ 32
  s.fqValid die && decide (n < 2 ^ fld (s.dieReg die 0x010) 5 1)

/-- Posts the oldest record of a die that is not posted, if the queue has room. -/
def State.postNext (s : State) (die : Nat) : State :=
  match s.posts.findIdx? (fun q => q.die == die && q.seq.isNone) with
  | none => s
  | some i =>
    let base := s.dieReg die 0x010
    let tail := fld (s.dieReg die 0x020) 31 0
    let pa := fld base 51 12 * 4096 + tail % 2 ^ fld base 5 1 * 64
    match s.posts[i]? with
    | none => s
    | some q =>
      if !s.fqRoom die || s.synthBusy none pa then s
      else
        let v := q.body.toNat + tail * 2 ^ 32 + s.cycle % 2 ^ 64 * 2 ^ 256
        let s := s.synthNat pa 64 v
        let s := s.setDieReg die 0x020 (BitVec.ofNat 64 ((tail + 1) % 2 ^ 32))
        { s with posts := if q.whom = .noAnswer then s.posts.eraseIdx i
                          else s.posts.modify i (fun q => { q with seq := some tail }) }

/-- A record is due on a die. -/
def State.post (s : State) (die : Nat) (whom : PostFor) (body : BitVec 512) : State :=
  let q : Posted := { die := die, body := body, whom := whom, seq := none }
  ({ s with posts := s.posts ++ [q] } : State).postNext die

/-- FAULT_RECORD_POST: a waiting record of the acting die is posted once the queue has room (R321). -/
def execFaultRecordPost (s : State) : Ans := .next (s.postNext (dieOf s.cur.core))

/-! ## L2 misses (10 R314–R319) -/

/-- The acting thread's wait ends by a cause: in a gang the other members trap with 0xAB (05 R178). -/
def State.waitFault (s : State) (k : Cause) (info : Word) : State :=
  let c := s.cur.core
  let t := s.cur.thr
  match s.thr.phase with
  | .entry a | .resume a _ _ _ => s.failEntry c t a k info
  | _ => ((s.governed c t).foldl (fun q d =>
      q.mark d t ⟨if d = c then k else 0xAB, if d = c then info else 0, false, 0, 0⟩) s).steppedTrap c

/-- L2_MISS_TRANSLATE: the translation that the acting thread waits for is made; a fault of the walk is its cause. An absent
page is left to PAGE_FAULT_PARK. A thread whose chunk the walk's own update has squashed stands at its checkpoint (06 R207). -/
def execL2MissTranslate (s : State) : Ans :=
  let c := s.cur.core
  match s.thr.stall with
  | some ⟨.translate va kind, _, _⟩ =>
    match s.walk (s.cx c).asid va kind (s.isSup c) (some c) with
    | .ok e x => .next (if e.thr.stall = s.thr.stall then (e.holdXlat x).waitAgain else e.holdXlat x)
    | .fault e reason =>
      .next (if e.thr.stall = s.thr.stall then e.waitFault (accessCause kind reason) (BitVec.ofNat 64 va) else e)
    | .absent | .busy => .next s
    | .invalid => .next (s.endHere 0xB5 0)
    | .poison pa =>
      if bits pa 51 50 = 1 then .next (s.waitFault (accessCause kind 13) (BitVec.ofNat 64 va))
      else .next (s.endHere 0xD2 (BitVec.ofNat 64 va))
    | .lacks => .next (s.waitFault 0x1F 0)
  | _ => .next s

/-- PAGE_FAULT_PARK: the page that the acting thread waits for is absent. The chunk is squashed without counting, the context,
and with it its gang's, is parked, and a record is due (R321; 05 R180). -/
def execPageFaultPark (s : State) : Ans :=
  let c := s.cur.core
  match s.thr.stall with
  | some ⟨.translate va kind, _, _⟩ =>
    match s.walk (s.cx c).asid va kind (s.isSup c) (some c) with
    | .absent =>
      let die := bits va 53 52
      let l := s.launchNo c
      if !s.fqValid die then .next (s.endHere 0xB5 0)
      else
        let blk := match s.thr.phase with | .entry a | .resume a _ _ _ => a | _ => s.thr.blk
        let cs := s.gangCores c
        let t := s.cur.thr
        let s := s.squashExec c false
        let s := cs.foldl (fun s d => s.upCx d (fun x => { x with parked := some ⟨t, va, kind⟩ })) s
        .next (s.post die (.demand c l va kind) (postBody 0 (accessCause kind 10) kind va (s.identity c l) blk.toNat 0))
    | _ => .next s
  | _ => .next s

/-! ## Fault messages (07 R243, R244, R247) -/

/-- The cause that an abandon carries for a unit (07 R247). -/
def unitCause (unit : Nat) : Cause :=
  if unit < 0x40 then 0x81 else if unit < 0x50 then 0x89 else if unit = 0x50 then 0x4A else 0x99

/-- The record that a fault message becomes (R321). -/
def msgRecord (m : Nat) : BitVec 512 :=
  let unit := bits m 19 12
  let cause := bits m 39 32
  let kind := if 0x40 ≤ cause && cause < 0x80 then (cause - 0x40) / 16 else 0
  postBody (if 0x40 ≤ unit && unit < 0x50 then 2 else 1) (unitCause unit) kind (bits m 95 40) (bits m 255 128) 0 0

/-- Forwards a fault message to the host fault queue; a disabled queue ends the task instance concerned (R309). -/
def State.forwardMsg (s : State) (die m : Nat) : State :=
  let c := bits m 11 0
  if s.fqValid die then s.post die (.engine c (bits m 19 12)) (msgRecord m)
  else
    let l := s.launches.find? (fun e => e.2.seq % 2 ^ 32 == bits m 191 160 && (s.anyCx c e.1).isSome)
    match l with
    | some e => s.endInstance c e.1 (endingOf 0xB5 0)
    | none => s

/-- The steward of a die runs. -/
def State.stewardRuns (s : State) (die : Nat) : Bool := fld (s.dieReg die 0x0C0) 1 0 == 1

/-- Its message queue can take a message. -/
def State.mqRoom (s : State) (die : Nat) : Bool :=
  let q := s.dieReg die 0x0D0
  let p := s.dieReg die 0x0D8
  fld q 0 0 == 1 && decide ((fld p 63 32 + 2 ^ 32 - fld p 31 0) % 2 ^ 32 < 2 ^ fld q 5 1)

/-- A fault message of a unit of core `c` goes to the steward of its die, or to the host. -/
def State.faultMsg (s : State) (c unit idx : Nat) (cause : Cause) (va index l : Nat) : State :=
  let die := dieOf c
  let m := c % 4096 + unit % 256 * 2 ^ 12 + idx % 64 * 2 ^ 20 + cause.toNat * 2 ^ 32 + va % 2 ^ 56 * 2 ^ 40 +
    index % 2 ^ 32 * 2 ^ 96 + s.identity c l * 2 ^ 128
  if s.stewardRuns die && s.mqRoom die then
    let q := s.dieReg die 0x0D0
    let p := s.dieReg die 0x0D8
    let tail := fld p 63 32
    let s := s.synthNat (fld q 51 12 * 4096 + tail % 2 ^ fld q 5 1 * 32) 32 m
    s.setDieReg die 0x0D8 (setFld p 63 32 ((tail + 1) % 2 ^ 32))
  else s.forwardMsg die m

/-! ## Packets (07 R244) -/

/-- The command of core `c` at the head of a gather engine's queue. -/
def State.gatherHead (s : State) (c e : Nat) : Option GatherCmd :=
  match s.gathers.get (clusterOf c * 16 + e) [] with
  | g :: _ => if g.core = c then some g else none
  | [] => none

/-- Changes the command at the head of a gather engine's queue. -/
def State.upGather (s : State) (c e : Nat) (f : GatherCmd → GatherCmd) : State :=
  let k := clusterOf c * 16 + e
  match s.gathers.get k [] with
  | g :: r => { s with gathers := s.gathers.put k (f g :: r) }
  | [] => s

/-- A unit of a core stands in REPAIR: the launch of its command and the address of the fault. -/
def State.inRepair (s : State) (c unit : Nat) : Option (Nat × Nat) :=
  if unit < 0x40 then
    let ch := (s.core c).chans.get unit {}
    if ch.st = .repair then ch.cur.map (fun q => (q.launch, ch.fva)) else none
  else if unit < 0x50 then
    (s.gatherHead c (unit - 0x40)).bind (fun g => if g.repair then some (g.launch, g.fva) else none)
  else if unit = 0x50 then ((s.core c).mat.find? (·.repair)).map (fun m => (m.launch, m.fva))
  else if unit = 0x51 then (s.core c).netRepair
  else none

/-- A unit goes on from its faulting line (R243). -/
def State.resumeUnit (s : State) (c unit : Nat) : State :=
  if unit < 0x40 then s.upCore c (fun k => { k with chans := k.chans.upd unit {} (fun ch => { ch with st := .active }) })
  else if unit < 0x50 then s.upGather c (unit - 0x40) (fun g => { g with repair := false })
  else if unit = 0x50 then s.upCore c (fun k =>
    { k with mat := k.mat.modify (k.mat.findIdx (·.repair)) (fun m => { m with repair := false }) })
  else s.upCore c (fun k => { k with netRepair := none })

/-- A unit fails: its task instance ends with a cause. -/
def State.failUnit (s : State) (c unit l : Nat) (cause : Cause) (va : Nat) : State :=
  let s := if unit < 0x40 then
      s.upCore c (fun k => { k with chans := k.chans.upd unit {} (fun ch => { ch with st := .failed }) })
    else if unit < 0x50 then
      { s with gathers := s.gathers.map (fun e => (e.1, e.2.filter (fun g => !(g.core == c && g.launch == l)))) }
    else if unit = 0x50 then s.upCore c (fun k =>
      let no := ((k.mat.find? (·.repair)).map (·.no)).getD 0
      { k with mat := k.mat.filter (fun m => m.launch != l || decide (m.no < no)) })
    else s.upCore c (fun k => { k with netRepair := none })
  s.endInstance c l (endingOf cause (BitVec.ofNat 64 va))

/-- The code is that of a cause (06 R222–R227): the others are unassigned, among them the reasons of R223 that no fetch has. -/
def causeAssigned (k : Cause) : Bool :=
  let n := k.toNat
  n != 0x1E && !(decide (0x27 ≤ n) && decide (n < 0x40)) && ([0x74, 0x79, 0x7B, 0x7E] : List Nat).all (· != n) && !(decide (0xB8 ≤ n) && decide (n < 0xC0))

/-- The cause that an abandon packet gives its unit: the packet's, for a copy or gather; 0x4A for a `gemvh` (10 R328) and 0x99 for the
network (15 R441, R444). A code that is unassigned is never recorded (06 R221): the unit's own cause stands for it (log 114). -/
def Packet.gives (q : Packet) : Cause := if q.unit < 0x50 && causeAssigned q.cause then q.cause else unitCause q.unit

/-- The oldest packet on its way arrives, if it is of the kind. One that names no unit in REPAIR is ignored. An abandon ends the
task instance. -/
def State.packet (s : State) (abandon : Bool) : State :=
  match s.packets with
  | [] => s
  | q :: r =>
    if q.abandon != abandon then s
    else
      let s := { s with packets := r }
      match s.inRepair q.core q.unit with
      | none => s
      | some (l, va) =>
        let s := if q.unit < 0x40 then s.emit q.core l 1 (if abandon then 6 else 5) 16 q.unit (BitVec.ofNat 64 va) else s
        if abandon then s.failUnit q.core q.unit l q.gives va else s.resumeUnit q.core q.unit

/-- RESUME_PACKET (R243). -/
def execResumePacket (s : State) : Ans := .next (s.packet false)
/-- ABANDON_PACKET (R243). -/
def execAbandonPacket (s : State) : Ans := .next (s.packet true)

/-- Sends a packet. -/
def State.sendPacket (s : State) (c unit : Nat) (abandon : Bool) (cause : Cause) : State :=
  { s with packets := s.packets ++ [{ core := c, unit := unit, abandon := abandon, cause := cause }] }

/-- A write of `STW_SEND1`: the packet formed with the last value written to `STW_SEND0` (R246). Codes 2 and 3 are
ignored. -/
def State.stwSend1 (s : State) (die : Nat) (hi : Word) : State :=
  let s := s.setDieReg die 0x0E8 hi
  let lo := s.dieReg die 0x0E0
  if fld lo 21 20 ≤ 1 then s.sendPacket (fld lo 11 0) (fld lo 19 12) (fld lo 21 20 == 1) (BitVec.ofNat 8 (fld lo 29 22)) else s

/-- The PA of message SEQ of a steward's queue. -/
def State.mqAddr (s : State) (die seq : Nat) : Nat :=
  let q := s.dieReg die 0x0D0
  fld q 51 12 * 4096 + seq % 2 ^ fld q 5 1 * 32

/-- A write of `STW_FWD`: message SEQ of the queue is forwarded (R247); one in a poisoned granule cannot be read: 0xD2 is logged, and no
record follows (10 R325). -/
def State.stwFwd (s : State) (die : Nat) (v : Word) : State :=
  let a := s.mqAddr die (fld v 31 0)
  if s.poisoned a 32 then s.logErr { die := bits a 49 48, cause := 0xD2, outcome := 3, pkgu := true, loc := a }
  else s.forwardMsg die (s.memNat a 32)

/-- STW_SEND1 on the acting die. -/
def execStwSend1 (v : BitVec 64) (s : State) : Ans := .next (s.stwSend1 (dieOf s.cur.core) v)
/-- STW_FWD on the acting die. -/
def execStwFwd (v : BitVec 64) (s : State) : Ans := .next (s.stwFwd (dieOf s.cur.core) v)

/-! ## The host's answers (10 R322; 07 R247) -/

/-- A parked context, and those of its gang, can run again; a decline marks the access. -/
def State.readyCx (s : State) (c l va kind : Nat) (decline : Bool) : State :=
  let cs := match (s.anyCx c l).bind (·.arch.gang) with
    | some g => (List.range (2 ^ (g.size + 1))).map (fun i => c - g.pos + i)
    | none => [c]
  let s := cs.foldl (fun s d => s.upAnyCx d l (fun x => { x with parked := none })) s
  if decline then s.upAnyCx c l (fun x => { x with declined := some (va, kind) }) else s

/-- The bundle at the head of a source's order is translated again, or discarded (14 R416). -/
def State.retryBundle (s : State) (src bseq : Nat) (decline : Bool) : State :=
  { s with staged := s.staged.map (fun b =>
      if b.src == src && b.bseq == bseq then { b with waits := false, refused := if decline then some 0x5A else b.refused } else b) }

/-- What the answer to a record does. -/
def State.answerPost (s : State) (q : Posted) (decline : Bool) : State :=
  match q.whom with
  | .demand c l va kind => s.readyCx c l va kind decline
  | .engine c unit => s.sendPacket c unit decline (unitCause unit)
  | .bundle src bseq => s.retryBundle src bseq decline
  | .noAnswer => s

/-- Sequence number `a` stands at or before `b`: the numbers wrap, so within half of their range (R322; DESIGN CHOICE, log 149). -/
def seqLe (a b : Nat) : Bool := decide ((b + 2 ^ 32 - a) % 2 ^ 32 < 2 ^ 31)

/-- A write of `FQ_RPL` on a die: DECLINE = 0 answers every record up to SEQ, 1 declines record SEQ and retires it. -/
def State.fqReply (s : State) (die : Nat) (v : Word) : State :=
  let n := fld v 31 0
  let decline := v.getLsbD 32
  let hit := fun (q : Posted) => q.die == die && (match q.seq with
    | some m => if decline then m == n else seqLe m n
    | none => false)
  let qs := s.posts.filter hit
  qs.foldl (fun s q => s.answerPost q decline) { s with posts := s.posts.filter (fun q => !hit q) }

/-! ## The steward (07 R245, R246) -/

/-- A write of `STW_CFG`: RUN and ENTRY are written; setting RUN from 0 to 1 clears HALTED and starts the steward at ENTRY with
all its registers 0. -/
def State.stwCfg (s : State) (die : Nat) (v : Word) : State :=
  let old := s.dieReg die 0x0C0
  let new := setFld (setFld old 51 3 (fld v 51 3)) 0 0 (fld v 0 0)
  if fld old 0 0 = 0 && fld v 0 0 = 1 then
    let s := s.setDieReg die 0x0C0 (setFld new 1 1 0)
    s.setCore (4096 + die) { slot0 := { st := .running, ctx := { arch :=
      { ct := { phase := .entry (BitVec.ofNat 64 (fld v 51 3 * 8)), boot := true } } } } }
  else s.setDieReg die 0x0C0 new

/-- STEWARD_HALT: a cause in the acting steward without a handler, or inside one, halts it (R246). The step in which it arises
already takes it; this one takes a cause that still stands. -/
def execStewardHalt (s : State) : Ans :=
  if s.atSteward then .next (s.steppedTrap s.cur.core) else .next s

end Sys2Proof.Machine
end

