-- ==== Sys2Proof/Machine/Values.lean ====
section
/-! DEFINITION. The value of an element under its tag and scale (01 R25–R35), and the encoding of a value into an element
(R40, R41). -/
namespace Sys2Proof.Machine

/-- The integer of an integer element; `u` reads it unsigned (01 R19). -/
def intOf (t : Nat) (u : Bool) (c : Nat) : Int := if u then (c : Int) else sextI c (elemBits t)

/-- An MX element under a NaN scale (01 R34; log 24). -/
def nanScaled (t c : Nat) : Num :=
  let v := (Config.scaleNan t c).toNat
  .nan (v.testBit 23) (v % 2 ^ 22 + 2 ^ 22)

/-- The value of an element code. `scale` is the block's scale or exponent byte, 0x7F where a line has none. -/
def elemNum (t : Nat) (u : Bool) (scale c : Nat) : Num :=
  if tagIsInt t then .ofInt (intOf t u c)
  else if tagIsMx t && scale == 0xFF then nanScaled t c
  else if t = tagMxi8 then (Num.ofInt (sextI c 8)).scale ((scale : Int) - 127 - 6)
  else if tagIsBx t then
    if scale = 0xFF then .zero false else (Num.ofInt (sextI c (bxN t))).scale ((scale : Int) - 127 - ((bxN t : Int) - 1))
  else if t = tagE8m0 then (if c = 0xFF then nanScaled t c else .fin false 1 ((c : Int) - 127) false)
  else match fmtOf t with
    | some f => (f.decode c).scale (if tagIsMx t then (scale : Int) - 127 else 0)
    | none => .ofInt c

/-- The largest mantissa magnitude that a conversion delivers in BX-n (01 R35). -/
def bxMax (t : Nat) : Int := 2 ^ (bxN t - 1) - 1

/-- The encoding of a value into an element of type `t` (01 R40). -/
def encodeElem (t : Nat) (u : Bool) (r : Rnd) (scale : Nat) (v : Num) : Nat × Flags :=
  let narrow := fun (q : Int × Flags) => (lowBits q.1 (elemBits t), q.2)
  if tagIsInt t then narrow (encodeInt r (elemBits t) (!u) v)
  else if t = tagMxi8 then narrow (encodeStep r (-127) 127 (-6) (v.scale (127 - (scale : Int))))
  else if tagIsBx t then narrow (encodeStep r (-bxMax t) (bxMax t) ((scale : Int) - 127 - ((bxN t : Int) - 1)) v)
  else match fmtOf t with
    | some f => f.encode r (if tagIsMx t then v.scale (127 - (scale : Int)) else v)
    | none => (0, 0)

/-- The largest power of two that is at most a positive finite magnitude: its exponent. -/
def Num.floorLog2 : Num → Int
  | .fin _ m e _ => e + (m.log2 : Int)
  | _ => 0
/-- Finite, and not zero. -/
def Num.isFinNz : Num → Bool
  | .fin _ m _ _ => m != 0
  | _ => false
/-- The greatest magnitude among the finite values of a list; zero when there is none (04 R142, R144). -/
def amaxOf (vs : List Num) : Num :=
  vs.foldl (fun a v => match v with
    | .fin _ m e st => if numLt a (.fin false m e st) then .fin false m e st else a
    | _ => a) (.zero false)

/-- The exponent of the largest normal of an MX element format (04 R142). -/
def mxEmax (t : Nat) : Int :=
  match t with
  | 8 => 8
  | 9 => 15
  | 10 => 4
  | 11 => 2
  | 12 => 2
  | _ => 0

/-- The scale that `vqmx` chooses for the active elements of a block (04 R142). -/
def chooseMx (t : Nat) (vs : List Num) : Nat :=
  if vs.any Num.isNan || (vs.any Num.isInf && t != tagE5m2) then 0xFF
  else
    let a := amaxOf vs
    if a.isZero then 0x7F else (max 0 (min 254 (a.floorLog2 - mxEmax t + 127))).toNat

/-- The least exponent from `e` on, of `fuel` candidates, under which a magnitude fits BX-n; 254 if none (04 R144). -/
def bxFit (t : Nat) (a : Num) : Nat → Nat → Nat
  | 0, _ => 254
  | fuel + 1, e =>
    if numLt ((Num.ofInt (bxMax t)).scale ((e : Int) - 127 - ((bxN t : Int) - 1))) a then bxFit t a fuel (e + 1) else e

/-- The exponent that `vqbx` chooses for the active elements of a block (04 R144). -/
def chooseBx (t : Nat) (vs : List Num) : Nat :=
  if vs.any Num.isInf then 254
  else
    let a := amaxOf vs
    if a.isZero then 0xFF else bxFit t a 255 0

end Sys2Proof.Machine
end

