-- ==== Sys2Proof/Machine/System.lean ====
section
/-! DEFINITION. Draws, identity values, traps and the return from a handler (03 R105, R106, R110–R112; 06 R218). -/
namespace Sys2Proof.Machine

/-- The number that a thread draws under (03 R105): its package MT number, or 65,536 + the package core number. -/
def drawId (c t : Nat) : Nat := if t = 16 then 65536 + c else c * 16 + t

/-- The next value of a thread's draw stream (03 R105; 01 R27), and the state after it. -/
def State.draw (s : State) : Word × State :=
  let seed := (s.cx s.cur.core).seeds.headD 0
  (fzr4 seed (drawId s.cur.core s.cur.thr) s.thr.srnd, s.upThr (fun t => { t with srnd := t.srnd + 1 }))

/-- `rng` (03 R105). -/
def execRng (p : Pfx) (f : FI) (s : State) : Ans :=
  s.instr p (fun _ => { named := [f.d.toNat] }) (fun s =>
    let v := s.draw
    next (v.2.setX f.d.toNat (if f.i = 0 then v.1 else zextW v.1.toNat f.i.toNat)))

/-- The value of `rdid` (03 R106; 07 R245). -/
def State.idValue (s : State) (sel : Nat) : Word :=
  let c := s.cur.core
  let id := fun n => (s.arch c).ids.get n 0
  if s.atSteward then
    BitVec.ofNat 64 (if sel = 4 then dieOf c else if sel = 17 then s.cycle else 0)
  else match sel with
    | 0 => BitVec.ofNat 64 s.cur.thr
    | 1 => BitVec.ofNat 64 (drawId c s.cur.thr)
    | 2 => BitVec.ofNat 64 (coreIdx c)
    | 3 => BitVec.ofNat 64 (clusterOf c % 4)
    | 4 => BitVec.ofNat 64 (dieOf c)
    | 5 => BitVec.ofNat 64 c
    | 6 => id 0x43
    | 7 => BitVec.ofNat 64 (s.core c).slotNo
    | 8 => id 0x44
    | 9 => id 0x45
    | 10 => id 0x46
    | 11 => id 0x47
    | 12 => id 0x48
    | 13 => id 0x49
    | 14 => id 0x4A
    | 15 => id 0x4B
    | 16 => id 0x4C
    | _ => BitVec.ofNat 64 s.cycle

/-- `rdid` (03 R106). -/
def execRdid (p : Pfx) (f : FI) (s : State) : Ans :=
  s.instr p (fun _ => { range := decide (17 < f.i.toNat), named := [f.d.toNat] }) (fun s =>
    next (s.setX f.d.toNat (s.idValue f.i.toNat)))

/-- `trap` (03 R111): it raises its cause, which the thread takes by 06 R214. -/
def execTrap (p : Pfx) (f : FI) (s : State) : Ans :=
  s.instr p (fun _ => { bad := f.d != 0, range := decide (31 < f.i.toNat) }) (fun _ =>
    .error (.cause (BitVec.ofNat 8 (0xE0 + f.i.toNat)) 0))

/-- `brk` (03 R110): cause 0x14, which halts the thread instead where debug halting is enabled (`haltsOn`). -/
def execBrk (p : Pfx) (f : FA) (s : State) : Ans :=
  s.instr p (fun _ => { bad := f.d != 0 }) (fun _ => .error (.cause 0x14 0))

/-- `eret` (03 R112; 06 R218). -/
def execEret (p : Pfx) (f : FA) (s : State) : Ans :=
  s.instr p (fun _ => { who := .notMt, super := true, bad := f.d != 0 || f.s != 0 }) (fun s =>
    if !(s.arch s.cur.core).trap.stat.getLsbD 0 then .error (.cause 0x16 0)
    else .ok (s.eretTo s.cur.core, .stay))

end Sys2Proof.Machine
end

