-- ==== Sys2Proof/Machine/VecBase.lean ====
section
/-! DEFINITION. Operands of the vector page (04 R116–R131): the REG fields, extents, the steps of the operand check, banks,
reading and writing of elements, masks and increments. -/
namespace Sys2Proof.Machine

/-! ## Prefix fields (04 R120; 02 R50) -/

def vMsel (p : Pfx) : Nat := bits (regPay p) 10 8
def vZ (p : Pfx) : Bool := (regPay p).testBit 7
def vEtag (p : Pfx) : Nat := bits (regPay p) 6 2
def vU (p : Pfx) : Bool := (regPay p).testBit 1
def vInc (p : Pfx) : Bool := (regPay p).testBit 0
/-- The MOD prefix; without one, nothing is modified. -/
def modOf (p : Pfx) : Mod := ⟨modSat p, modClamp p, modNeg p, modAbs p, modK p⟩
/-- Vector length (04 R117). -/
def vLen (f : FV) : Nat := if f.h = 1 then 16 else 32
/-- Element j is active (04 R121); a reduction's mask repeats (R137). -/
def State.active (s : State) (p : Pfx) (j : Nat) : Bool :=
  vMsel p == 0 || (s.mt.getM (vMsel p - 1)).getLsbD (j % 32)

/-! ## Extents (04 R118) -/

/-- Extent of an operand of `n` elements. -/
def opExt (t n : Nat) : Nat := if tagIsBx t then n / 8 else n * elemBits t / 8
/-- Alignment of its offset. -/
def opAligned (t n off : Nat) : Bool :=
  if t = tagI32 || t = tagI64 || t = tagF32 || t = tagAcc then off % 64 == 0
  else if t = tagE3m2 || t = tagE2m3 then off % 24 == 0
  else if tagIsBx t then off % opExt t n == 0 && decide (off % groupBytes t < 64)
  else off % opExt t n == 0
/-- The window bytes of an operand, whole groups of a grouped type (01 R36; 04 R123): first and one past the last. That the whole group of
an operand of `e3m2` or `e2m3` must lie in the window, and not its own 24 bytes alone, is read from 01 R36 (DEDUCED, log 117). -/
def opSpan (t n off : Nat) : Nat × Nat :=
  if 64 < groupBytes t then (off / groupBytes t * groupBytes t, max (off / groupBytes t * groupBytes t + groupBytes t) (off + opExt t n))
  else (off, off + opExt t n)

/-- A checked operand: its first byte, its type and the number of its elements. -/
structure Opnd where
  spot : Spot
  ty : Nat
  n : Nat
deriving DecidableEq, Repr

/-- Window offsets that a byte range touches, line by line: offset and count. -/
def lineParts : Nat → Nat → Nat → List (Nat × Nat)
  | 0, _, _ => []
  | n + 1, lo, hi => if hi ≤ lo then [] else
      let e := min hi (lo / 64 * 64 + 64)
      (lo, e - lo) :: lineParts n e hi

/-- Another window offset of an operand's slot. -/
def Spot.at (p : Spot) (off : Nat) : Spot := ⟨p.core, off, p.phys - p.off + off⟩

/-- The parts of lines that an operand occupies. -/
def Opnd.parts (o : Opnd) : List (Spot × Nat) :=
  let r := opSpan o.ty o.n o.spot.off
  (lineParts 64 r.1 r.2).map (fun e => (o.spot.at e.1, e.2))
/-- Its physical lines. -/
def Opnd.lines (o : Opnd) : List Nat := o.parts.map (fun e => e.1.phys / 64)

/-- Index within its group of the first element. -/
def Opnd.first (o : Opnd) : Nat :=
  if tagIsBx o.ty then 8 * (o.spot.off % 64) else o.spot.off % groupBytes o.ty * 8 / elemBits o.ty

/-! ## Scale bytes (01 R37, R38) -/

/-- The base of the scale region of a core's context. -/
def State.scaleBase (s : State) (c : Nat) : Nat := fld (s.arch c).scaleBase 20 6 * 64
/-- The place of an operand's unit of scale bytes, B of them. -/
def State.unitSpot (s : State) (o : Opnd) : Spot :=
  o.spot.at (scaleOff o.ty o.spot.off (s.scaleBase s.cur.core) 0)
/-- The scale byte of element `j` of an operand. -/
def State.scaleOf (s : State) (o : Opnd) (j : Nat) : Nat :=
  let k := (o.first + j) / blockElems o.ty
  (s.vault.read (o.spot.core * 2 ^ 21 + (s.unitSpot o).phys + k)).toNat
/-- The tag of an operand's first line. -/
def State.opTag (s : State) (o : Opnd) : LineTag := s.lineTag o.spot.core (o.spot.phys / 64)
/-- The operand's elements have paired scales (01 R23). -/
def State.paired (s : State) (o : Opnd) : Bool := (tagIsMx o.ty || tagIsBx o.ty) && (s.opTag o).sp

/-! ## Reading and writing elements -/

/-- The bytes of a place. -/
def State.slotN (s : State) (p : Spot) (n : Nat) : Nat := ofBytes (s.vault.readN (p.core * 2 ^ 21 + p.phys) n)

/-- The element codes of an operand (04 R118). -/
def State.codes (s : State) (o : Opnd) : List Nat :=
  let e := opExt o.ty o.n
  if tagIsBx o.ty then
    let planes := (List.range (bxN o.ty)).map (fun p => s.slotN (o.spot.at (o.spot.off + 64 * p)) e)
    (List.range o.n).map (fun j => (planes.zip (List.range (bxN o.ty))).foldl (fun a q => a + b2n (q.1.testBit j) * 2 ^ q.2) 0)
  else
    let v := s.slotN o.spot e
    (List.range o.n).map (fun j => bits v (elemBits o.ty * j + elemBits o.ty - 1) (elemBits o.ty * j))

/-- The values of an operand. -/
def State.values (s : State) (o : Opnd) (u : Bool) : List Num :=
  let sp := s.paired o
  (s.codes o).zipIdx.map (fun e => elemNum o.ty u (if sp then s.scaleOf o e.2 else 0x7F) e.1)

/-- A number with the listed bit fields of width `w` replaced, from field `j` on; none keeps a field. -/
def mergeCodes (w : Nat) : Nat → List (Option Nat) → Nat → Nat
  | _, [], old => old
  | j, none :: r, old => mergeCodes w (j + 1) r old
  | j, some v :: r, old => mergeCodes w (j + 1) r (setBits old (w * j + w - 1) (w * j) v)

/-- Writes bytes of a checked place as a number. -/
def State.slotPut (s : State) (p : Spot) (n v : Nat) : State := s.vaultWrite p.core p.phys (toBytes n v)

/-- Writes elements; `none` keeps an element (04 R121, R123). -/
def State.putCodes (s : State) (o : Opnd) (cs : List (Option Nat)) : State :=
  let e := opExt o.ty o.n
  if tagIsBx o.ty then
    (List.range (bxN o.ty)).foldl (fun s p =>
      let q := o.spot.at (o.spot.off + 64 * p)
      s.slotPut q e (mergeCodes 1 0 (cs.map (fun c => c.map (fun v => b2n (v.testBit p)))) (s.slotN q e))) s
  else s.slotPut o.spot e (mergeCodes (elemBits o.ty) 0 cs (s.slotN o.spot e))

/-- Tags every line of an operand (01 R21; 04 R123). -/
def State.tagLines (s : State) (o : Opnd) (sp : Bool) : State :=
  o.lines.foldl (fun s l => s.setLineTag o.spot.core l ⟨o.ty, sp⟩) s

/-- Opens parts of lines for reading or writing. -/
def State.openParts (s : State) (rd wr : Bool) : List (Spot × Nat) → Except Stop State
  | [] => .ok s
  | q :: r =>
    match s.openLine s.cur.core q.1 q.2 rd wr with
    | .error e => .error e
    | .ok s => s.openParts rd wr r

/-- Opens an operand, with its unit of scales where asked. -/
def State.openOpnd (s : State) (o : Opnd) (scales rd wr : Bool) : Except Stop State :=
  s.openParts rd wr (o.parts ++ (if scales then [(s.unitSpot o, groupBlocks o.ty)] else []))

/-! ## The check of operands (04 R119) -/

/-- A source operand: its register, and its type where the entry fixes one. -/
structure VSrc where
  reg : Nat
  fixed : Option Nat := none
deriving DecidableEq, Repr

/-- What the check needs to know of an instruction. -/
structure VForm where
  /-- sources, in the order `aa`, `ab`, `ad` -/
  srcs : List VSrc
  /-- the destination's address register, if it is not a mask -/
  dst : Option Nat := none
  /-- the destination is read as well, as its own type (`vmac`, reductions with sub-operation 1): it is checked as a source (log 62) -/
  back : Bool := false
  /-- the destination's type, from the element type -/
  dstTy : Nat → Nat := id
  /-- a converting instruction: ETAG is the target -/
  conv : Bool := false
  /-- sources of 256 elements, a destination of one (R137) -/
  chunk : Bool := false
  /-- element types accepted (R127) -/
  accept : Nat → Bool
  /-- targets accepted -/
  target : Nat → Bool := fun _ => true
  /-- the instruction rounds, under its rounding field (R128) -/
  rounds : Bool := false
  /-- the destination takes paired scales: always (quantisation) or as the source has them (`vmov`) -/
  scales : Bool := false
  copies : Bool := false
  /-- sub-operation 1 of `vcvt` reads an integer source unsigned -/
  usrc : Bool := false

/-- The checked operands of an instruction, and its element type. -/
structure VSet where
  ty : Nat
  srcs : List Opnd
  dst : Option Opnd
deriving DecidableEq, Repr

/-- The address in an address register. -/
def State.adr (s : State) (r : Nat) : Nat := (s.mt.getA r).toNat

/-- Step 1: the byte at an operand's address. -/
def State.baseSpot (s : State) (a kind : Nat) : Except Stop Spot := s.spot s.cur.core a 1 1 kind

/-- Step 1 for a list of registers. -/
def State.bases (s : State) (kind : Nat) : List Nat → Except Stop (List Spot)
  | [] => .ok []
  | r :: rs =>
    match s.baseSpot (s.adr r) kind with
    | .error e => .error e
    | .ok p =>
      match s.bases kind rs with
      | .error e => .error e
      | .ok ps => .ok (p :: ps)

/-- The rounding mode in force (01 R26). -/
def State.vMode (s : State) (f : FV) : RMode := rmodeOf (if f.r = 7 then fld s.mt.fmtCtl 2 0 else f.r.toNat)

/-- A feature that an element type depends on is not enabled (13 R395). -/
def State.featOff (s : State) (v : VForm) (f : FV) (t : Nat) : Bool :=
  (tagIsBx t && !s.feature 1) || (v.rounds && (v.conv || !tagIsInt t) && t != 0 && s.vMode f == .sr && !s.feature 2)

/-- An extent must lie in the window; the cause names the operand's address. -/
def State.inside (s : State) (lo hi addr kind : Nat) : Except Stop Unit :=
  match s.spot s.cur.core (addr / 2 ^ 21 * 2 ^ 21 + lo) (hi - lo) 1 kind with
  | .error (.cause c _) => .error (.cause c (BitVec.ofNat 64 addr))
  | .error e => .error e
  | .ok _ => .ok ()

/-- Step 3 for one operand: alignment, extent, and the scale bytes where they are paired. -/
def State.geometry (s : State) (p : Spot) (addr t n kind : Nat) (paired : Bool) : Except Stop Opnd :=
  let o : Opnd := ⟨p, t, n⟩
  let r := opSpan t n p.off
  if !opAligned t n p.off then .error (accessFault kind 0 addr)
  else match s.inside r.1 r.2 addr kind with
    | .error e => .error e
    | .ok _ =>
      if paired then
        let u := s.unitSpot o
        match s.inside u.off (u.off + groupBlocks t) (addr / 2 ^ 21 * 2 ^ 21 + u.off) kind with
        | .error e => .error e
        | .ok _ => .ok o
      else .ok o

/-- Step 3 for the single result element of a reduction (R137): misaligned, it raises 0x50 also where it is read. -/
def State.geometry1 (s : State) (p : Spot) (addr t kind : Nat) : Except Stop Opnd :=
  if p.off % opExt t 1 ≠ 0 then .error (accessFault 1 0 addr)
  else match s.inside p.off (p.off + opExt t 1) addr kind with
    | .error e => .error e
    | .ok _ => .ok ⟨p, t, 1⟩

/-- Step 3 for the sources. -/
def State.geometries (s : State) (t n : Nat) : List (VSrc × Spot) → Except Stop (List Opnd)
  | [] => .ok []
  | (v, p) :: r =>
    let ty := v.fixed.getD t
    match s.geometry p (s.adr v.reg) ty n 0 ((tagIsMx ty || tagIsBx ty) && (s.lineTag p.core (p.phys / 64)).sp) with
    | .error e => .error e
    | .ok o =>
      match s.geometries t n r with
      | .error e => .error e
      | .ok os => .ok (o :: os)

/-- Tags of an operand's lines. -/
def State.opTags (s : State) (o : Opnd) : List LineTag := o.lines.map (s.lineTag o.spot.core)
/-- The lines of a group differ in tag or SP (01 R36). -/
def State.groupBroken (s : State) (o : Opnd) : Bool :=
  decide (64 < groupBytes o.ty) && (s.opTags o).any (· != s.opTag o)
/-- Some line has another tag than `t` and is not `raw`. -/
def State.mixed (s : State) (o : Opnd) (t : Nat) : Bool := (s.opTags o).any (fun l => l.tag != 0 && l.tag != t)

/-- Two used operands with different addresses in the local slot have the same bank (R129). -/
def bankClash : List Nat → Bool
  | [] => false
  | a :: r => r.any (fun b => a != b && bits a 8 5 == bits b 8 5) || bankClash r

/-- The registers of the address operands with their extents. -/
def VSet.extents (v : VForm) (q : VSet) : List (Nat × Nat) :=
  (v.srcs.zip q.srcs).map (fun e => (e.1.reg, opExt e.2.ty e.2.n)) ++
    (match v.dst, q.dst with | some r, some o => [(r, opExt o.ty o.n)] | _, _ => [])

/-- One register names operands of different extents (R122). -/
def incClash (es : List (Nat × Nat)) : Bool := es.any (fun a => es.any (fun b => a.1 == b.1 && a.2 != b.2))

/-- The element type T0 of step 2: ETAG, else the first tag that is not `raw`. -/
def State.firstType (s : State) (p : Pfx) (v : VForm) (ps : List (VSrc × Spot)) : Option Nat :=
  let t := if v.conv then 0 else vEtag p
  if t != 0 then some t
  else ps.findSome? (fun e =>
    let l := (s.lineTag e.2.core (e.2.phys / 64)).tag
    if e.1.fixed.isSome || l == 0 then none else some l)

/-- The 0x08 that depends on the type (R49, R118, R120, R122, R141, R148). Clamp and k of MOD on a conversion are judged by its target:
they apply where an integer becomes a floating number (log 139). -/
def State.typeBad (p : Pfx) (f : FV) (v : VForm) (t tgt : Nat) (sp : Bool) : Bool :=
  let six := fun k => k == tagE3m2 || k == tagE2m3
  (f.h == 1 && (six t || six tgt || (v.copies && tagIsMx t && sp))) ||
  (vU p && !tagIsInt (if v.conv then tgt else t)) ||
  (v.usrc && !tagIsInt t) ||
  (!v.conv && tagIsInt t && (modClamp p != 0 || modK p != 0)) ||
  (vInc p && incClash (v.srcs.map (fun e => (e.reg, opExt (e.fixed.getD t) (if v.chunk then 256 else vLen f))) ++
    (match v.dst with | some r => [(r, if v.chunk then opExt tgt 1 else opExt tgt (vLen f))] | none => [])))

/-- Opens operands for reading, with their units of scales where asked. -/
def State.openSrcs (s : State) (scales : Bool) : List Opnd → Except Stop State
  | [] => .ok s
  | o :: r =>
    match s.openOpnd o (scales && s.paired o) true false with
    | .error e => .error e
    | .ok s => s.openSrcs scales r

/-- Steps 1 to 4 and the bank check, in order (R119, R155). A line is opened for reading before its tag is looked at, so that an engine's
pending write, or another core's chunk that holds the line, makes the instruction wait, and the line is in the chunk's signatures (R124,
R125, R131). A destination that is read too is a source in steps 1 and 3 (log 62). A
converting instruction with ETAG 0 checks its destination as elements of one byte and then raises 0x24 (DESIGN CHOICE, log 119). -/
def State.vset (s : State) (p : Pfx) (f : FV) (v : VForm) : Except Stop (State × VSet) := do
  chk (s.featOff v f (vEtag p)) 0x1F
  chk (tagReserved (vEtag p)) 0x22
  let n := if v.chunk then 256 else vLen f
  let src ← s.bases 0 (v.srcs.map (·.reg) ++ (if v.back then v.dst.toList else []))
  let dst ← s.bases 1 v.dst.toList
  let ps := v.srcs.zip src
  let s ← s.openParts true false (src.map (fun q => (q, 1)))
  match s.firstType p v ps with
  | none => .error (.cause 0x25 0)
  | some t => do
    let tgt := if v.conv then vEtag p else v.dstTy t
    let sp := match ps.head? with | some e => (s.lineTag e.2.core (e.2.phys / 64)).sp | none => false
    chk (s.featOff v f t) 0x1F
    chk (State.typeBad p f v t tgt sp) 0x08
    let os ← s.geometries t n ps
    let d ← (match v.dst, dst with
      | some r, q :: _ =>
        let kind := if v.back then 0 else 1
        (if v.chunk then s.geometry1 q (s.adr r) tgt kind
         else s.geometry q (s.adr r) tgt (vLen f) kind
           ((v.scales && v.target tgt) || (v.copies && (tagIsMx t || tagIsBx t) && sp))).map some
      | _, _ => .ok none : Except Stop (Option Opnd))
    let s ← s.openSrcs false (os ++ (if v.back then d.toList else []))
    let typed := (v.srcs.zip os).filter (fun e => e.1.fixed.isNone)
    let own := typed.flatMap (fun e => ((s.opTags e.2).map (·.tag)).filter (· != 0))
    let common := own.headD t
    chk (typed.any (fun e => s.groupBroken e.2)) 0x20
    chk (own.any (· != common)) 0x20
    chk ((v.srcs.zip os).any (fun e => match e.1.fixed with | some k => s.mixed e.2 k | none => false)) 0x20
    chk (v.back && v.accept t && (match d with | some o => s.mixed o tgt | none => false)) 0x20
    chk (!v.conv && vEtag p != 0 && common != t) 0x21
    chk (!v.accept t || (v.conv && !v.target tgt)) 0x24
    chk (tagIsBx t && typed.any (fun e => !(s.opTag e.2).sp)) 0x23
    let local' := (os ++ d.toList).filter (fun o => o.spot.core == s.cur.core)
    chk (bankClash (local'.map (fun o => o.spot.off)) && (s.mt.fmtCtl).getLsbD 4) 0x26
    .ok (s, ⟨t, os, d⟩)

/-- The banks clash, so that the instruction counts (R129). -/
def State.clashes (s : State) (q : VSet) : Bool :=
  bankClash (((q.srcs ++ q.dst.toList).filter (fun o => o.spot.core == s.cur.core)).map (fun o => o.spot.off))

/-- Opens every operand: sources to read, the destination to write. -/
def State.vopen (s : State) (v : VForm) (q : VSet) : Except Stop State :=
  match s.openSrcs true q.srcs, q.dst with
  | .error e, _ => .error e
  | .ok s, none => .ok s
  | .ok s, some o =>
    let sp := v.scales || (v.copies && (q.srcs.any (fun i => s.paired i)))
    s.openOpnd o sp (v.back || v.scales) true

/-- The end of a vector instruction: flags, the bank counter and the increments (R122, R128, R129). -/
def State.vdone (s : State) (p : Pfx) (v : VForm) (q : VSet) (clash : Bool) (fl : Flags) : State :=
  let m := s.mt
  let m := { m with
    fmtCtl := orFlags m.fmtCtl fl
    bank := if clash && m.bank != BitVec.allOnes 32 then m.bank + 1 else m.bank }
  let m := if vInc p then
      (q.extents v).eraseDups.foldl (fun m e => m.setA e.1 (m.getA e.1 + BitVec.ofNat 32 e.2)) m
    else m
  s.setMt m

/-- The draws of an instruction that rounds under SR: one for each element position (01 R27). -/
def State.vdraws (s : State) (on : Bool) (n : Nat) : List Nat × State :=
  if !on then (List.replicate n 0, s)
  else
    let seed := (s.cx s.cur.core).seeds.headD 0
    let id := drawId s.cur.core s.cur.thr
    ((List.range n).map (fun j => (fzr4 seed id (s.thr.srnd + BitVec.ofNat 64 j)).toNat % 2 ^ 24),
      s.upThr (fun t => { t with srnd := t.srnd + BitVec.ofNat 64 n }))

/-- The result codes with the inactive elements treated as Z says (R121). -/
def State.masked (s : State) (p : Pfx) (cs : List Nat) : List (Option Nat) :=
  cs.zipIdx.map (fun e => if s.active p e.2 then some e.1 else if vZ p then some 0 else none)

/-- The flags of the active elements. -/
def State.activeFlags (s : State) (p : Pfx) (fs : List Flags) : Flags :=
  fs.zipIdx.foldl (fun a e => if s.active p e.2 then a ||| e.1 else a) 0

/-! ## The frame of a V-form instruction -/

/-- The checks of a V-form instruction before its own faults (R116, R117, R120; 02 R63). `fixedRnd` tells that the
rounding field must be 7. -/
def vRules (p : Pfx) (f : FV) (half : Bool) (unused : Bool) (fixedRnd : Bool) (md : Bool) (bad lack : Bool) : Rules :=
  { who := .mt, reg := true, md := md, lack := lack
    bad := bad || unused || (f.h == 1 && !half) || decide (4 < vMsel p) || f.r == 5 || f.r == 6 || (fixedRnd && f.r != 7) ||
      (vU p && vEtag p != 0 && !tagReserved (vEtag p) && !tagIsInt (vEtag p)) }

/-- A V-form instruction: checks, operands, then an effect on the opened state that gives codes and flags of the
destination. The instruction is one step of the machine: where R124 would let another thread's access fall between two lines of an
operand, it falls before or after all of them (DESIGN CHOICE, log 116). -/
def State.vinstr (s : State) (p : Pfx) (f : FV) (r : Rules) (v : VForm)
    (eff : State → VSet → State × List (Option Nat) × Flags × Bool) : Ans :=
  s.instr p (fun _ => r) (fun s =>
    match s.vset p f v with
    | .error e => .error e
    | .ok (s, q) =>
      let clash := s.clashes q
      match s.vopen v q with
      | .error e => .error e
      | .ok s' =>
        let r := eff s' q
        let s'' := match q.dst with
          | some o => (r.1.putCodes o r.2.1).tagLines o r.2.2.2
          | none => r.1
        next (s''.vdone p v q clash r.2.2.1))

end Sys2Proof.Machine
end

