-- ==== Sys2Proof/Machine/VecConv.lean ====
section
/-! DEFINITION. Conversion, quantisation and tags (04 R141–R147). -/
namespace Sys2Proof.Machine

/-- `acc` is converted as FP32 (R141). -/
def accAs32 (t : Nat) : Nat := if t = tagAcc then tagF32 else t
/-- FP32, FP16, BF16 or `acc`. -/
def floatOrAcc (t : Nat) : Bool := tagIsFloat t || t == tagAcc
/-- Sources and targets of `vcvt` (R141). -/
def cvtType (t : Nat) : Bool := tagIsPlain t || t == tagAcc || tagIsMx t

/-- The form of a converting instruction. -/
def convForm (f : FV) (accept target : Nat → Bool) : VForm :=
  { srcs := [⟨f.a.toNat, none⟩], dst := some f.d.toNat, conv := true, accept := accept, target := target, rounds := true }

/-- A value into a floating target under MOD. -/
def State.cvtFloat (s : State) (p : Pfx) (f : FV) (t z : Nat) (v : Num) : Nat × Flags :=
  (modOf p).apply ((fmtOf t).getD fp32) ⟨s.vMode f, z, false, s.mt.fmtCtl.getLsbD 3⟩ (v, 0)

/-- Conversion of every active element; `usrc` reads integer sources unsigned. -/
def State.convert (s : State) (p : Pfx) (f : FV) (r : Rules) (v : VForm) : Ans :=
  s.vinstr p f r v (fun s q =>
    let tgt := vEtag p
    let z := s.vdraws (s.vMode f == .sr) (vLen f)
    let es := ((q.srcs.head?.map (fun o => s.values o v.usrc)).getD []).zipIdx.map (fun e =>
      let d := z.1.getD e.2 0
      if floatOrAcc tgt then s.cvtFloat p f tgt d e.1
      else encodeElem tgt (vU p) ⟨s.vMode f, d, false, s.mt.fmtCtl.getLsbD 3⟩ 0x7F e.1)
    (z.2, s.masked p (es.map (·.1)), s.activeFlags p (es.map (·.2)), false))

/-- The checks of a converting instruction: `ab` = 0, a REG prefix. -/
def convRules (p : Pfx) (f : FV) (half md : Bool) : Rules := vRules p f half (f.b != 0) false md false (!hasReg p)

/-- `vcvt` (R141): a MOD prefix only with a floating target; with no REG prefix there is none, and MOD is refused as a prefix that the
instruction does not take, before what is missing (log 140). -/
def execVcvt (p : Pfx) (f : FV) (o : BitVec 1) (s : State) : Ans :=
  s.convert p f { convRules p f true true with extra := p.md.isSome && !floatOrAcc (vEtag p) }
    { convForm f cvtType cvtType with usrc := o == 1 }
/-- `vdqmx` (R143). -/
def execVdqmx (p : Pfx) (f : FV) (s : State) : Ans :=
  s.convert p f (convRules p f true true) (convForm f tagIsMx tagIsFloat)
/-- `vdqbx` (R145). -/
def execVdqbx (p : Pfx) (f : FV) (s : State) : Ans :=
  s.convert p f (convRules p f true true) (convForm f tagIsBx tagIsFloat)

/-! ## Quantisation (R142, R144) -/

/-- Writes the scale byte of block `k` of an operand's group; scale lines carry tag `e8m0` (01 R37). -/
def State.putScale (s : State) (o : Opnd) (k v : Nat) : State :=
  let u := s.unitSpot o
  (s.vaultWrite u.core (u.phys + k) [BitVec.ofNat 8 v]).setLineTag u.core ((u.phys + k) / 64) ⟨tagE8m0, false⟩

/-- The codes of one block under its scale or exponent, with their flags. -/
def quantBlock (t sc : Nat) (rnd : Nat → Rnd) (zs : List Nat) (vs : List Num) : List (Nat × Flags) :=
  (vs.zip zs).map (fun e =>
    if sc = 0xFF then
      (0, if tagIsBx t then flagIf e.1.isFinNz fNX ||| flagIf (e.1.isNan || e.1.isInf) fNV else 0)
    else encodeElem t false (rnd e.2) sc e.1)

/-- Quantisation of blocks of `b` elements; `keep` takes the scales that are there. -/
def State.quantise (s : State) (p : Pfx) (f : FV) (r : Rules) (b : Nat) (mx keep : Bool) : Ans :=
  s.vinstr p f r { convForm f tagIsFloat (if mx then tagIsMx else tagIsBx) with scales := true } (fun s q =>
    match q.srcs, q.dst with
    | [a], some o =>
      let t := o.ty
      let z := s.vdraws (s.vMode f == .sr) (vLen f)
      let vs := s.values a false
      let blocks := List.range (vLen f / b)
      let scale := fun k =>
        if keep then s.scaleOf o (k * b)
        else
          let act := ((vs.zipIdx).drop (k * b)).take b |>.filter (fun e => s.active p e.2) |>.map (·.1)
          if mx then chooseMx t act else chooseBx t act
      let es := blocks.flatMap (fun k =>
        quantBlock t (scale k) (fun z => ⟨s.vMode f, z, false, s.mt.fmtCtl.getLsbD 3⟩) ((z.1.drop (k * b)).take b)
          ((vs.drop (k * b)).take b))
      let nan := mx && blocks.any (fun k => scale k == 0xFF)
      let cs := s.masked p (es.map (·.1))
      let fl := s.activeFlags p (es.map (·.2)) ||| flagIf nan fNV
      (blocks.foldl (fun q k => q.putScale o ((o.first + k * b) / blockElems t) (scale k)) z.2, cs, fl, true)
    | _, _ => (s, [], 0, false))

/-- `vqmx` (R142). -/
def execVqmx (p : Pfx) (f : FV) (o : BitVec 1) (s : State) : Ans := s.quantise p f (convRules p f false false) 32 true (o == 1)
/-- `vqbx` (R144). -/
def execVqbx (p : Pfx) (f : FV) (o : BitVec 1) (s : State) : Ans := s.quantise p f (convRules p f true false) 16 false (o == 1)

/-! ## Tags (R146, R147) -/

/-- `vtag` (R146): extension bits 4:0 are the tag and `half` the new SP bit. -/
def execVtag (p : Pfx) (f : FV) (t : BitVec 6) (s : State) : Ans :=
  s.instr p (fun _ => { who := .mt, bad := f.a != 0 || f.b != 0 || decide (32 ≤ t.toNat) || f.r != 7 }) (fun s =>
    let k := t.toNat
    let a := s.adr f.d.toNat
    if tagIsBx k && !s.feature 1 then .error (.cause 0x1F 0)
    else if tagReserved k then .error (.cause 0x22 0)
    else match s.baseSpot a 1 with
      | .error e => .error e
      | .ok q =>
        let g := groupBytes k
        if q.off % g ≠ 0 then .error (accessFault 1 0 a)
        else match s.inside q.off (q.off + g) a 1 with
          | .error e => .error e
          | .ok _ =>
            match s.openParts false true ((lineParts 64 q.off (q.off + g)).map (fun e => (q.at e.1, e.2))) with
            | .error e => .error e
            | .ok s =>
              let sp := f.h == 1 && (tagIsMx k || tagIsBx k)
              next ((List.range (g / 64)).foldl (fun s i => s.setLineTag q.core (q.phys / 64 + i) ⟨k, sp⟩) s))

/-- `vgtag` (R147). -/
def execVgtag (p : Pfx) (f : FAZ) (r : BitVec 3) (s : State) : Ans :=
  s.instr p (fun _ => { undef := f.z != 0, who := .mt, bad := decide (7 < f.s.toNat) || r != 7, named := [f.d.toNat] })
    (fun s =>
      match s.baseSpot (s.adr f.s.toNat) 0 with
      | .error e => .error e
      | .ok q =>
        match s.openLine s.cur.core q 1 true false with
        | .error e => .error e
        | .ok s =>
          let l := s.lineTag q.core (q.phys / 64)
          next (s.setX f.d.toNat (BitVec.ofNat 64 (b2n l.sp * 32 + l.tag))))

end Sys2Proof.Machine
end

