-- ==== Sys2Proof/Machine/Matrix.lean ====
section
/-! DEFINITION. The joint matrix array: staging registers, the checks at issue, operands, the row barrier, the exponent path,
the summation order, and the commands on accumulator tiles (08 R261–R285). -/
namespace Sys2Proof.Machine

/-! ## Formats (R265, R279) -/

/-- The 8-bit class of A. -/
def class8 (t : Nat) : Bool := tagIsMx t || t == tagBx8
/-- The legal combinations of A and B formats. -/
def matCombo (a b : Nat) : Bool := (class8 a && (tagIsMx b || tagIsBx b)) || (a == b && (a == tagF16 || a == tagBf16))

/-- An engine cause of the matrix unit at issue; the trap information is an address where there is one (06 R216). -/
def matFault (k : Cause) (a : Nat) : Stop := .cause k (BitVec.ofNat 64 a)

/-! ## Staging registers (R270, R278, R284) -/

/-- The checks of an instruction that names only xs (R277). -/
def matRules (f : FAZ) : Rules := ctOnly { bad := f.d != 0 || f.z != 0, named := [f.s.toNat] }

/-- `mset.a` (R278). -/
def execMsetA (p : Pfx) (f : FAZ) (s : State) : Ans :=
  s.instr p (fun _ => matRules f) (fun s => next (s.upArch s.cur.core (fun a => { a with mcfg0 := s.x f.s.toNat })))
/-- `mset.b` (R278). -/
def execMsetB (p : Pfx) (f : FAZ) (s : State) : Ans :=
  s.instr p (fun _ => matRules f) (fun s => next (s.upArch s.cur.core (fun a => { a with mcfg1 := s.x f.s.toNat })))
/-- `mset.op` (R278). -/
def execMsetOp (p : Pfx) (f : FAZ) (s : State) : Ans :=
  s.instr p (fun _ => matRules f) (fun s => next (s.upArch s.cur.core (fun a => { a with mcfg2 := s.x f.s.toNat })))
/-- `mscl.set` (R284). -/
def execMsclSet (p : Pfx) (f : FAZ) (s : State) : Ans :=
  s.instr p (fun _ => matRules f) (fun s =>
    let v := s.x f.s.toNat
    if fld v 63 8 ≠ 0 then .error (matFault 0x90 0) else next (s.upArch s.cur.core (fun a => { a with mxp := v })))

/-- An `mgo` occupies the array of a core. -/
def Core.arrayBusy (k : Core) : Bool := k.mat.any (·.closed)

/-- The live state of the exponent path (R284): 0 before the first record of the task instance. -/
def State.expState (s : State) (c : Nat) : Word :=
  match (s.cx c).expRec with
  | some (b, q, l) =>
    BitVec.ofNat 64 (b % 2 ^ 16 + q % 2 ^ 16 * 2 ^ 16 + l * 2 ^ 32 + b2n (s.core c).arrayBusy * 2 ^ 36)
  | none => 0

/-- `mscl.rd` (R284). -/
def execMsclRd (p : Pfx) (f : FAZ) (s : State) : Ans :=
  s.instr p (fun _ => ctOnly { bad := f.s != 0 || f.z != 0, named := [f.d.toNat] }) (fun s =>
    next (s.setX f.d.toNat (s.expState s.cur.core)))

/-- `mscl.clr` (R284). -/
def execMsclClr (p : Pfx) (f : FAZ) (s : State) : Ans :=
  s.instr p (fun _ => ctOnly { bad := f.d != 0 || f.s != 0 || f.z != 0 }) (fun s => s.holdCmd (.matrix .clr))

/-! ## Issue (R279–R283) -/

/-- The snapshot of an `mgo`. -/
def mgoSnap (a : Arch) (xs : Word) : MgoSnap :=
  { aoff := (fld a.mcfg0 20 0 + fld xs 20 0) % 2 ^ 21, afmt := fld a.mcfg0 25 21, astr := fld a.mcfg0 39 26
    boff := (fld a.mcfg1 20 0 + fld xs 41 21) % 2 ^ 21, bfmt := fld a.mcfg1 25 21, bstr := fld a.mcfg1 39 26
    k := fld a.mcfg2 15 0 + 1, tile := fld a.mcfg2 19 16, ovr := a.mcfg2.getLsbD 20, joint := a.mcfg2.getLsbD 21
    shift := sextI a.mxp.toNat 7, sat := a.mxp.getLsbD 7, scale := fld a.scaleBase 20 6 * 64
    gang := if a.mcfg2.getLsbD 21 then a.gang else none }

/-- An operand's offset and stride are as R270 and R279 ask. -/
def matShapeOk (fmt off str k : Nat) : Bool :=
  str != 0 && off % groupBytes fmt == 0 && (64 * str) % groupBytes fmt == 0 && decide (kBytes fmt k ≤ 64 * str)

/-- The rows of an operand and their scales lie in a window of `win` units. -/
def matInside (win fmt base stride rows len scale : Nat) : Bool :=
  (List.range rows).all (fun i =>
    let r := scaleRange fmt (base + stride * i) len scale
    inWin win (base + stride * i) len && (groupBlocks fmt == 0 || inWin win r.1 r.2))

/-- The core reads the A operand: solo, or the crier (R262). -/
def MgoSnap.readsA (g : MgoSnap) : Bool := match g.gang with | some q => q.pos == q.lead | none => true

/-- The checks of `mgo`, in order (R279; 13 R395). -/
def mgoCause (bx : Bool) (win accn : Nat) (a : Arch) (xs : Word) (g : MgoSnap) (own : Nat) : Option Stop :=
  if (tagIsBx g.afmt || tagIsBx g.bfmt) && !bx then some (matFault 0x1F 0)
  else if fld xs 63 42 ≠ 0 || fld a.mcfg0 63 40 ≠ 0 || fld a.mcfg1 63 40 ≠ 0 || fld a.mcfg2 63 22 ≠ 0 then some (matFault 0x90 0)
  else if !matShapeOk g.afmt g.aoff g.astr g.k || !matShapeOk g.bfmt g.boff g.bstr g.k then some (matFault 0x90 0)
  else if accn ≤ g.tile then some (matFault 0x93 0)
  else if !matCombo g.afmt g.bfmt then some (matFault 0x94 0)
  else if g.joint && a.gang.isNone then some (matFault 0x95 0)
  else if !matInside win g.bfmt g.boff (64 * g.bstr) 32 (kBytes g.bfmt g.k) g.scale then some (matFault 0x91 (own + g.boff))
  else if g.readsA && !matInside win g.afmt g.aoff (64 * g.astr) 32 (kBytes g.afmt g.k) g.scale then
    some (matFault 0x91 (own + g.aoff))
  else none

/-- `mgo` (R279). -/
def execMgo (p : Pfx) (f : FAZ) (s : State) : Ans :=
  s.instr p (fun _ => matRules f) (fun s =>
    let c := s.cur.core
    let x := s.cx c
    let xs := s.x f.s.toNat
    let g := mgoSnap x.arch xs
    match mgoCause (s.feature 1) x.win x.accn x.arch xs g (coreIdx c * 2 ^ 21) with
    | some e => .error e
    | none => s.holdCmd (.matrix (.mgo g)))

/-- `mzero` (R280). -/
def execMzero (p : Pfx) (f : FAZ) (s : State) : Ans :=
  s.instr p (fun _ => matRules f) (fun s =>
    let v := s.x f.s.toNat
    if fld v 63 16 ≠ 0 then .error (matFault 0x90 0)
    else if 2 ^ (s.cx s.cur.core).accn ≤ fld v 15 0 then .error (matFault 0x93 0)
    else s.holdCmd (.matrix (.mzero (fld v 15 0))))

/-- Formats of `mrd` and `mwr` (R282, R283). -/
def mrdFmt (t : Nat) : Bool := tagIsFloat t || t == tagAcc || t == tagE4m3 || t == tagE5m2 || t == tagE2m1 || t == tagMxi8
def mwrFmt (t : Nat) : Bool := tagIsFloat t || t == tagAcc

/-- The first check of R281 fails. -/
def imgBad (w : Word) (rd : Bool) : Bool :=
  fld w 63 53 != 0 || fld w 28 0 % 64 != 0 ||
  (fld w 52 41 != 0 && (fld w 52 41 % 64 != 0 || decide (fld w 52 41 < imgRow w) || tagIsMx (fld w 37 33))) ||
  (!rd && fld w 40 38 != 0)

/-- The image, and the scales of an MX image, lie in one slot inside the launch's window there (R281). -/
def State.imgInside (s : State) (c : Nat) (w : Word) (scale : Nat) : Bool :=
  match s.window (clusterOf c * 256 + fld w 28 21) (s.launchNo c) with
  | none => false
  | some (win, _) =>
    (List.range 32).all (fun i =>
      let off := fld w 20 0 + imgStride w * i
      let r := scaleRange (fld w 37 33) off (imgRow w) scale
      inWin win off (imgRow w) && (!tagIsMx (fld w 37 33) || inWin win r.1 r.2))

/-- The checks of `mrd` and `mwr`, in order (R281). -/
def State.imgCause (s : State) (c : Nat) (w : Word) (rd : Bool) : Option Stop :=
  let x := s.cx c
  if imgBad w rd then some (matFault 0x90 0)
  else if x.accn ≤ fld w 32 29 then some (matFault 0x93 0)
  else if !(if rd then mrdFmt (fld w 37 33) else mwrFmt (fld w 37 33)) then some (matFault 0x94 0)
  else if !s.imgInside c w (fld x.arch.scaleBase 20 6 * 64) then some (matFault 0x91 (fld w 28 0))
  else none

/-- `mrd` (R282). -/
def execMrd (p : Pfx) (f : FAZ) (s : State) : Ans :=
  s.instr p (fun _ => matRules f) (fun s =>
    let c := s.cur.core
    let w := s.x f.s.toNat
    if tagIsBx (fld w 37 33) && !s.feature 1 then .error (matFault 0x1F 0)
    else match s.imgCause c w true with
      | some e => .error e
      | none => s.holdCmd (.matrix (.mrd w (fld (s.arch c).scaleBase 20 6 * 64))))

/-- `mwr` (R283). -/
def execMwr (p : Pfx) (f : FAZ) (s : State) : Ans :=
  s.instr p (fun _ => matRules f) (fun s =>
    let w := s.x f.s.toNat
    if tagIsBx (fld w 37 33) && !s.feature 1 then .error (matFault 0x1F 0)
    else match s.imgCause s.cur.core w false with
      | some e => .error e
      | none => s.holdCmd (.matrix (.mwr w)))

/-! ## Released commands: what they read and write (R275, R276) -/

/-- Byte ranges of strided rows, by core. -/
def rowRanges (d base stride rows len : Nat) : List (Nat × Nat × Nat) :=
  (List.range rows).map (fun i => (d, base + stride * i, base + stride * i + len))
/-- The ranges of their scale bytes. -/
def scaleRanges (fmt d base stride rows len scale : Nat) : List (Nat × Nat × Nat) :=
  if groupBlocks fmt = 0 then []
  else (List.range rows).map (fun i =>
    let r := scaleRange fmt (base + stride * i) len scale
    (d, r.1, r.1 + r.2))

/-- The window ranges that a command of core `c` reads: core, first byte, one past the last. -/
def MatCmd.reads (m : MatCmd) (c : Nat) : List (Nat × Nat × Nat) :=
  let cl := clusterOf c * 256
  match m with
  | .mgo g =>
    rowRanges c g.boff (64 * g.bstr) 32 (kBytes g.bfmt g.k) ++
    scaleRanges g.bfmt c g.boff (64 * g.bstr) 32 (kBytes g.bfmt g.k) g.scale ++
    (if g.readsA then rowRanges c g.aoff (64 * g.astr) 32 (kBytes g.afmt g.k) ++
      scaleRanges g.afmt c g.aoff (64 * g.astr) 32 (kBytes g.afmt g.k) g.scale else [])
  | .mwr w => rowRanges (cl + fld w 28 21) (fld w 20 0) (imgStride w) 32 (imgRow w)
  | .gemvh t scale _ _ =>
    let fmt := rf t 0x18 38 34
    let len := kBytes fmt (rf t 0x18 31 16 + 1)
    let d := cl + rf t 0x20 28 21
    rowRanges d (rf t 0x20 20 0) (rf t 0x20 63 32) (rf t 0x18 33 32 + 1) len ++
    scaleRanges fmt d (rf t 0x20 20 0) (rf t 0x20 63 32) (rf t 0x18 33 32 + 1) len scale
  | _ => []

/-- The window ranges that it writes. -/
def MatCmd.writes (m : MatCmd) (c : Nat) : List (Nat × Nat × Nat) :=
  let cl := clusterOf c * 256
  match m with
  | .mrd w scale =>
    let d := cl + fld w 28 21
    rowRanges d (fld w 20 0) (imgStride w) 32 (imgRow w) ++
    scaleRanges (fld w 37 33) d (fld w 20 0) (imgStride w) 32 (imgRow w) scale
  | .gemvh t _ _ _ =>
    rowRanges (cl + rf t 0x28 28 21) (rf t 0x28 20 0) (rf t 0x28 63 32) (rf t 0x18 33 32 + 1) ((rf t 0x18 15 0 + 1 + 31) / 32 * 128)
  | _ => []

/-- The tiles that a command touches, as a mask. -/
def MatCmd.tiles : MatCmd → Nat
  | .mgo g => 2 ^ g.tile
  | .mzero m => m
  | .mrd w _ => 2 ^ fld w 32 29
  | .mwr w => 2 ^ fld w 32 29
  | .clr => 0
  | .gemvh .. => 0

/-- The range of whole lines around a byte range. -/
def lineRange (r : Nat × Nat × Nat) : Nat × Nat × Nat := (r.1, r.2.1 / 64 * 64, (r.2.2 + 63) / 64 * 64)

/-- The windows that a command names are resident. -/
def State.matResident (s : State) (c l : Nat) (m : MatCmd) : Bool :=
  (m.reads c ++ m.writes c).all (fun r => match s.window r.1 l with | some (_, some _) => true | _ => false)
/-- A window that it names has ceased to exist (05 R184). -/
def State.matLost (s : State) (c l : Nat) (m : MatCmd) : Bool :=
  (m.reads c ++ m.writes c).any (fun r => (s.window r.1 l).isNone)

/-- Command number `i` of core `c` has no earlier command of its context on its tiles, and `mscl.clr` none at all (R275); no test of the
core's slice runs (13 R384, log 126). -/
def State.matOrder (s : State) (c i : Nat) (m : MatRel) : Bool :=
  let earlier := ((s.core c).mat.take i).filter (fun e => e.launch == m.launch)
  !s.engineTest 2 c 0 && (m.cmd != .clr || earlier.isEmpty) && earlier.all (fun e => e.cmd.tiles &&& m.cmd.tiles == 0)

/-- The windows of a command are resident, and its lines are free of earlier marks (R276); of a copy and a command that wait for each
other by 07 R239 and R276, the one released first goes first (log 145). -/
def State.matLines (s : State) (c : Nat) (m : MatRel) : Bool :=
  s.matResident c m.launch m.cmd &&
  (m.cmd.reads c).all (fun r => let q := lineRange r; !s.pendingWrite m.launch q.1 q.2.1 q.2.2 (some m.no)) &&
  (m.cmd.writes c).all (fun r => let q := lineRange r
    !s.pendingWrite m.launch q.1 q.2.1 q.2.2 (some m.no) && !s.pendingRead m.launch q.1 q.2.1 q.2.2 (some m.no))

/-- Command number `i` of core `c` can be executed now (R275, R276). -/
def State.matFree (s : State) (c i : Nat) (m : MatRel) : Bool := s.matOrder c i m && s.matLines c m

/-- A released matrix command. -/
def State.matAt (s : State) (c i : Nat) : Option MatRel := (s.core c).mat[i]?
/-- Removes it. -/
def State.dropMat (s : State) (c i : Nat) : State := s.upCore c (fun k => { k with mat := k.mat.eraseIdx i })
/-- Changes it. -/
def State.upMat (s : State) (c i : Nat) (f : MatRel → MatRel) : State := s.upCore c (fun k => { k with mat := k.mat.modify i f })

/-! ## The committed contents of a slot -/

/-- The oldest undo entry of a line: its contents at the last commit. -/
def State.undoOf (s : State) (d line : Nat) : Option Undo :=
  s.cores.findSome? (fun e =>
    if clusterOf e.1 != clusterOf d then none
    else (e.2.cx.pend ++ [e.2.cx.chunk]).findSome? (fun k => k.undo.find? (fun u => u.core == d && u.line == line)))

/-- A byte of a slot without the writes of uncommitted chunks. -/
def State.comByte (s : State) (d p : Nat) : Byte :=
  match s.undoOf d (p / 64) with
  | some u => u.data.getD (p % 64) 0
  | none => s.vault.read (d * 2 ^ 21 + p)
/-- The tag of a line without those writes. -/
def State.comTag (s : State) (d line : Nat) : LineTag :=
  match s.undoOf d line with
  | some u => u.tag
  | none => s.lineTag d line
/-- The number in `n` bytes. -/
def State.comNat (s : State) (d p n : Nat) : Nat := ofBytes ((List.range n).map (fun i => s.comByte d (p + i)))

/-- The window base of launch `l` on core `d`. -/
def State.winBase (s : State) (d l : Nat) : Nat := match s.window d l with | some (_, some b) => b | _ => 0

/-! ## Engine writes of slot lines (07 R240) -/

/-- The physical lines of ranges of window offsets. -/
def State.physLines (s : State) (l : Nat) (rs : List (Nat × Nat × Nat)) : List (Nat × Nat) :=
  (rs.flatMap (fun r =>
    let b := s.winBase r.1 l
    (List.range ((r.2.2 + 63) / 64 - r.2.1 / 64)).map (fun i => (r.1, b / 64 + r.2.1 / 64 + i)))).eraseDups

/-! ## Operand elements (R34–R36, R261, R266) -/

/-- The lines of an operand row: window offsets of their first bytes. -/
def rowLines (fmt off k : Nat) : List Nat := (List.range (kBytes fmt k / 64)).map (fun i => off + 64 * i)

/-- A line of an operand has a tag that the operation does not accept (R279). A raw line read as a BX operand has SP = 0, and so is
refused (log 146). -/
def State.tagWrong (s : State) (d l fmt off : Nat) : Bool :=
  let t := s.comTag d ((s.winBase d l + off) / 64)
  (t.tag != 0 && t.tag != fmt) || (tagIsBx fmt && !t.sp)

/-- The first line of an operand with a wrong tag, as a scratchpad address. -/
def State.tagFault (s : State) (d l fmt base stride rows k : Nat) : Option Nat :=
  ((List.range rows).flatMap (fun i => rowLines fmt (base + stride * i) k)).findSome? (fun o =>
    if s.tagWrong d l fmt o then some (coreIdx d * 2 ^ 21 + o) else none)

/-- A subnormal FP16 or BF16 input is flushed to zero of its sign (R266). -/
def flushIn (t : Nat) (v : Num) : Num :=
  match fmtOf t with
  | some f =>
    if t = tagF16 || t = tagBf16 then
      match v with
      | .fin n m e st => if m < 2 ^ (f.p - 1) then .zero n else .fin n m e st
      | v => v
    else v
  | none => v

/-- Elements of one group: bytes as a number, scales by block. -/
def groupValues (fmt g : Nat) (scales : Nat → Nat) (n : Nat) : List Num :=
  (List.range n).map (fun j => flushIn fmt (elemNum fmt false (scales (j / blockElems fmt)) (elemOf fmt g j)))

/-- K elements of a row in a slot (R261): the values with their scales. A group whose lines differ in SP takes that of its first line
(log 147). -/
def State.rowValues (s : State) (d l fmt off k scale : Nat) : List Num :=
  let b := s.winBase d l
  let n := groupElems fmt
  ((List.range ((k + n - 1) / n)).flatMap (fun g =>
    let o := off + g * groupBytes fmt
    let sp := (s.comTag d ((b + o) / 64)).sp
    groupValues fmt (s.comNat d (b + o) (groupBytes fmt))
      (fun q => if sp && groupBlocks fmt != 0 then (s.comByte d (b + scaleOff fmt o scale q)).toNat else 0x7F) n)).take k

/-! ## The summation order (R266, R267) -/

/-- The product of two elements, the flag of a special product, and whether a NaN takes part. -/
def prodOf (a b : Num) : Num × Flags × Bool :=
  if a.isNan || b.isNan then (.dflt, snanFlag [a, b], true)
  else
    let p := mulNum a b
    (p.1, p.2, p.1.isNan)

/-- The exact sum of a block (R267): NaN inputs and invalid products first, then infinities, then the finite sum. -/
def blockSum (as bs : List Num) : Num × Flags :=
  let ps := (as.zip bs).map (fun e => prodOf e.1 e.2)
  let fl := ps.foldl (fun f p => f ||| p.2.1) 0
  let both := ps.any (fun p => p.1 == .inf false) && ps.any (fun p => p.1 == .inf true)
  if ps.any (fun p => p.2.2) || both then (.dflt, fl ||| flagIf both fNV)
  else match ps.find? (fun p => p.1.isInf) with
    | some p => (p.1, fl)
    | none => match ps with
      | [] => (.zero false, fl)
      | p :: r => (r.foldl (fun a q => (addNum .rne a q.1).1) p.1, fl)

/-- One rounding to FP32 (R266, R267). -/
def mrnd (sat : Bool) (v : Num × Flags) : Num × Flags :=
  let r := fp32.encode { mode := .rne, sat := sat } v.1
  (fp32.decode r.1, v.2 ||| r.2)

/-- `node` (R266): x + y rounded. -/
def mnode (sat : Bool) (x y : Num × Flags) : Num × Flags :=
  let r := fadd .rne x.1 y.1
  mrnd sat (r.1, r.2 ||| x.2 ||| y.2)

/-- One level of the pairwise tree; an absent partner passes its sibling through. -/
def mlevel (sat : Bool) : List (Num × Flags) → List (Num × Flags)
  | x :: y :: r => mnode sat x y :: mlevel sat r
  | r => r

/-- The tree over at most eight block values. -/
def mtree (sat : Bool) (w : List (Num × Flags)) : Num × Flags :=
  ((mlevel sat (mlevel sat (mlevel sat w))).head?).getD (.zero false, 0)

/-- Elements cut into pieces of `n`. -/
def pieces {α : Type} (n : Nat) : Nat → List α → List (List α)
  | 0, _ => []
  | fuel + 1, l => match l with
    | [] => []
    | l => l.take n :: pieces n fuel (l.drop n)

/-- One element of C′: `c0` is C, absent where the first chunk replaces it (R266). -/
def matElem (shift : Int) (sat : Bool) (as bs : List Num) (c0 : Option Num) : Num × Flags :=
  let n := as.length
  let v := ((pieces 32 n as).zip (pieces 32 n bs)).map (fun e =>
    let q := blockSum e.1 e.2
    mrnd sat (q.1.scale shift, q.2))
  let chunks := (pieces 8 n v).map (mtree sat)
  match c0, chunks with
  | some c, ws => ws.foldl (mnode sat) (c, 0)
  | none, w :: ws => ws.foldl (mnode sat) w
  | none, [] => (.zero false, 0)

/-- The rows of a product tile as FP32 codes, with the flags of all elements. -/
def matTile (shift : Int) (sat : Bool) (as bs : List (List Num)) (old : Nat → Nat → Option Num) : List (List Nat) × Flags :=
  let es := as.zipIdx.map (fun a => bs.zipIdx.map (fun b => matElem shift sat a.1 b.1 (old a.2 b.2)))
  (es.map (fun r => r.map (fun e => (fp32.encode { mode := .rne } e.1).1)),
    es.foldl (fun f r => r.foldl (fun f e => f ||| e.2) f) 0)

/-! ## Accumulator tiles (R273) -/

/-- The address of an accumulator tile of a context. -/
def tileAddr (c : Nat) (x : Ctx) (t : Nat) : Nat := c * 2 ^ 16 + (x.accBase + t) * 4096
/-- Element (i, j) of a tile. -/
def State.tileElem (s : State) (a i j : Nat) : Nat := s.acc.readNat (a + 128 * i + 4 * j) 4
/-- Writes a tile from rows of codes. -/
def State.putTile (s : State) (a : Nat) (rows : List (List Nat)) : State :=
  { s with acc := s.acc.writeN a (rows.flatMap (fun r => r.flatMap (fun v => toBytes 4 v))) }

/-- Flags as bits 3:0 of `MAT_STAT`: NV, OF, UF, NX (R271). -/
def matFlags (f : Flags) : Nat := b2n (f.getLsbD 0) + b2n (f.getLsbD 2) * 2 + b2n (f.getLsbD 3) * 4 + b2n (f.getLsbD 4) * 8
/-- ORs flags into `MAT_STAT` and counts completed `mgo` commands in DONE. -/
def Ctx.matDone (x : Ctx) (f : Flags) (n : Nat) : Ctx :=
  { x with matStat := setFld (x.matStat ||| BitVec.ofNat 64 (matFlags f)) 47 16 (fld x.matStat 47 16 + n) }

/-! ## Failures (R279, R285) -/

/-- The members of a joint operation: the gang of its snapshot (R263). -/
def MgoSnap.members (g : MgoSnap) (c : Nat) : List Nat :=
  match g.gang with
  | some q => (List.range (2 ^ (q.size + 1))).map (fun i => c - q.pos + i)
  | none => [c]

/-- A cause during command number `no` of the releases ends the task instance; that command and those released after it are
discarded (R285). -/
def State.failMat (s : State) (c l no : Nat) (k : Cause) (info : Nat) : State :=
  (s.endInstance c l (endingOf k (BitVec.ofNat 64 info))).upCore c (fun q =>
    { q with mat := q.mat.filter (fun m => m.launch != l || decide (m.no < no)) })

/-- A member's task instance has ended, or its core is mapped out. -/
def State.memberGone (s : State) (l d : Nat) : Bool :=
  !s.usable d || (match s.launchCx d l with | some x => x.fin.isSome | none => true)
/-- A joint operation has lost a member (R263). -/
def State.lostMember (s : State) (l c : Nat) (g : MgoSnap) : Bool := g.gang.isSome && (g.members c).any (s.memberGone l)

/-! ## The row barrier (R263) and the exponent path (R268, R269) -/

/-- The operations of a launch on core `d` among members `cs`, running or not, by place among its commands, oldest first. -/
def State.opsOf (s : State) (l d : Nat) (cs : List Nat) : List Nat :=
  ((s.core d).mat.zipIdx).filterMap (fun e => match e.1.cmd with
    | .mgo g => if e.1.launch == l && g.members d == cs then some e.2 else none
    | _ => none)

/-- The part of core `d` in operation `i` of core `c`: members release and complete the operations of their gang in one order. -/
def State.partOf (s : State) (l c i : Nat) (g : MgoSnap) (d : Nat) : Option Nat :=
  let cs := g.members c
  (s.opsOf l d cs)[(s.opsOf l c cs).findIdx (· == i)]?

/-- Operation `i` of core `c` is abandoned: the task instance of every member ends (R279). -/
def State.failOp (s : State) (l c i : Nat) (g : MgoSnap) (k : Cause) (info : Nat) : State :=
  ((g.members c).map (fun d => (d, (s.partOf l c i g d).bind (s.matAt d)))).foldl (fun s q => match q.2 with
    | some m => s.failMat q.1 l m.no k info
    | none => s.endInstance q.1 l (endingOf k (BitVec.ofNat 64 info))) s

/-- The `mgo` at place `j` of core `d` is ready: released, free of earlier commands on its tile, and the array is free. -/
def State.mgoReady (s : State) (d j : Nat) : Bool :=
  !(s.core d).arrayBusy && (match s.matAt d j with | some m => s.matOrder d j m | none => false)

/-- The open `mgo` of core `c` that is its command number `i`: its launch and snapshot. -/
def State.mgoAt (s : State) (c i : Nat) : Option (Nat × MgoSnap) :=
  match s.matAt c i with
  | some m => match m.cmd with
    | .mgo g => if m.closed then none else some (m.launch, g)
    | _ => none
  | none => none

/-- Every member of operation `i` of core `c` is ready, with the same crier. -/
def State.barrierMet (s : State) (l c i : Nat) (g : MgoSnap) : Bool :=
  (g.members c).all (fun d => match s.partOf l c i g d with
    | some j => s.mgoReady d j && (match s.mgoAt d j with
      | some (_, h) => h.gang.map (·.lead) == g.gang.map (·.lead)
      | none => false)
    | none => false)

/-- Command `i` of core `c` could be executed now. -/
def State.matCould (s : State) (c i : Nat) (m : MatRel) : Bool :=
  match m.cmd with
  | .mgo g => !m.closed && s.barrierMet m.launch c i g
  | _ => s.matFree c i m

/-- A command of the other context that was released earlier could be executed now: it goes first (R275). -/
def State.olderGoes (s : State) (c : Nat) (m : MatRel) : Bool :=
  ((s.core c).mat.zipIdx).any (fun e => e.1.launch != m.launch && decide (e.1.no < m.no) && s.matCould c e.2 e.1)

/-- The barrier of operation `i` of core `c` closes: it is met, and in no member an older command goes first. -/
def State.barrierReady (s : State) (l c i : Nat) (g : MgoSnap) : Bool :=
  s.barrierMet l c i g && (g.members c).all (fun d => match (s.partOf l c i g d).bind (s.matAt d) with
    | some m => !s.olderGoes d m
    | none => false)

/-- A ready operation notes the cycle since which it has been ready. -/
def State.noteReady (s : State) (c i : Nat) : State :=
  if s.mgoReady c i then s.upMat c i (fun m => { m with readySince := m.readySince.or (some s.cycle) }) else s

/-- Operation `j` of core `d` starts: it holds the array, and no other operation of the core is ready any longer (R263). -/
def State.takeArray (s : State) (d j : Nat) : State :=
  s.upCore d (fun k => { k with mat := k.mat.zipIdx.map (fun e =>
    if e.2 = j then { e.1 with closed := true } else { e.1 with readySince := none }) })

/-- ROW_BARRIER_CLOSE: every member's `mgo` is ready and the operation starts in all of them (R263). -/
def execRowBarrierClose (s : State) : Ans :=
  let c := s.cur.core
  let i := s.cur.unit
  match s.mgoAt c i with
  | none => .next s
  | some (l, g) =>
    if s.lostMember l c g then .next (s.failOp l c i g 0x95 0)
    else if !s.barrierReady l c i g then .next (s.noteReady c i)
    else .next (((g.members c).map (fun d => (d, s.partOf l c i g d))).foldl (fun s q => match q.2 with
      | some j => s.takeArray q.1 j
      | none => s) s)

/-- ROW_BARRIER_TIMEOUT: a member of a joint operation has been ready for 2^24 cycles and the barrier has not closed (R263). -/
def execRowBarrierTimeout (s : State) : Ans :=
  let c := s.cur.core
  let i := s.cur.unit
  match s.mgoAt c i with
  | none => .next s
  | some (l, g) =>
    match (s.matAt c i).bind (·.readySince) with
    | none => .next (s.noteReady c i)
    | some t =>
      if g.gang.isNone || !s.mgoReady c i || s.barrierReady l c i g || s.cycle ≤ t + 2 ^ 24 then .next s
      else .next (s.failOp l c i g (if s.lostMember l c g then 0x95 else 0x96) 0)

/-- The operation that occupies the array of a core: its place, launch, records received and snapshot. -/
def State.running (s : State) (d : Nat) : Option (Nat × MatRel × MgoSnap) :=
  ((s.core d).mat.zipIdx).findSome? (fun e => match e.1.cmd with
    | .mgo h => if e.1.closed then some (e.2, e.1, h) else none
    | _ => none)

/-- K-blocks of an operation. -/
def MgoSnap.blocks (g : MgoSnap) : Nat := (g.k + 31) / 32

/-- The crier of an operation of core `d`. -/
def MgoSnap.crier (g : MgoSnap) (d : Nat) : Nat := match g.gang with | some q => d - q.pos + q.lead | none => d

/-- EXPONENT_RECORD: the next record of the crier reaches the acting core, which compares it with its own command (R268,
R269). -/
def execExponentRecord (s : State) : Ans :=
  let d := s.cur.core
  match s.running d with
  | none => .next s
  | some (i, m, g) =>
    match s.running (g.crier d) with
    | none => .next s
    | some (_, mc, h) =>
      if g.blocks ≤ m.records || (g.crier d != d && mc.records ≤ m.records) then .next s
      else if (h.seq % 2 ^ 16, h.k, h.afmt, h.bfmt) ≠ (g.seq % 2 ^ 16, g.k, g.afmt, g.bfmt) then
        .next (s.failOp m.launch d i g 0x97 0)
      else
        let lead := match g.gang with | some q => q.lead | none => 0
        let s := s.upMat d i (fun m => { m with records := m.records + 1 })
        .next (s.upLaunchCx d m.launch (fun x => { x with expRec := some (m.records, h.seq % 2 ^ 16, lead) }))

/-! ## Completion (R266, R279) -/

/-- Operand lines with wrong tags of an operation: those of the crier's A, then of the member's B. -/
def State.mgoTagFault (s : State) (l d : Nat) (g : MgoSnap) : Option Nat :=
  (if g.readsA then s.tagFault d l g.afmt g.aoff (64 * g.astr) 32 g.k else none).orElse
    (fun _ => s.tagFault d l g.bfmt g.boff (64 * g.bstr) 32 g.k)

/-- The tile that an operation gives in member `d`: A from the crier, B its own. -/
def State.mgoTile (s : State) (l d : Nat) (g : MgoSnap) (h : MgoSnap) : List (List Nat) × Flags :=
  let e := g.crier d
  let as := (List.range 32).map (fun i => s.rowValues e l h.afmt (h.aoff + 64 * h.astr * i) g.k h.scale)
  let bs := (List.range 32).map (fun j => s.rowValues d l g.bfmt (g.boff + 64 * g.bstr * j) g.k g.scale)
  let a := match s.launchCx d l with | some x => tileAddr d x g.tile | none => 0
  matTile g.shift g.sat as bs (fun i j => if g.ovr then none else some (fp32.decode (s.tileElem a i j)))

/-- MGO_COMPLETE: the operation of the acting core is complete in every member: the tiles take C′ at once (R266). Its array steps wait
for the operand lines of every member (R276 item 5). -/
def execMgoComplete (s : State) : Ans :=
  let d := s.cur.core
  match s.running d with
  | none => .next s
  | some (i, m, g) =>
    let l := m.launch
    let cs := g.members d
    let part := fun (e : Nat) => (s.partOf l d i g e).bind (s.matAt e)
    if s.lostMember l d g then .next (s.failOp l d i g 0x95 0)
    else if cs.any (fun e => match part e with | some q => s.matLost e l q.cmd | none => false) then .next (s.failOp l d i g 0x91 0)
    else if !cs.all (fun e => match part e with | some q => s.matLines e q | none => false) then .next s
    else match cs.findSome? (fun e => match s.running e with | some (_, _, h) => s.mgoTagFault l e h | none => none) with
      | some a => .next (s.failOp l d i g 0x94 a)
      | none =>
        if !cs.all (fun e => match s.running e with | some (_, q, h) => decide (h.blocks ≤ q.records) | none => false) then .next s
        else
          let tiles := cs.filterMap (fun e => match s.running e, s.running (g.crier d), s.launchCx e l with
            | some (i, _, h), some (_, _, hc), some x => some (e, i, tileAddr e x h.tile, s.mgoTile l e h hc)
            | _, _, _ => none)
          .next (tiles.foldl (fun s q =>
            (((s.putTile q.2.2.1 q.2.2.2.1).dropMat q.1 q.2.1).upLaunchCx q.1 l (·.matDone q.2.2.2.2 1))) s)

/-- An uncorrectable error in the accumulators or the matrix state of core `c`: the operation that runs there, or else the oldest
command of the launch, reads it and is abandoned with 0x92, a joint one in every member (R273, R279, R285; log 127). -/
def State.matError (s : State) (c l info : Nat) : State :=
  match (s.core c).mat.zipIdx.findSome? (fun e => match e.1.cmd with
      | .mgo g => if e.1.launch == l && e.1.closed then some (e.2, g) else none
      | _ => none) with
  | some (i, g) => s.failOp l c i g 0x92 info
  | none => match (s.core c).mat.find? (fun m => m.launch == l) with
    | some m => s.failMat c l m.no 0x92 info
    | none => s.endInstance c l (endingOf 0x92 (BitVec.ofNat 64 info))

/-! ## Commands on tiles (R280–R284) -/

/-- A released command of the acting core, number `unit`, that can be executed now. A lost window ends the task instance with
0x91 (05 R184; R285). -/
def State.matRun (s : State) (f : Nat → MatRel → Ctx → State → State) : State :=
  let c := s.cur.core
  let i := s.cur.unit
  match s.matAt c i with
  | none => s
  | some m =>
    match s.launchCx c m.launch with
    | none => s
    | some x =>
      if s.matLost c m.launch m.cmd then s.failMat c m.launch m.no 0x91 0
      else if s.matFree c i m && !s.olderGoes c m then f i m x s else s

/-- MZERO_EXECUTE (R280). -/
def execMzeroExecute (s : State) : Ans :=
  let c := s.cur.core
  .next (s.matRun (fun i m x s => match m.cmd with
    | .mzero mask =>
      ((onesOf mask 16).foldl (fun s t => s.putTile (tileAddr c x t) (List.replicate 32 (List.replicate 32 0))) s).dropMat c i
    | _ => s))

/-- MSCL_CLR_EXECUTE (R284). -/
def execMsclClrExecute (s : State) : Ans :=
  let c := s.cur.core
  .next (s.matRun (fun i m _ s => match m.cmd with
    | .clr => (s.dropMat c i).upLaunchCx c m.launch (fun x => { x with matStat := setFld x.matStat 3 0 0 })
    | _ => s))

/-- MWR_EXECUTE: the image fills the tile (R283). -/
def execMwrExecute (s : State) : Ans :=
  let c := s.cur.core
  .next (s.matRun (fun i m x s => match m.cmd with
    | .mwr w =>
      let d := clusterOf c * 256 + fld w 28 21
      let fmt := fld w 37 33
      let b := s.winBase d m.launch
      let bad := (m.cmd.reads c).findSome? (fun r =>
        (List.range ((r.2.2 + 63) / 64 - r.2.1 / 64)).findSome? (fun q =>
          let o := (r.2.1 / 64 + q) * 64
          let t := s.comTag d ((b + o) / 64)
          if t.tag != 0 && t.tag != fmt then some (coreIdx d * 2 ^ 21 + o) else none))
      match bad with
      | some a => s.failMat c m.launch m.no 0x94 a
      | none =>
        let rows := (List.range 32).map (fun r => (List.range 32).map (fun j =>
          let n := elemBits fmt / 8
          let v := s.comNat d (b + fld w 20 0 + imgStride w * r + n * j) n
          if n = 4 then v else (fp32.encode { mode := .rne } (((fmtOf fmt).getD fp32).decode v)).1))
        (s.putTile (tileAddr c x (fld w 32 29)) rows).dropMat c i
    | _ => s))

/-- The codes of an image row, its scale where it has one, and the flags (R282). -/
def mrdRow (w : Word) (row : List Nat) : List Nat × Option Nat × Flags :=
  let fmt := fld w 37 33
  let r : Rnd := { mode := rmodeOf (fld w 39 38), satn := w.getLsbD 40 }
  let vs := row.map fp32.decode
  if elemBits fmt = 32 then (row, none, 0)
  else if tagIsMx fmt then
    let sc := chooseMx fmt vs
    let q := quantBlock fmt sc (fun _ => r) (List.replicate 32 0) vs
    (q.map (·.1), some sc, q.foldl (fun f e => f ||| e.2) (flagIf (sc == 0xFF) fNV))
  else
    let q := vs.map (encodeElem fmt false r 0x7F)
    (q.map (·.1), none, q.foldl (fun f e => f ||| e.2) 0)

/-- Writes bytes at a window offset of a slot. -/
def State.engineBytes (s : State) (l d off : Nat) (bs : List Byte) : State := s.vaultWrite d (s.winBase d l + off) bs
/-- Tags the lines of window bytes. -/
def State.engineTag (s : State) (l d off n : Nat) (t : LineTag) : State :=
  let b := s.winBase d l
  (List.range ((off + n + 63) / 64 - off / 64)).foldl (fun s i => s.setLineTag d (b / 64 + off / 64 + i) t) s

/-- Bytes of a slot from a window offset on, with their tag, cut into lines; `n` bytes take the tag. -/
def cutLines (d off n : Nat) (bs : List Byte) (tag : LineTag) : List MatOut :=
  (List.range ((off + n + 63) / 64 - off / 64)).map (fun i =>
    let a := max off ((off / 64 + i) * 64)
    let e := min (off + n) ((off / 64 + i + 1) * 64)
    ⟨d, a, (bs.drop (a - off)).take (e - a), tag⟩)

/-- Pieces under the number of the unit that they belong to, as units in order. -/
def matUnits (ps : List (Nat × MatOut)) : List (List MatOut) :=
  ((ps.map (·.1)).eraseDups).map (fun k => (ps.filter (fun p => p.1 == k)).map (·.2))

/-- The lines of a unit. -/
def State.unitPlaces (s : State) (l : Nat) (u : List MatOut) : List (Nat × Nat) :=
  s.physLines l (u.map (fun o => (o.core, o.off, o.off + max 1 o.bytes.length)))

/-- Writes a unit as one synthetic chunk (R276 item 4). -/
def State.putUnit (s : State) (l : Nat) (u : List MatOut) : State :=
  let s := (s.unitPlaces l u).foldl (fun s q => s.clearLine q.1 q.2) s
  u.foldl (fun s o => (s.engineBytes l o.core o.off o.bytes).engineTag l o.core o.off (max 1 o.bytes.length) o.tag) s

/-- Writes units in order, up to the first that must wait; what is left. -/
def State.putUnits (s : State) (l : Nat) : List (List MatOut) → State × List (List MatOut)
  | [] => (s, [])
  | u :: r => if (s.unitPlaces l u).any (fun q => s.lineBusy q.1 q.2) then (s, u :: r) else (s.putUnit l u).putUnits l r

/-- Command `i` of core `c` writes its results; it is complete with the last. -/
def State.matWrite (s : State) (c i l : Nat) (us : List (List MatOut)) (f : Flags) : State :=
  match s.putUnits l us with
  | (s, []) => (s.dropMat c i).upLaunchCx c l (·.matDone f 0)
  | (s, left) => s.upMat c i (fun m => { m with out := some left, flags := f.toNat })

/-- The units of an image: each line, with the scales of the rows that begin in it. -/
def mrdUnits (w : Word) (d scale : Nat) (rows : List (List Nat × Option Nat × Flags)) : List (List MatOut) :=
  let fmt := fld w 37 33
  matUnits (rows.zipIdx.flatMap (fun e =>
    let off := fld w 20 0 + imgStride w * e.2
    (cutLines d off (imgRow w) (toBytes (imgRow w) (packFrom fmt 0 e.1.1)) ⟨fmt, tagIsMx fmt⟩).map (fun o => (o.off / 64, o)) ++
    (match e.1.2.1 with
      | some sc => [(off / 64, ⟨d, scaleOff fmt off scale (off % groupBytes fmt * 8 / elemBits fmt / 32), [BitVec.ofNat 8 sc],
          ⟨tagE8m0, false⟩⟩)]
      | none => [])))

/-- MRD_EXECUTE: the tile is written to the image, each line as a synthetic chunk that waits for itself alone (R276 item 4, R282). -/
def execMrdExecute (s : State) : Ans :=
  let c := s.cur.core
  .next (s.matRun (fun i m x s => match m.cmd with
    | .mrd w scale =>
      match m.out with
      | some us => s.matWrite c i m.launch us (BitVec.ofNat 5 m.flags)
      | none =>
        let a := tileAddr c x (fld w 32 29)
        let rows := (List.range 32).map (fun r => mrdRow w ((List.range 32).map (s.tileElem a r)))
        s.matWrite c i m.launch (mrdUnits w (clusterOf c * 256 + fld w 28 21) scale rows) (rows.foldl (fun f e => f ||| e.2.2) 0)
    | _ => s))

end Sys2Proof.Machine
end

