-- ==== Sys2Proof/Machine/CopyRun.lean ====
section
/-! DEFINITION. What the copy engines do after release: reading, converting and writing one destination line at a time (07
R234, R235, R238–R243), and the gather engines (R248, R249). -/
namespace Sys2Proof.Machine

/-! ## Engine accesses to memory (07 R243; 10 R318; 14 R427, R429) -/

/-- Why an engine does not perform its next access. -/
inductive EngStop where
  /-- it waits -/
  | wait
  /-- it stops in REPAIR with a cause at an address; `s` is the state after its translation, with the claims that its walks made (10
  R317) -/
  | repair (s : State) (cause : Cause) (va : Nat)
  /-- the task instance ends with a cause and an address -/
  | ends (s : State) (cause : Cause) (info : Nat)
deriving DecidableEq, Repr

/-- An engine's access that meets poison at a PA: in the CXL tier a read stops with reason 13 and a write ends the task instance (14
R427); in HBM it is cause 0xD2 (10 R325). -/
def State.poisonStop (s : State) (pa kind va : Nat) : EngStop :=
  if bits pa 51 50 = 1 then (if kind = 0 then .repair s 0x4D va else if kind = 1 then .ends s 0x5D va else .ends s 0x6D va)
  else .repair s 0xD2 va

/-- A walk for an engine. -/
def State.engineWalk (s : State) (asid va kind : Nat) (sup : Bool) : Except EngStop (State × Xlat) :=
  match s.walk asid va kind sup none with
  | .ok s x => .ok (s.holdXlat x, x)
  | .fault s r => .error (.repair s (accessCause kind r) va)
  | .absent => .error (.repair s (accessCause kind 10) va)
  | .invalid => .error (.ends s 0xB5 va)
  | .busy => .error .wait
  | .poison pa => .error (s.poisonStop pa kind va)
  | .lacks => .error (.ends s 0x1F va)

/-- The translation of a VA for an engine; a tier or a page whose feature is not enabled ends the task instance with 0x1F (13 R395,
log 124). -/
def State.engineXlat (s : State) (asid va kind : Nat) (sup : Bool) : Except EngStop (State × Xlat) :=
  if s.regionOff va then .error (.ends s 0x1F va)
  else if 2 ≤ bits va 55 54 then .error (.repair s (accessCause kind 3) va)
  else match s.xlatOf asid va with
    | some x =>
      if leafConf x.attr && !s.feature 10 then .error (.ends s 0x1F va)
      else if !leafPermits x.attr kind sup then .error (.repair s (accessCause kind 2) va)
      else if (kind = 1 || kind = 2) && !leafD x.attr then s.engineWalk asid va kind sup else .ok (s, x)
    | none => s.engineWalk asid va kind sup

/-- The VAs that an engine's command writes: whether it writes every byte of [a, b). -/
abbrev Covers := Nat → Nat → Bool
/-- A command that writes no memory. -/
def coversNone : Covers := fun _ _ => false

/-- An access to the bytes [a, a + n) of a line: whether it meets the bytes of a granule. -/
abbrev Touches := Nat → Nat → Bool
/-- One that reads the line as one unit (07 R240). -/
def touchesLine : Touches := fun _ _ => true
/-- One of the bytes [a, a + n). -/
def touchesBytes (a n : Nat) : Touches := fun lo hi => decide (a < hi) && decide (lo < a + n)

/-- The bytes of the line at a PA that an engine accesses at a VA lie in a poisoned granule that bars it: every access but a write whose
command covers the whole granule (10 R325, log 125). -/
def State.lineBarred (s : State) (pa va kind : Nat) (tch : Touches) (cov : Covers) : Bool :=
  let line := pa / 64 * 64
  s.poison.any (fun q =>
    let g := va / 65536 * 65536 + q.1 % 65536
    decide (q.1 < line + 64) && decide (line < q.1 + q.2) && tch g (g + q.2) && !(kind == 1 && cov g (g + q.2))) || s.goneAt pa

/-- The PA of a line that an engine reads (kind 0) or writes (kind 1); `tcause` is its translation cause. A read waits while a granted
commit has still to write the line (06 R199). -/
def State.enginePa (s : State) (asid va kind : Nat) (sup : Bool) (tch : Touches) (cov : Covers) (tcause : Cause) :
    Except EngStop (State × Nat) :=
  match s.engineXlat asid va kind sup with
  | .error e => .error e
  | .ok (s, x) =>
    let pa := x.pfn * 65536 + va % 65536
    if leafConf x.attr && s.noKeys pa then .error (.ends s tcause va)
    else if kind = 0 && s.grantOn (pa / 64) then .error .wait
    else if s.lineBarred pa va kind tch cov then .error (s.poisonStop pa kind va)
    else .ok (s, pa)

/-- The PAs of the lines around VAs: a table from VA / 64 to PA / 64. `tch v` tells which bytes of line v are accessed. -/
def State.engineLines (s : State) (asid kind : Nat) (sup : Bool) (tch : Nat → Touches) (cov : Covers) (tcause : Cause) (m : FMap Nat) :
    List Nat → Except EngStop (State × FMap Nat)
  | [] => .ok (s, m)
  | v :: r =>
    if (m.find v).isSome then s.engineLines asid kind sup tch cov tcause m r
    else match s.enginePa asid (v * 64) kind sup (tch v) cov tcause with
      | .error e => .error e
      | .ok (s, pa) => s.engineLines asid kind sup tch cov tcause (m.put v (pa / 64)) r

/-- The task instance of an engine's command ends by the cause of an access; an error of the CXL tier in a write is logged too (14
R427). -/
def State.engineEnds (s : State) (c l : Nat) (k : Cause) (va : Nat) : State :=
  let i := s.recInst c l
  let s := if k = 0x5D then s.logErr { die := dieOf c, cause := 0xDA, pkgu := true, inst := i.1, lseq := i.2 } else s
  s.endInstance c l (endingOf k (BitVec.ofNat 64 va))

/-- An uncommitted chunk has written a line of a slot (07 R240). -/
def State.lineWritten (s : State) (key : Nat) : Bool :=
  s.cores.any (fun e => e.2.cx.chunk.slotW.contains key || e.2.cx.pend.any (fun k => k.slotW.contains key))

/-! ## One unit of a copy (R239, R240) -/

/-- A piece of a destination row: its offset from the base, the row, the place in the row, and its bytes. -/
structure Seg where
  off : Nat
  row : Nat × Nat × Nat
  pos : Nat
  len : Nat
deriving DecidableEq, Repr

/-- The pieces of destination rows in offsets [x, hi). -/
def rowSegs (t : BitVec 512) (hi : Nat) : Nat → Nat → List Seg
  | 0, _ => []
  | n + 1, x => match dstNext t x with
    | none => []
    | some y =>
      if hi ≤ y then []
      else
        let r := dstRowAt t y
        let len := min (r.2 + tRowBytes t) hi - y
        ⟨y, r.1, y - r.2, len⟩ :: rowSegs t hi n (y + len)

/-- The elements of a converted piece: the first and one past the last. -/
def segElems (t : BitVec 512) (g : Seg) : Nat × Nat :=
  (g.pos * 8 / tDbits t, ((g.pos + g.len) * 8 + tDbits t - 1) / tDbits t)

/-- The copy converts its elements (R234). -/
def tConverts (t : BitVec 512) : Bool := tDfmt t != tSfmt t

/-- The source bytes of a piece: the first, relative to the source base, and their number. -/
def segSrc (t : BitVec 512) (g : Seg) : Int × Nat :=
  if tConverts t then
    let e := segElems t g
    let lo := e.1 * tSbits t / 8
    (srcRowOff t g.row + (lo : Int), (e.2 * tSbits t + 7) / 8 - lo)
  else (srcRowOff t g.row + (g.pos : Int), g.len)

/-- The address of a source byte: a VA, or a window offset. -/
def srcAddr (q : CopyCmd) (off : Int) : Nat :=
  if tSkind q.t = 0 then lowBits ((q.src : Int) + off) 56 else lowBits (((q.src % 2 ^ 21 : Nat) : Int) + off) 21

/-- The address of scale byte `k` of the group at offset `off` from a base (R37, R235). -/
def scaleAddr (mem : Bool) (fmt base scale sclva : Nat) (off : Int) (k : Nat) : Nat :=
  if mem then lowBits ((sclva : Int) + off / (groupBytes fmt : Int) * (groupBlocks fmt : Int) + (k : Int)) 56
  else scaleOff fmt (lowBits (((base % 2 ^ 21 : Nat) : Int) + off) 21) scale k

/-- The source's scale byte of element `j` of a row. -/
def srcScale (q : CopyCmd) (row : Nat × Nat × Nat) (j : Nat) : Nat :=
  let f := tSfmt q.t
  let n := groupElems f
  scaleAddr (tSkind q.t = 0) f q.src q.scale (tSclva q.t) (srcRowOff q.t row + ((j / n * groupBytes f : Nat) : Int))
    (j % n / blockElems f)

/-- Scales travel with the elements. -/
def tScaled (t : BitVec 512) : Bool := tPair t && groupBlocks (tSfmt t) != 0

/-- The elements of a piece whose scales it needs: one for each block. -/
def segBlocks (t : BitVec 512) (g : Seg) : List Nat :=
  if !tScaled t then []
  else
    let b := blockElems (tSfmt t)
    let e := if tConverts t then segElems t g else (g.pos * 8 / tSbits t, ((g.pos + g.len) * 8) / tSbits t)
    (List.range ((e.2 + b - 1) / b - e.1 / b)).map (fun i => (e.1 / b + i) * b)

/-- The source is read in whole groups: several lines, or lines with their scales (R240; 01 R38). -/
def tUnited (t : BitVec 512) : Bool := fmtMoves t (tSfmt t)

/-- The group or atomic unit that byte `o` of a source row belongs to, by its address, where the source is read in whole groups; else
0 (R240; 01 R38). -/
def srcUnit (q : CopyCmd) (row : Nat × Nat × Nat) (o : Nat) : Nat :=
  let g := groupBytes (tSfmt q.t)
  if tUnited q.t then 1 + srcAddr q (srcRowOff q.t row + ((o / g * g : Nat) : Int)) else 0

/-- A source line that a piece reads, for an atomic unit or none: an element line, or one of scales. -/
structure SrcLine where
  unit : Nat
  line : Nat
  elem : Bool
deriving DecidableEq, Repr

/-- Its key in the buffer of the channel. -/
def SrcLine.key (l : SrcLine) : Nat := l.unit * 2 ^ 56 + l.line

/-- The source lines that a piece reads: those of its elements; or all of every group, or atomic unit, that it meets (R240; 01
R38). -/
def segLines (q : CopyCmd) (g : Seg) : List SrcLine :=
  let r := segSrc q.t g
  let at' := fun (o : Nat) => srcAddr q (srcRowOff q.t g.row + (o : Int))
  let o := (r.1 - srcRowOff q.t g.row).toNat
  if tUnited q.t then
    let f := tSfmt q.t
    let n := groupBytes f
    (List.range ((o + r.2 + n - 1) / n - o / n)).flatMap (fun i =>
      let k := o / n + i
      let u := srcUnit q g.row (k * n)
      ((List.range n).map (fun j => (⟨u, at' (k * n + j) / 64, true⟩ : SrcLine))) ++
        ((List.range (if tScaled q.t then groupBlocks f else 0)).map (fun b =>
          ⟨u, srcScale q g.row (k * groupElems f + b * blockElems f) / 64, false⟩)))
  else (List.range r.2).map (fun i => ⟨0, at' (o + i) / 64, true⟩)

/-- A byte of the lines that a channel holds: of an atomic unit, or of none, at a source address. -/
def bufByte (b : FMap (List Byte)) (u a : Nat) : Byte := ((b.find (u * 2 ^ 56 + a / 64)).getD []).getD (a % 64) 0

/-- The number in the source bits of element `j` of a row. -/
def srcElem (q : CopyCmd) (rd : Nat → Nat → Byte) (row : Nat × Nat × Nat) (j : Nat) : Nat :=
  let b := tSbits q.t
  let lo := j * b / 8
  let n := (j * b + b + 7) / 8 - lo
  let v := ofBytes ((List.range n).map (fun (i : Nat) =>
    rd (srcUnit q row lo) (srcAddr q (srcRowOff q.t row + ((lo + i : Nat) : Int)))))
  v / 2 ^ (j * b - lo * 8) % 2 ^ b

/-- The scale byte of element `j` of a row. -/
def srcScaleByte (q : CopyCmd) (rd : Nat → Nat → Byte) (row : Nat × Nat × Nat) (j : Nat) : Byte :=
  rd (srcUnit q row (j / groupElems (tSfmt q.t) * groupBytes (tSfmt q.t))) (srcScale q row j)

/-- The bytes of a piece (R234, R235). -/
def segBytes (q : CopyCmd) (rd : Nat → Nat → Byte) (g : Seg) : List Byte :=
  let t := q.t
  if tConverts t then
    let e := segElems t g
    let acc := fun (f : Nat) => if f = tagAcc then tagF32 else f
    let r : Rnd := { mode := rmodeOf (tRm t), satn := tSatn t }
    let v := (List.range (e.2 - e.1)).foldl (fun a i =>
      let sc := if tScaled t then (srcScaleByte q rd g.row (e.1 + i)).toNat else 0x7F
      let x := elemNum (acc (tSfmt t)) false sc (srcElem q rd g.row (e.1 + i))
      a + (encodeElem (acc (tDfmt t)) false r 0x7F x).1 % 2 ^ tDbits t * 2 ^ (tDbits t * i)) 0
    toBytes g.len (v / 2 ^ (g.pos * 8 - e.1 * tDbits t))
  else (List.range g.len).map (fun (i : Nat) => rd (srcUnit q g.row (g.pos + i)) (srcAddr q ((segSrc t g).1 + (i : Int))))

/-- The scale bytes that a piece writes: address (a VA, or a window offset) and byte. -/
def segScales (q : CopyCmd) (rd : Nat → Nat → Byte) (g : Seg) : List (Nat × Byte) :=
  if tConverts q.t then []
  else
    let f := tSfmt q.t
    let n := groupElems f
    let j0 := g.pos * 8 / tSbits q.t
    (segBlocks q.t g).map (fun j =>
      (scaleAddr (tDkind q.t = 0) f q.dst q.scale (tSclva q.t)
        (((g.off + (j / n - j0 / n) * groupBytes f : Nat) : Int)) (j % n / blockElems f),
       srcScaleByte q rd g.row j))

/-- A source line of a slot has a tag or SP bit that the copy does not accept (R234). The SP rule goes by SFMT, for a raw line too (DEDUCED,
log 143). -/
def srcTagBad (t : BitVec 512) (l : LineTag) : Bool :=
  tSfmt t != 0 && ((l.tag != tSfmt t && l.tag != 0) ||
    ((tagIsMx (tSfmt t) || tagIsBx (tSfmt t)) && l.sp != tPair t))

/-- The source of a unit: the state after translation, and the lines that the channel then holds. Each line, or each atomic unit, is
read once in the copy (R240; 01 R38). -/
def State.copySource (s : State) (ch : Chan) (q : CopyCmd) (gs : List Seg) : Except EngStop (State × FMap (List Byte)) :=
  let lines := ((gs.flatMap (segLines q)).eraseDups).filter (fun l => (ch.buf.find l.key).isNone)
  let put := fun (rd : Nat → List Byte) => lines.foldl (fun (b : FMap (List Byte)) l => b.put l.key (rd l.line)) ch.buf
  if tSkind q.t = 0 then
    match s.engineLines q.asid 0 q.sup (fun _ => touchesLine) coversNone 0x81 [] (lines.map (·.line)) with
    | .error e => .error e
    | .ok (s, m) => .ok (s, put (fun l => s.mem.readN (m.get l 0 * 64) 64))
  else
    let d := srcCore q
    match s.window d q.launch with
    | none => .error (.ends s 0x85 q.src)
    | some (_, none) => .error .wait
    | some (_, some b) =>
      if lines.any (fun l => s.lineWritten (d * 2 ^ 15 + b / 64 + l.line) ||
          s.pendingWrite q.launch d (l.line * 64) (l.line * 64 + 64) (some q.no)) then .error .wait
      else match lines.find? (fun l => l.elem && srcTagBad q.t (s.lineTag d (b / 64 + l.line))) with
        | some l => .error (.ends s 0x84 (coreIdx d * 2 ^ 21 + l.line * 64))
        | none => .ok (s, put (fun l => s.vault.readN (d * 2 ^ 21 + b + l * 64) 64))

/-- A slot can take lines of a copy now. -/
def State.slotReady (s : State) (q : CopyCmd) (lines : List Nat) (d : Nat) : Except EngStop Unit :=
  match s.window d q.launch with
  | none => .error (.ends s 0x85 q.dst)
  | some (_, none) => .error .wait
  | some (_, some b) =>
    if lines.any (fun l => s.lineBusy d (b / 64 + l) ||
        s.pendingRead q.launch d (l * 64) (l * 64 + 64) (some q.no) ||
        s.pendingWrite q.launch d (l * 64) (l * 64 + 64) (some q.no)) then .error .wait
    else .ok ()

/-- Writes a unit's bytes into one slot: tags, and SP = PAIR on MX and BX types (R234). -/
def State.putSlot (s : State) (q : CopyCmd) (d : Nat) (ws sc : List (Nat × List Byte)) : State :=
  let f := tDfmt q.t
  let tag : LineTag := ⟨f, tPair q.t && (tagIsMx f || tagIsBx f)⟩
  let lines := s.physLines q.launch ((ws ++ sc).map (fun w => (d, w.1, w.1 + w.2.length)))
  let s := lines.foldl (fun s q => s.clearLine q.1 q.2) s
  let s := ws.foldl (fun s w => (s.engineBytes q.launch d w.1 w.2).engineTag q.launch d w.1 w.2.length tag) s
  sc.foldl (fun s w => (s.engineBytes q.launch d w.1 w.2).engineTag q.launch d w.1 w.2.length ⟨tagE8m0, false⟩) s

/-- Bytes by VA, gathered into lines of memory: VA / 64 with the pieces inside. -/
def byLine (ws : List (Nat × List Byte)) : List (Nat × List (Nat × Byte)) :=
  let bs := ws.flatMap (fun w => (List.range w.2.length).map (fun i => ((w.1 + i) % 2 ^ 56, w.2.getD i 0)))
  ((bs.map (fun b => b.1 / 64)).eraseDups).map (fun l => (l, bs.filter (fun b => b.1 / 64 == l)))

/-- A line of memory with some bytes replaced. -/
def State.mergeLine (s : State) (pa : Nat) (bs : List (Nat × Byte)) : List Byte :=
  (List.range 64).map (fun i => match bs.find? (fun b => b.1 % 64 == i) with
    | some b => b.2
    | none => s.mem.read (pa + i))

/-- A copy writes every byte of [a, b) in memory: destination bytes, or scales of groups that it writes. -/
def copyCovers (q : CopyCmd) : Covers := fun a b =>
  let g := groupBytes (tDfmt q.t)
  (List.range (b - a)).all (fun i =>
    let d := lowBits (((a + i : Nat) : Int) - (q.dst : Int)) 56
    let k := lowBits (((a + i : Nat) : Int) - (tSclva q.t : Int)) 56 / max 1 (groupBlocks (tDfmt q.t))
    dstHits q.t 0 d (d + 1) || (tScaled q.t && !tConverts q.t && dstHits q.t 0 (k * g) (k * g + g)))

/-- The last line of a poisoned granule that an engine's command covers is written: the granule is no longer poisoned (10 R325, log
125). -/
def State.healed (s : State) (cov : Covers) (va pa : Nat) : State :=
  let page := va / 65536 * 65536
  { s with poison := s.poison.filter (fun e => !(e.1 + e.2 == pa + 64 && e.1 / 65536 == pa / 65536 &&
      cov (page + e.1 % 65536) (page + e.1 % 65536 + e.2))) }

/-- Writes a unit's bytes to memory, each line as a synthetic chunk (R240). -/
def State.putMem (s : State) (q : CopyCmd) (ws : List (Nat × List Byte)) : Except EngStop State :=
  let ls := byLine ws
  let tch := fun (v : Nat) (lo hi : Nat) => ls.any (fun l => l.1 == v && l.2.any (fun b => decide (lo ≤ b.1) && decide (b.1 < hi)))
  match s.engineLines q.asid 1 q.sup tch (copyCovers q) 0x81 [] (ls.map (·.1)) with
  | .error e => .error e
  | .ok (s, m) =>
    if ls.any (fun l => s.synthBusy none (m.get l.1 0 * 64)) then .error .wait
    else .ok (ls.foldl (fun s l =>
      let pa := m.get l.1 0 * 64
      (s.synthFor q.launch pa (s.mergeLine pa l.2)).healed (copyCovers q) (l.1 * 64) pa) s)

/-- The destination lines that are complete once the unit [y, hi) of a copy is written: no byte of them lies beyond it. -/
def unitLines (q : CopyCmd) (y hi : Nat) : Nat :=
  let base := if tDkind q.t = 0 then q.dst else q.dst % 2 ^ 21
  let l := (base + y) / 64
  ((List.range ((base + min hi (dstSpan q.t) + 63) / 64 - l)).filter (fun i =>
    !dstHits q.t hi ((l + i) * 64 - base) ((l + i) * 64 + 64 - base))).length

/-- The next unit of a channel's copy: the state after it is written, and the channel. A copy with several targets writes one of them,
and is done with the unit once every target holds it (R241). -/
def State.copyUnit (s : State) (ch : Chan) (q : CopyCmd) : Except EngStop (State × Chan) :=
  match dstNext q.t (chanOff ch q) with
  | none => .error .wait
  | some y =>
    let hi := unitEnd q y
    let gs := rowSegs q.t hi 512 y
    match s.copySource ch q gs with
    | .error e => .error e
    | .ok (s, buf) =>
      let rd := bufByte buf
      let at' := fun (o : Nat) => if tDkind q.t = 0 then (q.dst + o) % 2 ^ 56 else q.dst % 2 ^ 21 + o
      let ws := gs.map (fun g => (at' g.off, segBytes q rd g))
      let sc := gs.flatMap (fun g => (segScales q rd g).map (fun e => (e.1, [e.2])))
      let w := match dstNext q.t hi with | some z => z | none => dstSpan q.t
      let past : Chan := { ch with buf := buf, w := q.dst + w, lines := ch.lines + unitLines q y hi, done := [] }
      if tDkind q.t = 0 then
        match s.putMem q (ws ++ sc) with
        | .error e => .error e
        | .ok s => .ok (s, past)
      else
        let lines := ((ws ++ sc).flatMap (fun e =>
          (List.range ((e.1 + e.2.length + 63) / 64 - e.1 / 64)).map (fun i => e.1 / 64 + i))).eraseDups
        let left := (dstCores q).filter (fun d => !ch.done.contains d)
        match left.findSome? (fun d => match s.slotReady q lines d with | .error (.ends e k i) => some (EngStop.ends e k i) | _ => none) with
        | some e => .error e
        | none => match left.find? (fun d => (s.slotReady q lines d).isOk) with
          | none => .error .wait
          | some d =>
            .ok (s.putSlot q d ws sc, if left.length ≤ 1 then past else { ch with buf := buf, done := d :: ch.done })

/-- A channel of a core. -/
def State.chan (s : State) (c n : Nat) : Chan := (s.core c).chans.get n {}
/-- Changes a channel. -/
def State.upChan (s : State) (c n : Nat) (f : Chan → Chan) : State :=
  s.upCore c (fun k => { k with chans := k.chans.upd n {} f })

/-- COPY_LINE_WRITE: channel `unit` of the acting core writes its next destination line, or group, in one target (R239–R241). -/
def execCopyLineWrite (s : State) : Ans :=
  let c := s.cur.core
  let n := s.cur.unit
  let ch := s.chan c n
  match ch.st, ch.cur with
  | .active, some q =>
    if s.engineTest 0 c n then .next s
    else match s.copyUnit ch q with
    | .ok (s, k) => .next (s.upChan c n (fun ch => { ch with buf := k.buf, w := k.w, lines := k.lines, done := k.done }))
    | .error (.ends s k i) =>
      let s := (s.upChan c n (fun ch => { ch with st := .failed })).emit c q.launch 1 0x06 16 n (BitVec.ofNat 64 i)
      .next (s.engineEnds c q.launch k i)
    | .error _ => .next s
  | _, _ => .next s

/-- The phase that a completed copy was bound to ends if nothing else is missing (09 R300). -/
def State.endBound (s : State) (c : Nat) (q : CopyCmd) : State :=
  if tPlvl q.t = 0 then s
  else match s.anyCx c q.launch with
    | some x => s.endPhase (tPlvl q.t) (domPlace (tPlvl q.t) c) (x.domNo (tPlvl q.t))
    | none => s

/-- COPY_COMPLETE: every destination line is written: the counter falls by one, and the next copy of the channel starts
(R231, R238, R243). -/
def execCopyComplete (s : State) : Ans :=
  let c := s.cur.core
  let n := s.cur.unit
  let ch := s.chan c n
  match ch.st, ch.cur with
  | .active, some q =>
    if chanOff ch q < dstSpan q.t then .next s
    else
      let s := s.upLaunchCx c q.launch (fun x =>
        { x with ctr := x.ctr.set (tCtr q.t) ((x.ctr.get (tCtr q.t) 0 + 65535) % 65536) 0 })
      let v := ((s.launchCx c q.launch).map (fun x => x.ctr.get (tCtr q.t) 0)).getD 0
      let s := s.emit c q.launch 1 0x03 16 n (BitVec.ofNat 64 (tCtr q.t + v * 2 ^ 16))
      let s := s.upChan c n (fun ch => { ch with st := .idle, cur := none, buf := [] }.start)
      let s := s.endBound c q
      match (s.chan c n).cur with
      | some r => .next (s.emit c r.launch 1 0x02 16 n (BitVec.ofNat 64 r.dst))
      | none => .next s
  | _, _ => .next s

/-! ## Gathers (R248, R249) -/

/-- The next element of a gather command: its value, with the state after translation. -/
def State.gatherNext (s : State) (g : GatherCmd) : Except EngStop (State × Word) :=
  let ib := 2 ^ (fld g.ctl 42 41 + 1)
  let d := clusterOf g.core * 256 + fld g.ctl 28 21
  let io := fld g.ctl 20 0 + g.next * ib
  match s.window d g.launch with
  | none => .error (.ends s 0x8D (fld g.ctl 28 0))
  | some (_, none) => .error .wait
  | some (_, some b) =>
    if s.lineWritten (d * 2 ^ 15 + (b + io) / 64) ||
        s.pendingWrite g.launch d (io / 64 * 64) (io / 64 * 64 + 64) none then .error .wait
    else
      let x := sextI (s.vault.readNat (d * 2 ^ 21 + b + io) ib) (8 * ib)
      let n := 2 ^ fld g.ctl 44 43
      let va := lowBits ((g.base % 2 ^ 56 : Nat) + x * (2 ^ fld g.ctl 51 46 : Nat)) 56
      if va % n ≠ 0 || 2 ≤ bits va 55 54 then .error (.ends s 0x88 va)
      else match s.enginePa g.asid va 0 g.sup (touchesBytes va n) coversNone 0x89 with
        | .error e => .error e
        | .ok (s, pa) =>
          let v := s.memNat pa n
          .ok (s, if g.ctl.getLsbD 45 then sextW v (8 * n) else zextW v (8 * n))

/-- The head command of gather engine `unit` of the acting core's cluster. -/
def State.gatherCur (s : State) : Option GatherCmd :=
  match s.gathers.get (clusterOf s.cur.core * 16 + s.cur.unit % 16) [] with
  | g :: _ => some g
  | [] => none

/-- Drops the head command of a gather engine. -/
def State.dropGather (s : State) (k : Nat) : State := { s with gathers := s.gathers.put k ((s.gathers.get k []).drop 1) }

/-- The commands of a launch on core `c` leave the gather engines. -/
def State.dropGathers (s : State) (c l : Nat) : State :=
  { s with gathers := s.gathers.map (fun e => (e.1, e.2.filter (fun g => !(g.core == c && g.launch == l)))) }

/-- GATHER_ELEMENT: gather engine `unit` reads the next element of its head command and delivers it into the FIFO, which holds 64. The
elements that a chunk in flight has popped have left it; a squash puts them back beside those that have come since (R257, log 132). -/
def execGatherElement (s : State) : Ans :=
  let k := clusterOf s.cur.core * 16 + s.cur.unit % 16
  match s.gatherCur with
  | none => .next s
  | some g =>
    let e := fld g.ctl 53 52
    match s.launchCx g.core g.launch with
    | none => .next (s.dropGather k)
    | some x =>
      if g.repair || s.engineTest 1 g.core (s.cur.unit % 16) || 64 ≤ (x.fifos.get e []).length then .next s
      else match s.gatherNext g with
        | .error (.ends s c i) => .next ((s.dropGathers g.core g.launch).engineEnds g.core g.launch c i)
        | .error _ => .next s
        | .ok (s, v) =>
          let s := s.upLaunchCx g.core g.launch (fun x => { x with fifos := x.fifos.set e (x.fifos.get e [] ++ [v]) [] })
          if g.next = fld g.ctl 40 29 then .next (s.dropGather k)
          else .next { s with gathers := s.gathers.put k (match s.gathers.get k [] with
            | g :: r => { g with next := g.next + 1 } :: r
            | [] => []) }

end Sys2Proof.Machine
end

