-- ==== Sys2Proof/Machine/Gemvh.lean ====
section
/-! DEFINITION. The base-die matrix–vector command (10 R327, R328) and the faults of copies, gathers and `gemvh` (07 R243). -/
namespace Sys2Proof.Machine

/-! ## The descriptor (R327) -/

def gvBva (t : BitVec 512) : Nat := rf t 0 55 0
def gvBfmt (t : BitVec 512) : Nat := rf t 0 60 56
def gvScl (t : BitVec 512) : Nat := rf t 8 55 0
def gvBstr (t : BitVec 512) : Nat := rf t 0x10 31 0
def gvSstr (t : BitVec 512) : Nat := rf t 0x10 47 32
def gvPair (t : BitVec 512) : Bool := rf t 0x10 48 48 == 1
def gvM (t : BitVec 512) : Nat := rf t 0x18 15 0 + 1
def gvK (t : BitVec 512) : Nat := rf t 0x18 31 16 + 1
def gvV (t : BitVec 512) : Nat := rf t 0x18 33 32 + 1
def gvXfmt (t : BitVec 512) : Nat := rf t 0x18 38 34
def gvShift (t : BitVec 512) : Int := sextI (rf t 0x18 45 39) 7
def gvSat (t : BitVec 512) : Bool := rf t 0x18 46 46 == 1
def gvXaddr (t : BitVec 512) : Nat := rf t 0x20 28 0
def gvXstr (t : BitVec 512) : Nat := rf t 0x20 63 32
def gvYaddr (t : BitVec 512) : Nat := rf t 0x28 28 0
def gvYstr (t : BitVec 512) : Nat := rf t 0x28 63 32
/-- Bytes of a result extent. -/
def gvYlen (t : BitVec 512) : Nat := (gvM t + 31) / 32 * 128

/-- The first group of checks fails: 0x90. -/
def gvShapeBad (t : BitVec 512) : Bool :=
  rf t 0 63 61 != 0 || rf t 8 63 56 != 0 || rf t 0x10 63 49 != 0 || rf t 0x18 63 47 != 0 || rf t 0x20 31 29 != 0 ||
  rf t 0x28 31 29 != 0 || rf t 0x30 127 0 != 0 ||
  gvBva t % 1024 != 0 || gvBstr t % 1024 != 0 || decide (gvBstr t < kBytes (gvBfmt t) (gvK t)) ||
  (!gvPair t && tagIsBx (gvBfmt t)) || gvXstr t % 64 != 0 || gvYstr t % 64 != 0 ||
  gvXaddr t % groupBytes (gvXfmt t) != 0 || gvXstr t % groupBytes (gvXfmt t) != 0 || gvYaddr t % 64 != 0

/-- The formats are not ones that the multipliers take: 0x94. -/
def gvFmtBad (t : BitVec 512) : Bool :=
  !([tagE4m3, tagE2m1, 17, tagBx8, tagMxi8].contains (gvBfmt t)) || !matCombo (gvXfmt t) (gvBfmt t)

/-- A vector, its scales, or a result lies outside its slot or the window: the address. -/
def State.gvOutside (s : State) (c : Nat) (t : BitVec 512) (scale : Nat) : Option Nat :=
  let win := fun (a : Nat) => (s.window (clusterOf c * 256 + bits a 28 21) (s.launchNo c)).map (·.1)
  let xok := match win (gvXaddr t) with
    | some w => matInside w (gvXfmt t) (gvXaddr t % 2 ^ 21) (gvXstr t) (gvV t) (kBytes (gvXfmt t) (gvK t)) scale
    | none => false
  let yok := match win (gvYaddr t) with
    | some w => (List.range (gvV t)).all (fun v => inWin w (gvYaddr t % 2 ^ 21 + gvYstr t * v) (gvYlen t))
    | none => false
  if !xok then some (gvXaddr t) else if !yok then some (gvYaddr t) else none

/-- `gemvh` (R327, R328). -/
def execGemvh (p : Pfx) (f : FAZ) (s : State) : Ans :=
  s.instr p (fun _ => ctOnly { bad := f.d != 0 || f.z != 0, named := [f.s.toNat] }) (fun s =>
    let c := s.cur.core
    let a := (s.x f.s.toNat).toNat % 2 ^ 32
    if !s.feature 7 then .error (matFault 0x1F 0)
    else match s.spot c a 64 64 0 with
      | .error e => .error e
      | .ok q =>
        match s.spRead c q 64 with
        | .error e => .error e
        | .ok (s, bs) =>
          let t := BitVec.ofNat 512 (ofBytes bs)
          let x := s.cx c
          let scale := fld x.arch.scaleBase 20 6 * 64
          if (tagIsBx (gvBfmt t) || tagIsBx (gvXfmt t)) && !s.feature 1 then .error (matFault 0x1F 0)
          else if gvShapeBad t then .error (matFault 0x90 0)
          else if gvFmtBad t then .error (matFault 0x94 0)
          else match s.gvOutside c t scale with
            | some o => .error (matFault 0x91 o)
            | none =>
              if bits (gvBva t) 55 54 ≠ 0 || bits (gvScl t) 55 54 ≠ 0 then .error (matFault 0x42 (gvBva t))
              else s.holdCmd (.matrix (.gemvh t scale x.asid (s.isSup c))))

/-! ## Execution (R328) -/

/-- The lines of B by VA / 64, then those of its scales. -/
def gvLines (t : BitVec 512) : List Nat :=
  ((List.range (gvM t)).flatMap (fun m =>
    let o := gvBva t + gvBstr t * m
    (List.range ((kBytes (gvBfmt t) (gvK t) + 63) / 64)).map (fun i => o / 64 + i))).eraseDups
/-- The scale byte of block `b` of row `m`. -/
def gvScaleVa (t : BitVec 512) (m b : Nat) : Nat := gvScl t + gvSstr t * m + b
def gvScaleLines (t : BitVec 512) : List Nat :=
  if !gvPair t then []
  else
    let n := (gvK t + blockElems (gvBfmt t) - 1) / blockElems (gvBfmt t)
    ((List.range (gvM t)).flatMap (fun m => (List.range n).map (fun b => gvScaleVa t m b / 64))).eraseDups

/-- The values of row `m` of B. -/
def State.gvRow (s : State) (t : BitVec 512) (m : Nat) (tab : FMap Nat) : List Num :=
  let rd := fun (a : Nat) => s.mem.read (tab.get (a / 64) 0 * 64 + a % 64)
  let fmt := gvBfmt t
  let o := gvBva t + gvBstr t * m
  let n := groupElems fmt
  ((List.range ((gvK t + n - 1) / n)).flatMap (fun g =>
    groupValues fmt (ofBytes ((List.range (groupBytes fmt)).map (fun i => rd (o + g * groupBytes fmt + i))))
      (fun q => if gvPair t then (rd (gvScaleVa t m (g * groupBlocks fmt + q))).toNat else 0x7F) n)).take (gvK t)

/-- A page of B is not W1K. -/
def State.gvNotW1k (s : State) (asid : Nat) (lines : List Nat) : Option Nat :=
  lines.find? (fun l => match s.xlatOf asid (l * 64) with | some x => leafGran x.attr != 3 | none => true)

/-- The operands of a `gemvh`: the state after translation and the table of its lines. -/
def State.gvRead (s : State) (t : BitVec 512) (asid : Nat) (sup : Bool) : Except EngStop (State × FMap Nat) :=
  match s.engineLines asid 0 sup (fun _ => touchesLine) coversNone 0x4A [] (gvLines t) with
  | .error (.repair s 0xD2 va) => .error (.ends s 0x92 va)
  | .error e => .error e
  | .ok (s, m) =>
    match s.gvNotW1k asid (gvLines t) with
    | some l => .error (.ends s 0x42 (l * 64))
    | none => match s.engineLines asid 0 sup (fun _ => touchesLine) coversNone 0x4A m (gvScaleLines t) with
      | .error (.repair s 0xD2 va) => .error (.ends s 0x92 va)
      | r => r

/-- The results of a `gemvh` of core `c`: for each vector its M codes, with the flags. -/
def State.gvResults (s : State) (c l : Nat) (t : BitVec 512) (scale : Nat) (m : FMap Nat) : List (List Nat) × Flags :=
  let d := clusterOf c * 256 + bits (gvXaddr t) 28 21
  let xs := (List.range (gvV t)).map (fun v => s.rowValues d l (gvXfmt t) (gvXaddr t % 2 ^ 21 + gvXstr t * v) (gvK t) scale)
  let bs := (List.range (gvM t)).map (fun i => s.gvRow t i m)
  matTile (gvShift t) (gvSat t) xs bs (fun _ _ => none)

/-- The lines of the results, each a synthetic chunk. -/
def gvUnits (t : BitVec 512) (d : Nat) (ys : List (List Nat)) : List (List MatOut) :=
  matUnits (ys.zipIdx.flatMap (fun e =>
    (cutLines d (gvYaddr t % 2 ^ 21 + gvYstr t * e.2) (gvYlen t) (e.1.flatMap (toBytes 4)) ⟨tagF32, false⟩).map
      (fun o => (o.off / 64, o))))

/-- GEMVH_EXECUTE: the `gemvh` that is command `unit` of the acting core is executed (R328). -/
def execGemvhExecute (s : State) : Ans :=
  let c := s.cur.core
  .next (s.matRun (fun i r _ s => match r.cmd with
    | .gemvh t scale asid sup =>
      let l := r.launch
      let dx := clusterOf c * 256 + bits (gvXaddr t) 28 21
      if r.repair then s
      else if let some us := r.out then s.matWrite c i l us (BitVec.ofNat 5 r.flags)
      else match s.tagFault dx l (gvXfmt t) (gvXaddr t % 2 ^ 21) (gvXstr t) (gvV t) (gvK t) with
        | some a => s.failMat c l r.no 0x94 a
        | none => match s.gvRead t asid sup with
          | .error (.ends s k a) => s.failMat c l r.no k a
          | .error _ => s
          | .ok (s, m) =>
            let y := s.gvResults c l t scale m
            s.matWrite c i l (gvUnits t (clusterOf c * 256 + bits (gvYaddr t) 28 21) y.1) y.2
    | _ => s))

/-! ## Faults (07 R243) -/

/-- The `gemvh` of core `c` that stops: the state after its translations, its place, launch, cause and address. -/
def State.gemvhStops (s : State) (c : Nat) : Option (State × Nat × Nat × Cause × Nat) :=
  ((s.core c).mat.zipIdx).findSome? (fun e => match e.1.cmd with
    | .gemvh t _ asid sup =>
      if e.1.repair || e.1.out.isSome || !s.matFree c e.2 e.1 then none
      else match s.gvRead t asid sup with
        | .error (.repair q k va) => some (q, e.2, e.1.launch, k, va)
        | _ => none
    | _ => none)

/-- The index within the copy of the line that stops a unit's destination offsets [y, hi) at a VA: the destination line itself, or the one
whose bytes come from the source line; for a line of scales the unit's first (R244, log 133). -/
def Chan.faultIndex (ch : Chan) (q : CopyCmd) (y hi va : Nat) : Nat :=
  let base := if tDkind q.t = 0 then q.dst else q.dst % 2 ^ 21
  let n := (base + hi + 63) / 64 - (base + y) / 64
  let cut := fun (i : Nat) => (max y (((base + y) / 64 + i) * 64 - base), min hi (((base + y) / 64 + i + 1) * 64 - base))
  let here := fun (i : Nat) =>
    let e := cut i
    (rowSegs q.t e.2 64 e.1).any (fun g =>
      (tDkind q.t = 0 && decide ((base + g.off) % 2 ^ 56 / 64 = va / 64)) ||
      (tSkind q.t = 0 && (List.range (segSrc q.t g).2).any (fun j => decide (srcAddr q ((segSrc q.t g).1 + (j : Int)) / 64 = va / 64))))
  ch.lines + ((List.range n).find? here).getD 0

/-- What stops unit `unit` of core `c`: the state after its translations, launch, index in the message, cause, address and faulting
index. -/
def State.engineStops (s : State) (c unit : Nat) : Option (State × Nat × Nat × Cause × Nat × Nat) :=
  if unit < 0x40 then
    let ch := s.chan c unit
    match ch.st, ch.cur with
    | .active, some q => match s.copyUnit ch q with
      | .error (.repair e k va) =>
        let y := (dstNext q.t (chanOff ch q)).getD 0
        some (e, q.launch, q.tpl, k, va, ch.faultIndex q y (unitEnd q y) va)
      | _ => none
    | _, _ => none
  else if unit < 0x50 then
    match s.gatherHead c (unit - 0x40) with
    | some g =>
      if g.repair then none
      else match s.gatherNext g with
        | .error (.repair e k va) => some (e, g.launch, fld g.ctl 53 52, k, va, g.next)
        | _ => none
    | none => none
  else if unit = 0x50 then (s.gemvhStops c).map (fun e => (e.1, e.2.2.1, 0, e.2.2.2.1, e.2.2.2.2, 0))
  else none

/-- A unit stops in REPAIR with the address of its fault. -/
def State.toRepair (s : State) (c unit l va : Nat) : State :=
  if unit < 0x40 then s.upChan c unit (fun ch => { ch with st := .repair, fva := va })
  else if unit < 0x50 then s.upGather c (unit - 0x40) (fun g => { g with repair := true, fva := va })
  else if unit = 0x50 then
    match s.gemvhStops c with
    | some (_, i, _) => s.upMat c i (fun m => { m with repair := true, fva := va })
    | none => s
  else s.upCore c (fun k => { k with netRepair := some (l, va) })

/-- A unit of a core stops in REPAIR, and its fault message goes out (R243, R244, R247). -/
def State.engineFault (s : State) (c unit l idx : Nat) (k : Cause) (va index : Nat) : State :=
  let s := s.toRepair c unit l va
  let s := if unit < 0x40 then s.emit c l 1 0x04 16 unit (BitVec.ofNat 64 va) else s
  s.faultMsg c unit idx k va index l

end Sys2Proof.Machine
end

