-- ==== Sys2Proof/Machine/Far.lean ====
section
/-! DEFINITION. Atomics at the home slice (03 R98, R99) and the deterministic atomic mode (10 R310–R313). -/
namespace Sys2Proof.Machine

/-! ## Application of one operation -/

/-- A released operation is applied to the word in memory, as one synthetic chunk; its old value becomes the result (03 R97–R99;
06 R207). An address that has lost its translation is translated again; the operation waits while the page is absent or the line
is held. -/
def State.applyFar (s : State) (o : FarOp) : Except EngStop (State × Word) :=
  match s.engineXlat o.asid o.va 2 o.sup with
  | .error e => .error e
  | .ok (s, x) =>
    let pa := x.pfn * 65536 + o.va % 65536
    if s.poisonBars pa o.size true then .error (.ends s (if bits pa 51 50 = 1 then 0x6D else 0xD2) o.va)
    else if s.synthBusy none pa then .error .wait
    else
      let old := s.memNat pa o.size
      match o.new old with
      | some v => .ok (s.synthFor o.launch pa (toBytes o.size v), o.result old)
      | none => .ok (s, o.result old)

/-- The memory line that an operation acts on, by its translation. -/
def State.opLine (s : State) (o : FarOp) : Option Nat := (s.xlatOf o.asid o.va).map (fun x => (x.pfn * 65536 + o.va % 65536) / 64)

/-- An atomic to the same line stands before operation `o` of core `c` in the commit order: one that is released, or one of a granted
commit (03 R98). Among equal stamps the granted commits stand before those of reach 0, each by core number (06 R201). -/
def State.earlierAtomic (s : State) (c : Nat) (o : FarOp) : Bool :=
  let first := fun (st : Nat) (near : Bool) (d : Nat) => decide (st < o.stamp) ||
    (st == o.stamp && (if near == o.near then decide (d < c) else o.near))
  let same := fun (p : FarOp) => (s.opLine p).isSome && s.opLine p == s.opLine o
  s.cores.any (fun e => e.1 != c && (
    e.2.atomics.any (fun q => first q.2.stamp q.2.near e.1 && same q.2) ||
    e.2.cx.pend.any (fun k => match k.st with
      | .granted st _ _ => first st false e.1 && k.held.any (fun h => match h with | .atomic p => same p | _ => false)
      | _ => false)))

/-- FAR_ATOMIC_APPLY: the oldest released atomic of the acting core is applied at its home slice, in the commit order of the chunks. -/
def execFarAtomicApply (s : State) : Ans :=
  let c := s.cur.core
  match (s.core c).atomics with
  | [] => .next s
  | (l, o) :: r =>
    let drop := fun (s : State) => s.upCore c (fun k => { k with atomics := r })
    if s.earlierAtomic c o then .next s
    else match s.applyFar o with
    | .ok (s, w) => .next ((drop s).upAnyCx c l (·.resolve o.id w))
    | .error .wait => .next s
    | .error (.repair s k va) =>
      if k = accessCause 2 10 then .next s else .next ((drop s).endInstance c l (endingOf k (BitVec.ofNat 64 va)))
    | .error (.ends s k va) => .next ((drop s).endInstance c l (endingOf k (BitVec.ofNat 64 va)))

/-! ## The deterministic mode (R311–R313) -/

/-- The home slice of a VA on its die (R306). -/
def homeSlice (va : Nat) : Nat :=
  bits va 10 6 ^^^ bits va 15 11 ^^^ bits va 20 16 ^^^ bits va 25 21 ^^^ bits va 30 26 ^^^ bits va 35 31 ^^^
    bits va 40 36 ^^^ bits va 45 41 ^^^ bits va 47 46

/-- The entries of a phase at a slice (R312). -/
def State.damCap (s : State) (die : Nat) : Nat := 16 + fld (s.dieReg die 0x030) 15 0
/-- The phases that a slice holds at once. -/
def State.damMax (s : State) (die : Nat) : Nat := max 1 (fld (s.dieReg die 0x030) 19 16)

/-- The hold of a phase at a slice that update `o` of core `c` belongs to. -/
def DetHold.takes (h : DetHold) (c : Nat) (o : FarOp) : Bool :=
  match o.det with
  | some (_, _, lvl, id, ph) =>
    h.lvl == lvl && h.place == domPlace lvl c && h.id == id && h.ph == ph && h.die == bits o.va 53 52 &&
      h.slice == homeSlice o.va
  | none => false

/-- A hold for the phase and slice of an update. -/
def newHold (c : Nat) (o : FarOp) : DetHold :=
  match o.det with
  | some (_, _, lvl, id, ph) =>
    { lvl := lvl, place := domPlace lvl c, id := id, ph := ph, die := bits o.va 53 52, slice := homeSlice o.va
      held := [(c, o)], serial := false }
  | none => { lvl := 0, place := 0, id := 0, ph := 0, die := 0, slice := 0, held := [(c, o)], serial := false }

/-- DET_UPDATE_ARRIVE: released update number `unit` of the acting core reaches its home slice: it is held, or it marks its
phase serial and stays in its core; a slice that holds DMAX other phases keeps it there (R312). -/
def execDetUpdateArrive (s : State) : Ans :=
  let c := s.cur.core
  match (s.core c).detOut[s.cur.unit]? with
  | none => .next s
  | some (_, o) =>
    let die := bits o.va 53 52
    let take := fun (s : State) => s.upCore c (fun k => { k with detOut := k.detOut.eraseIdx s.cur.unit })
    match s.dets.findIdx? (·.takes c o) with
    | some i =>
      let h := s.dets.getD i (newHold c o)
      if h.serial then .next s
      else if s.damCap die ≤ h.held.length then .next { s with dets := s.dets.modify i (fun h => { h with serial := true }) }
      else .next (take { s with dets := s.dets.modify i (fun h => { h with held := h.held ++ [(c, o)] }) })
    | none =>
      if s.damMax die ≤ (s.dets.filter (fun h => h.die == die && h.slice == homeSlice o.va)).length then .next s
      else .next (take { s with dets := s.dets ++ [newHold c o] })

/-- The order key of an update: round order by (k, issuer), issuer-serial by (issuer, k). -/
def detKey (serial : Bool) (o : FarOp) : Nat :=
  match o.det with
  | some (i, k, _) => if serial then i * 2 ^ 64 + k else k * 2 ^ 64 + i
  | none => 0

/-- An update belongs to a phase of a domain. -/
def FarOp.inPhase (o : FarOp) (c lvl place id ph : Nat) : Bool :=
  match o.det with
  | some (_, _, l, i, p) => l == lvl && domPlace l c == place && i == id && p == ph
  | none => false

/-- Updates of a phase that still stand in their cores. -/
def State.phaseOut (s : State) (lvl place id ph : Nat) : List (Nat × FarOp) :=
  s.cores.flatMap (fun e => e.2.detOut.filterMap (fun q => if q.2.inPhase e.1 lvl place id ph then some (e.1, q.2) else none))

/-- The updates of a phase at one slice, in the order of R312: round order, or, where the phase is serial, issuer-serial order with
those not held. -/
def DetHold.ordered (h : DetHold) (out : List (Nat × FarOp)) : List (Nat × FarOp) :=
  (h.held ++ out.filter (fun q => h.takes q.1 q.2)).mergeSort (fun a b => decide (detKey h.serial a.2 ≤ detKey h.serial b.2))

/-- Applies updates in order; one that stops. -/
def State.applyAll (s : State) : List (Nat × FarOp) → Except (Nat × FarOp) State
  | [] => .ok s
  | q :: r => match s.applyFar q.2 with
    | .error _ => .error q
    | .ok (s, _) => s.applyAll r

/-- Drops an update. -/
def State.dropUpdate (s : State) (q : Nat × FarOp) : State :=
  ({ s with dets := s.dets.map (fun h => { h with held := h.held.filter (· != q) }) } : State).upCore q.1 (fun k =>
    { k with detOut := k.detOut.filter (fun e => e.2 != q.2) })

/-- The phase of a domain is to be applied: every member has arrived and its copies are complete, or the domain is over (R298, R300,
R302, R313). -/
def State.phaseOver (s : State) (h : DetHold) : Bool :=
  match s.doms.find? (·.is h.lvl h.place h.id) with
  | some d => d.ph == h.ph && s.phaseMet d
  | none => true

/-- DET_PHASE_APPLY: at the end of the phase that hold number `unit` belongs to, every slice applies its updates, directly before the
phase-end point; the phase then ends (R312, R313). An update that is still on its way is waited for, except to a slice where the phase
is serial. One that fails ends its task instance and is dropped (R309, R325). -/
def execDetPhaseApply (s : State) : Ans :=
  match s.dets[s.cur.unit]? with
  | none => .next s
  | some h =>
    let hs := s.dets.filter (fun g => g.lvl == h.lvl && g.place == h.place && g.id == h.id && g.ph == h.ph)
    let out := s.phaseOut h.lvl h.place h.id h.ph
    if !s.phaseOver h || out.any (fun q => !hs.any (fun g => g.serial && g.takes q.1 q.2)) then .next s
    else match s.applyAll (hs.flatMap (·.ordered out)) with
      | .error q => match s.applyFar q.2 with
        | .error (.repair s k va) =>
          if k = accessCause 2 10 then .next s
          else .next ((s.dropUpdate q).endInstance q.1 q.2.launch (endingOf k (BitVec.ofNat 64 va)))
        | .error (.ends s k va) => .next ((s.dropUpdate q).endInstance q.1 q.2.launch (endingOf k (BitVec.ofNat 64 va)))
        | _ => .next s
      | .ok s =>
        let s := { s with dets := s.dets.filter (fun g => !hs.contains g) }
        let s := out.foldl (fun s q => s.upCore q.1 (fun k => { k with detOut := k.detOut.filter (fun e => e.2 != q.2) })) s
        .next (s.endPhase h.lvl h.place h.id)

end Sys2Proof.Machine
end

