-- ==== Sys2Proof/Machine/Shards.lean ====
section
/-! DEFINITION. Sharded tensors (12 R373–R378): the shard map, the mapping of an element to its owner, `ldsh`, `stsh` and
`shfence`. -/
namespace Sys2Proof.Machine

/-! ## The map (R373–R375) -/

/-- Bits hi:lo of an entry from byte offset `o`. -/
def sh (h o hi lo : Nat) : Nat := bits h (8 * o + hi) (8 * o + lo)
/-- Rank, element format, extents, block sizes and owner grid of an entry's 64-byte header. -/
def shRank (h : Nat) : Nat := sh h 0 2 1 + 1
def shFmt (h : Nat) : Nat := sh h 0 7 3
def shE (h d : Nat) : Nat := sh h (0x10 + 4 * d) 31 0
def shB (h d : Nat) : Nat := sh h (0x20 + 2 * d) 15 0
def shP (h d : Nat) : Nat := sh h (0x28 + d) 7 0
def shBase (h : Nat) : Nat := sh h 8 55 0
def shVersion (h : Nat) : Nat := sh h 0 31 16
/-- Bytes of an element. -/
def shBytes (h : Nat) : Nat := elemBits (shFmt h) / 8
/-- The number of owners. -/
def shOwners (h : Nat) : Nat := (List.range (shRank h)).foldl (fun a d => a * shP h d) 1

/-- The entry is in use, and every condition of R374 on its header holds. -/
def shValid (h : Nat) : Bool :=
  sh h 0 0 0 == 1 && (decide (1 ≤ shFmt h && shFmt h ≤ 9) || shFmt h == 13) &&
  sh h 0 15 8 == 0 && sh h 0 63 32 == 0 && sh h 8 63 52 == 0 && shBase h % shBytes h == 0 &&
  (List.range 4).all (fun d => shE h d != 0 && shB h d != 0 && shP h d != 0 &&
    (decide (d < shRank h) || (shE h d == 1 && shB h d == 1 && shP h d == 1))) &&
  decide (shOwners h ≤ 64) && sh h 0x2C 31 0 == 0 && sh h 0x30 127 0 == 0

/-- The coordinates of an access: 16 bits each, or 32 bits each for the first two (R376). -/
def shCoord (p : Pfx) (v : Word) (d : Nat) : Nat :=
  if hasReg p then (if d < 2 then fld v (32 * d + 31) (32 * d) else 0) else fld v (16 * d + 15) (16 * d)

/-- The coordinates lie inside the extents. -/
def shInside (h : Nat) (i : Nat → Nat) : Bool :=
  (List.range 4).all (fun d => if d < shRank h then decide (i d < shE h d) else i d == 0)

/-- The owner and the element's place in its local array (R375). -/
def shMap (h : Nat) (i : Nat → Nat) : Nat × Nat :=
  let r := (List.range (shRank h)).foldl (fun (a : Nat × Nat × Nat × Nat) d =>
    let (o, lin, mo, ml) := a
    let q := i d / shB h d
    let bp := shB h d * shP h d
    (o + q % shP h d * mo, lin + (q / shP h d * shB h d + i d % shB h d) * ml, mo * shP h d,
      ml * ((shE h d + bp - 1) / bp) * shB h d)) (0, 0, 1, 1)
  (r.1, r.2.1)

/-- The address of entry N of the context's map. -/
def State.shardEntry (s : State) (n : Nat) : Nat := fld (s.arch s.cur.core).shardBase 55 14 * 2 ^ 14 + 256 * n

/-- An element's place: the owner device, the VA there, its bytes and the map's version. -/
structure ShPlace where
  dev : Nat
  va : Nat
  size : Nat
  version : Nat
  /-- the signature keys and lines of its two reads of the map -/
  map : List (Nat × Nat)
deriving DecidableEq, Repr

/-- The signature key and line of a load of the acting core from plain memory. -/
def State.lineOf (s : State) (va n : Nat) : List (Nat × Nat) :=
  match s.place s.cur.core va n n 0 with
  | .ok (.mem pa key) => [(key, pa / 64)]
  | _ => []

/-- Finds an element through the map: two loads of the chunk (R376). `kind` is the access's, for the cause of an invalid
entry or coordinate. -/
def State.shardPlace (s : State) (n : Nat) (p : Pfx) (v : Word) (kind : Nat) : Except Stop (State × ShPlace) :=
  let c := s.cur.core
  let a := s.shardEntry n
  match s.loadAt c a 64 64 0 with
  | .error e => .error e
  | .ok (s, bs) =>
    let h := ofBytes bs
    let i := shCoord p v
    if !shValid h || !shInside h i then .error (.cause (accessCause kind 11) 0)
    else
      let m := shMap h i
      match s.loadAt c (a + 64 + 2 * m.1) 2 2 0 with
      | .error e => .error e
      | .ok (s, bs) =>
        let own := ofBytes bs
        if bits own 15 12 ≠ 0 then .error (.cause (accessCause kind 11) 0)
        else .ok (s, { dev := bits own 9 0, va := (setBits (shBase h) 53 52 (bits own 11 10) + m.2 * shBytes h) % 2 ^ 64
                       size := shBytes h, version := shVersion h
                       map := s.lineOf a 64 ++ s.lineOf (a + 64 + 2 * m.1) 2 })

/-! ## `ldsh` and `stsh` (R376) -/

/-- This device's number. -/
def State.devNo (s : State) : Nat := fld (s.pkgReg 0xC800) 9 0

/-- The checks of both. -/
def shRules (p : Pfx) (f : FAZ) : Rules :=
  ctOrMt { reg := true, bad := f.z != 0 || (hasReg p && (regT p != 0 || regV p != 1)), named := [f.d.toNat, f.s.toNat] }

/-- The checks of a sharded access at another device: those of 14 R406, then the watchpoints on its local VA (13 R398). -/
def State.shardPeer (s : State) (q : ShPlace) (kind : Nat) : Except Stop Unit :=
  match s.peerReason q.dev with
  | some r => .error (accessFault kind r q.va)
  | none =>
    if (s.cx s.cur.core).declined = some (q.va, kind) then .error (accessFault kind 10 q.va)
    else if s.watchHit q.va q.size (kind == 0) (kind == 1) then .error (.cause 0x19 (BitVec.ofNat 64 q.va)) else .ok ()

/-- `ldsh`. -/
def execLdsh (p : Pfx) (f : FAZ) (x : BitVec 1) (h : BitVec 6) (s : State) : Ans :=
  s.instr p (fun _ => shRules p f) (fun s =>
    match s.shardPlace h.toNat p (s.x f.s.toNat) 0 with
    | .error e => .error e
    | .ok (s, q) =>
      let r := if q.dev = s.devNo then s.memLoad q.va q.size q.size
        else match s.shardPeer q 0 with
          | .error e => .error e
          | .ok _ => s.peerRead s.cur.core { dev := q.dev, asid := (s.cx s.cur.core).asid, tva := q.va, n := q.size, va := q.va
                                             version := some q.version } q.map
      match r with
      | .error e => .error e
      | .ok (s, bs) => next (s.upThr (·.issueFar f.d.toNat (.value (extend (x == 0) q.size bs)))))

/-- `stsh`. -/
def execStsh (p : Pfx) (f : FAZ) (h : BitVec 6) (s : State) : Ans :=
  s.instr p (fun _ => shRules p f) (fun s =>
    match s.shardPlace h.toNat p (s.x f.s.toNat) 1 with
    | .error e => .error e
    | .ok (s, q) =>
      let bs := toBytes q.size (s.x f.d.toNat).toNat
      if q.dev = s.devNo then
        match s.memStore q.va q.size bs with
        | .error e => .error e
        | .ok s => next s
      else match s.shardPeer q 1 with
        | .error e => .error e
        | .ok _ => next (s.upCx s.cur.core (fun x => { x with chunk := { x.chunk with
            bundle := x.chunk.bundle ++ [({ va := q.va, data := bs, shard := true, version := q.version, dev := q.dev
                                            tasid := x.asid, tva := q.va } : PeerOp)] } })))

/-! ## `shfence` (R378) -/

/-- The owner slots that an entry uses; none where one is not valid. -/
def State.shardDevs (s : State) (a : Nat) : Nat → Except Stop (State × List Nat)
  | 0 => .ok (s, [])
  | n + 1 =>
    match s.shardDevs a n with
    | .error e => .error e
    | .ok (s, ds) =>
      match s.loadAt s.cur.core (a + 64 + 2 * n) 2 2 0 with
      | .error e => .error e
      | .ok (s, bs) =>
        let own := ofBytes bs
        if bits own 15 12 ≠ 0 then .error (.cause 0x4B 0) else .ok (s, ds ++ [bits own 9 0])

/-- A bundle of this device with a sharded access under an ASID is not acknowledged, or that of a granted chunk is not sent (06 R201). -/
def State.shardOpen (s : State) (asid : Nat) : Bool :=
  let mine := fun (o : PeerOp) => o.shard && o.tasid == asid
  s.cores.any (fun e => e.2.bundles.any (fun b => b.ops.any mine) || e.2.cx.pend.any (fun k => k.isGranted && k.bundle.any mine))

/-- Sends the message of a fence to every other owner device and waits for their answers. The accesses of this device to its
own memory have been performed at their commits; those at other devices, committed before, are performed first (log 57). -/
def State.shardFence (s : State) (n : Nat) : Res :=
  let a := s.shardEntry n
  if s.shardOpen (s.cx s.cur.core).asid then .ok (s, .hold)
  else match s.loadAt s.cur.core a 64 64 0 with
  | .error e => .error e
  | .ok (s, bs) =>
    let h := ofBytes bs
    if !shValid h then .error (.cause 0x4B 0)
    else match s.shardDevs a (shOwners h) with
      | .error e => .error e
      | .ok (s, ds) =>
        let ds := ds.eraseDups.filter (· != s.devNo)
        if ds.isEmpty then next s
        else
          let asid := (s.cx s.cur.core).asid
          let s := { s with outbox := s.outbox ++ ds.map (fun d => Out.shfence d asid (shBase h) (shVersion h) s.cur.core (s.launchNo s.cur.core)) }
          .ok (s.upThr (fun t => { t with stall := some ⟨.shards n (some ds), s.cur.len, s.cycle⟩ }), .hold)

/-- `shfence`. -/
def execShfence (p : Pfx) (f : FI) (s : State) : Ans :=
  let n := f.i.toNat
  s.instr p (fun _ => ctOnly { bad := f.d != 0 }) (fun s =>
    if s.thr.stall.map (·.why) = some (.shards n (some [])) then next s
    else s.afterCommits (.shards n none) (fun s => s.shardFence n))

/-- A device has acknowledged the `shfence` that a control thread waits for. -/
def Arch.shardAck (a : Arch) (dev : Nat) : Arch :=
  match a.ct.stall with
  | some ⟨.shards n (some ds), len, b⟩ => { a with ct := { a.ct with stall := some ⟨.shards n (some (ds.filter (· != dev))), len, b⟩ } }
  | _ => a

/-- SHFENCE_ACK: device v[9:0] has acknowledged the `shfence` of launch v / 2^10 on the acting core; every checkpoint that holds the
wait notes it (log 19). -/
def execShfenceAck (v : Nat) (s : State) : Ans :=
  .next (s.upAnyCx s.cur.core (v / 2 ^ 10) (·.upArchAll (·.shardAck (bits v 9 0))))

/-- The highest version of a symmetric base that this device has seen (14 R412). -/
def State.seeVersion (s : State) (asid base version : Nat) : State :=
  let k := asid * 2 ^ 56 + base
  { s with versions := s.versions.put k (max version (s.versions.get k 0)) }

/-- Acknowledges every `shfence` whose accesses have been performed here. -/
def State.answerFences (s : State) : State :=
  let done := s.fencesIn.filter (fun f => f.waits.isEmpty)
  { s with
    fencesIn := s.fencesIn.filter (fun f => !f.waits.isEmpty)
    outbox := s.outbox ++ done.map (fun f => Out.fenceAck f.dev f.asid f.base f.version) }

/-- SHFENCE_MESSAGE: a `shfence` of device v[9:0] for ASID v[25:10], base v[81:26] and version v[97:82] (log 19). It waits for
the staged bundles that hold a sharded access under the ASID; the base of an access is not told (log 57). -/
def execShfenceMessage (v : Nat) (s : State) : Ans :=
  let asid := bits v 25 10
  let ws := (s.staged.filter (fun b => b.reqs.any (fun q => q.2.shard && q.2.asid == asid))).map (fun b => (b.src, b.bseq))
  let s := s.seeVersion asid (bits v 81 26) (bits v 97 82)
  .next ({ s with fencesIn := s.fencesIn ++ [{ dev := bits v 9 0, asid := asid, base := bits v 81 26, version := bits v 97 82, waits := ws }] } : State).answerFences

end Sys2Proof.Machine
end

