-- ==== Sys2Proof/Machine/FullEmpty.lean ====
section
/-! DEFINITION. Full/empty operations (10 R323; 14 R419–R423): `feld`, `fest`, the memory controllers and their retry lists. -/
namespace Sys2Proof.Machine

/-! ## The instructions (R419) -/

/-- The checks of the address of a full/empty operation, before it is issued; it waits for its own copies like any load or store
(06 R210). -/
def State.feCheck (s : State) (va kind : Nat) : Except Stop Unit :=
  let c := s.cur.core
  if 2 ^ 56 ≤ va || bits va 55 54 = 3 then .error (accessFault kind 3 va)
  else if va % 8 ≠ 0 then .error (accessFault kind 0 va)
  else if (s.cx c).declined = some (va, kind) then .error (accessFault kind 10 va)
  else if s.inAperture c va then .error (accessFault kind 2 va)
  else match (if bits va 55 54 = 2 then s.leaseOf va else .ok 0) with
    | .error r => .error (accessFault kind r va)
    | .ok _ =>
      if s.ownMemExtent c (s.launchNo c) va (va + 8) then .error (.wait (.pendingLine 0))
      else if s.watchHit va 8 (kind == 0) (kind == 1) then .error (.cause 0x19 (BitVec.ofNat 64 va))
      else .ok ()

/-- The operation that the acting thread's instruction issues; what an address at a peer names is fixed now (14 R410). -/
def State.feReq (s : State) (store : Bool) (mode va : Nat) (w : Word) : FeReq :=
  let c := s.cur.core
  let t := s.thr
  { core := c, launch := s.launchNo c, thr := s.cur.thr, id := (s.cx c).nextId, store := store, mode := mode, va := va, w := w
    asid := (s.cx c).asid, sup := s.isSup c, blk := t.blk, off := t.off, park := t.park
    dest := if bits va 55 54 = 2 then some (s.leaseTarget va) else none }

/-- Holds a full/empty operation for the commit, and notes the lease that it uses (14 R410). -/
def State.issueFe (s : State) (r : FeReq) : State :=
  let s := (s.hold (.fe r)).upCx r.core (fun x => { x with nextId := r.id + 1 })
  if r.dest.isSome then s.noteLease r.core r.va else s

/-- `feld` and `fest`: held for the commit of the chunk; the thread then waits for the operation before its next block. -/
def State.fullEmpty (s : State) (p : Pfx) (f : FAZ) (store undef : Bool) (mode : Nat) : Ans :=
  s.instr p (fun _ => ctOrMt { undef := undef, imm := true, bad := f.z != 0, named := [f.d.toNat, f.s.toNat] }) (fun s =>
    let va := (s.x f.s.toNat + wordOfInt (simm p 0 0)).toNat
    if !s.feature 13 || (decide (va < 2 ^ 56) && s.regionOff va) then .error (.cause 0x1F 0)
    else if !s.isLast then .error (.cause 0x15 0)
    else match s.feCheck va (b2n store) with
      | .error e => .error e
      | .ok _ => match s.room with
        | .error e => .error e
        | .ok s =>
          let r := s.feReq store mode va (s.x f.d.toNat)
          let s := s.issueFe r
          let s := if store then s else s.upThr (·.issueFar f.d.toNat (.released r.id))
          .ok (s.standAfter (.fullEmpty r.id), .stay))

/-- `feld`: modes 0 to 2. -/
def execFeld (p : Pfx) (f : FAZ) (m : BitVec 2) (s : State) : Ans := s.fullEmpty p f false (m == 3) m.toNat
/-- `fest`: modes 0, 3 and 4. -/
def execFest (p : Pfx) (f : FAZ) (m : BitVec 3) (s : State) : Ans :=
  s.fullEmpty p f true (m != 0 && m != 3 && m != 4) m.toNat

/-! ## What becomes of the thread (R420, R423) -/

/-- The thread waits for operation `id`. -/
def Thr.waitsFe (t : Thr) (id : Nat) : Bool := t.stall.map (·.why) == some (.fullEmpty id)

/-- The operation is applied: the wait before the next block is over. -/
def Arch.passFe (a : Arch) (t id : Nat) : Arch :=
  if !(a.thr t).waitsFe id then a
  else if t = 16 then { a with ct := { a.ct with stall := none }.settleOld }
  else a.setMt t ({ a.mt t with thr := { (a.mt t).thr with stall := none } } : Mt).settleOld

/-- The answer to a peer's operation (log 19: applied 0, a cause 1, refused 2, withdrawn 3). -/
def State.feTell (s : State) (r : FeReq) (kind : Nat) (v : Word) : State :=
  match r.peer with
  | some d => { s with outbox := s.outbox ++ [.feAnswer d r.id kind v] }
  | none => s

/-- The operation is applied, with a value for its thread. -/
def State.feDone (s : State) (r : FeReq) (v : Word) : State :=
  if r.peer.isSome then s.feTell r 0 v
  else s.upAnyCx r.core r.launch (fun x => (x.resolve r.id v).upArchAll (·.passFe r.thr r.id))

/-- The operation has no effect; its thread stands at the instruction, to raise a cause or to issue it again. -/
def State.feBack (s : State) (r : FeReq) (late : Option (Cause × Word)) : State :=
  match r.peer with
  | some _ => match late with
    | some (k, _) => s.feTell r 1 (BitVec.ofNat 64 k.toNat)
    | none => s.feTell r 3 0
  | none => s.upAnyCx r.core r.launch (fun x => x.upArchAll (·.backFe r.thr r.id r.blk r.off r.park late))

/-- The operation meets a cause of its kind. -/
def State.feFail (s : State) (r : FeReq) (reason : Nat) : State :=
  s.feBack r (some (accessCause (b2n r.store) reason, BitVec.ofNat 64 r.va))

/-! ## The controller (R420, R421) -/

/-- What an operation does to a word and its bit: the value for the thread, the word written, and the bit; none while it is not
satisfied. -/
def feAct (store : Bool) (mode : Nat) (w : Word) (full : Bool) (v : Word) : Option (Word × Option Word × Bool) :=
  match store, mode with
  | false, 0 => some (w, none, full)
  | false, 1 => if full then some (w, none, true) else none
  | false, _ => if full then some (w, none, false) else none
  | true, 0 => some (0, some v, full)
  | true, 3 => if full then none else some (0, some v, true)
  | true, _ => some (0, some v, true)

/-- The word of an operation is held: by a commit or a reservation (06 R207), or by a copy of its own core that has still to write it
(06 R210). -/
def State.feHeld (s : State) (r : FeReq) : Bool :=
  s.synthBusy none (r.word * 8) || (r.peer.isNone && s.ownMemExtent r.core r.launch r.va (r.va + 8))

/-- Applies an operation that is satisfied, as one synthetic chunk. -/
def State.feApply (s : State) (r : FeReq) : Option State :=
  let pa := r.word * 8
  if s.feHeld r then none
  else match feAct r.store r.mode (BitVec.ofNat 64 (s.memNat pa 8)) (s.full.get r.word false) r.w with
    | none => none
    | some (x, w, full) =>
      let s := match w with
        | some v => if r.peer.isSome then s.synthNat pa 8 v.toNat else s.synthFor r.launch pa (toBytes 8 v.toNat)
        | none => s
      some (({ s with full := s.full.set r.word full false } : State).feDone r x)

/-- The entry of an operation: whose, and which. -/
def FeReq.same (a b : FeReq) : Bool := a.core == b.core && a.launch == b.launch && a.id == b.id && a.peer == b.peer

/-- Applies the waiting entries of a word that its state satisfies, in order of arrival, until none is (R421). -/
def State.feScan (s : State) (word : Nat) : Nat → State
  | 0 => s
  | n + 1 =>
    match (s.feList.filter (fun r => r.word == word)).findSome? (fun r => (s.feApply r).map (fun q => (r, q))) with
    | none => s
    | some (r, q) => ({ q with feList := q.feList.filter (fun e => !e.same r) } : State).feScan word n

/-- Scans the entries of every listed word: those that a held line kept from being applied. -/
def State.feScanAll (s : State) : State :=
  (s.feList.map (·.word)).eraseDups.foldl (fun s w => s.feScan w s.feList.length) s

/-- A confidential page may not cross the fabric: no UALink port has keys (R429, log 58). -/
def State.noPortKeys (s : State) : Bool := (List.range 16).all (fun p => fld (s.pkgReg (0xDA00 + 8 * p)) 0 0 == 0)

/-- Posts a record of TYPE 3 at this device, the target (R416; 10 R321). -/
def State.postPeer (s : State) (src va asid kind : Nat) (bundle : Bool) (whom : PostFor) : State :=
  s.post (bits va 53 52) whom (postBody 3 (accessCause kind 10) kind va (asid % 2 ^ 16 + src % 2 ^ 10 * 2 ^ 80) 0
    (src % 2 ^ 10 + s.devNo * 2 ^ 16 + b2n bundle * 2 ^ 32))

/-- The memory controller of a word: a stack of its die (R420; 00 R1). -/
def feCtl (word : Nat) : Nat × Nat := (bits (word * 8) 49 48, Config.homeStack (word * 8) % 3)

/-- What happens to an operation that arrives at its controller. -/
inductive FeRes where
  /-- applied, listed or turned back: it is no longer on its way -/
  | taken (s : State)
  /-- the controller's list is full (R422) -/
  | refused
  /-- the line is held: it is tried again -/
  | wait
  /-- its page is absent -/
  | absent (s : State)

/-- An operation arrives at the controller of its word (R420–R422; 10 R323; R427). -/
def State.feArrive (s : State) (r : FeReq) : FeRes :=
  let kind := b2n r.store
  if bits r.va 55 54 = 1 then .taken (s.feFail r 14)
  else match s.engineXlat r.asid r.va kind r.sup with
    | .error .wait => .wait
    | .error (.ends s k va) =>
      .taken (if r.peer.isSome then s.feBack r (some (k, BitVec.ofNat 64 va))
        else if k = 0x1F then s.feBack r (some (k, 0)) else s.endInstance r.core r.launch (endingOf k (BitVec.ofNat 64 va)))
    | .error (.repair s k _) =>
      if k = accessCause kind 10 then .absent s else .taken (s.feBack r (some (k, BitVec.ofNat 64 r.va)))
    | .ok (s, x) =>
      let pa := x.pfn * 65536 + r.va % 65536
      let r := { r with word := pa / 8 }
      if leafConf x.attr && r.peer.isSome && s.noPortKeys then .taken (s.feFail r 12)
      else if !leafFe x.attr || leafGran x.attr = 0 || leafGran x.attr = 3 then .taken (s.feFail r 14)
      else if s.poisoned pa 8 then
        .taken (if r.peer.isSome then s.feBack r (some (0xD2, 0)) else s.endInstance r.core r.launch (endingOf 0xD2 (BitVec.ofNat 64 r.va)))
      else if s.feHeld r then .wait
      else match s.feApply r with
        | some s => .taken (s.feScan r.word (s.feList.length + 1))
        | none =>
          if 256 ≤ (s.feList.filter (fun e => feCtl e.word == feCtl r.word)).length then .refused
          else .taken { s with feList := s.feList ++ [r] }

/-- An operation after a refusal: it is sent again after 512 cycles, then after intervals that double up to 65,536 (R422). -/
def FeReq.refuse (r : FeReq) (cycle : Nat) : FeReq :=
  { r with refused := some (r.refused.getD cycle), due := cycle + r.gap, gap := min 65536 (2 * r.gap) }

/-- A demand access of a context meets an absent page: the executing chunk is squashed without counting, the context and its gang are
parked, and a record is posted: of TYPE 0 on the die of the address; of TYPE 3, for a page at a peer device, on the die of the core
(10 R321; R416; log 61). -/
def State.parkFor (s : State) (c l thr va kind : Nat) (blk : Word) (peer : Option Nat) : State :=
  let die := if peer.isSome then dieOf c else bits va 53 52
  if !s.fqValid die then s.endInstance c l (endingOf 0xB5 0)
  else
    let cs := s.gangCores c
    let s := s.squashExec c false
    let s := cs.foldl (fun s d => s.upCx d (fun x => { x with parked := some ⟨thr, va, kind⟩ })) s
    s.post die (.demand c l va kind) (postBody (if peer.isSome then 3 else 0) (accessCause kind 10) kind va (s.identity c l) blk.toNat
      (match peer with | some d => s.devNo + d % 2 ^ 10 * 2 ^ 16 | none => 0))

/-- The page of a full/empty operation is absent, at its device or here: its thread stands at the instruction again, and its context,
if it runs, is parked with a record (10 R321; R416). -/
def State.feAbsent (s : State) (r : FeReq) : State :=
  let s := s.feBack r none
  if (s.cx r.core).launch = some r.launch && (s.core r.core).isRunning then
    s.parkFor r.core r.launch r.thr r.va (b2n r.store) r.blk (r.dest.map (·.1))
  else s

/-- Released operation number `i` of core `c` is sent: to its controller, or to the peer device that its address names. -/
def State.feSend (s : State) (c i : Nat) : State :=
  match (s.core c).feOut[i]? with
  | none => s
  | some r =>
    let drop := fun (s : State) => s.upCore c (fun k => { k with feOut := k.feOut.filter (fun e => !e.same r) })
    if s.cycle < r.due then s
    else if let some t := r.dest then
      let dev := t.1
      if s.unacked c r.after || (s.core c).bundles.any (fun b => b.dev == dev && b.sent.isNone && decide (b.id < r.no)) then s
      else
        let s := drop s
        { s.upCore c (fun k => { k with feSent := k.feSent ++ [r] }) with outbox := s.outbox ++ [.fe dev (s.bseq.get dev 0) r] }
    else match s.feArrive r with
      | .taken s => drop s
      | .wait => s
      | .refused => s.upCore c (fun k => { k with feOut := k.feOut.set i (r.refuse s.cycle) })
      | .absent s => (drop s).feAbsent r

/-- An operation of a peer device, from its encoding (log 19): device [10:1], store [11], mode [14:12], VA [70:15], ASID
[86:71], word [150:87], the number of the source's next bundle [162:151], identity from bit 163. -/
def fePeer (v : Nat) : FeReq :=
  { core := 0, launch := 0, thr := 0, id := v / 2 ^ 163, peer := some (bits v 10 1), store := bit v 11, mode := bits v 14 12
    va := bits v 70 15, w := BitVec.ofNat 64 (bits v 150 87), asid := bits v 86 71, sup := false }

/-- A bundle that device `src` sent before its bundle number `bseq` has not been applied or discarded here (R414, R420). -/
def State.bundleBefore (s : State) (src bseq : Nat) : Bool :=
  let d := (bseq + 4096 - s.bseqIn.get src 0) % 4096
  decide (0 < d) && decide (d < 2048)

/-- An operation of a peer device arrives, after the source's bundle number `bseq`; its lease must be granted here (R409, R420). An
absent page is told to both devices (R416). -/
def State.fePeerArrive (s : State) (r : FeReq) (bseq : Nat) (granted : Bool) : State :=
  if !granted then s.feFail r 8
  else if s.bundleBefore (r.peer.getD 0) bseq then s
  else match s.feArrive r with
    | .taken s => s
    | .wait => s
    | .refused => s.feTell r 2 0
    | .absent s =>
      let s := if s.fqValid (bits r.va 53 52) then s.postPeer (r.peer.getD 0) r.va r.asid (b2n r.store) false .noAnswer else s
      s.feFail r 10

/-- A grant that admits a lease access of a device (R409). -/
def State.grantOf (s : State) (dev asid va : Nat) : Bool :=
  (List.range 64).any (fun i =>
    let b := 0xD200 + 32 * i
    let g := s.pkgReg b
    fld g 0 0 == 1 && fld g 13 4 == dev && fld g 31 16 == asid && decide (fld g 3 2 < 2) &&
    decide (fld (s.pkgReg (b + 8)) 55 16 ≤ va / 65536) &&
    decide (va / 65536 < fld (s.pkgReg (b + 8)) 55 16 + fld (s.pkgReg (b + 16)) 47 16))

/-- A bundle or full/empty operation under lease `i` to a device is not acknowledged, or that of a granted chunk, which no squash drops
any more, is not sent (R410, R411; 06 R200). -/
def State.leaseOpen (s : State) (i dev : Nat) : Bool :=
  let mine := fun (va : Nat) => bits va 55 54 == 2 && bits va 53 48 == i
  let op := fun (o : PeerOp) => o.dev == dev && !o.shard && mine o.va
  let fe := fun (r : FeReq) => mine r.va && r.dest.map (·.1) == some dev
  s.cores.any (fun e =>
    e.2.bundles.any (fun b => b.ops.any op) || (e.2.feOut ++ e.2.feSent).any fe ||
    e.2.cx.pend.any (fun k => k.isGranted && (k.bundle.any op || k.held.any (fun h => match h with | .fe r => fe r | _ => false))))

/-- Sends the closing messages of revoked leases that nothing is open under (R411 item 3). -/
def State.sendClosings (s : State) : State :=
  let ready := s.closing.filter (fun q => !s.leaseOpen q.1 q.2.1)
  { s with
    closing := s.closing.filter (fun q => s.leaseOpen q.1 q.2.1)
    outbox := s.outbox ++ ready.map (fun q => Out.leaseClose q.2.1 q.2.2.1 q.2.2.2) }

/-- What the end of a bundle or an operation lets go on: bundles that a fence held, and closing messages (R411, R417). -/
def State.opsClosed (s : State) : State := s.pumpAll.sendClosings

/-- FE_OPERATION: released operation number `unit` of the acting core, not refused before, is sent or arrives; with `arg`, an
operation of a peer device arrives. Entries that a held line kept waiting are examined again. -/
def execFeOperation (s : State) : Ans :=
  let s := s.feScanAll
  if s.cur.arg ≠ 0 then
    let r := fePeer s.cur.arg
    .next (s.fePeerArrive r (bits s.cur.arg 162 151) (s.grantOf (bits s.cur.arg 10 1) r.asid r.va)).opsClosed
  else match (s.core s.cur.core).feOut[s.cur.unit]? with
    | some r => if r.refused.isSome then .next s.opsClosed else .next (s.feSend s.cur.core s.cur.unit).opsClosed
    | none => .next s.opsClosed

/-- FE_RETRY: refused operation number `unit` of the acting core is sent again when its interval is over (R422). -/
def execFeRetry (s : State) : Ans :=
  match (s.core s.cur.core).feOut[s.cur.unit]? with
  | some r => if r.refused.isNone then .next s else .next (s.feSend s.cur.core s.cur.unit).opsClosed
  | none => .next s

/-- FE_RETRY_TIMEOUT: an operation refused for 2^24 cycles after its first refusal raises reason 9 (R422). -/
def execFeRetryTimeout (s : State) : Ans :=
  let c := s.cur.core
  match (s.core c).feOut[s.cur.unit]? with
  | some r => match r.refused with
    | some t =>
      if s.cycle < t + 2 ^ 24 then .next s
      else .next ((s.upCore c (fun k => { k with feOut := k.feOut.eraseIdx s.cur.unit })).feFail r 9).opsClosed
    | none => .next s
  | none => .next s

/-! ## Withdrawal (R423) -/

/-- The contexts of a core, in its slots and images, as launch and context. -/
def State.coreCtxs (s : State) (c : Nat) : List (Nat × Ctx) :=
  let k := s.core c
  ([k.slot0, k.slot1].filterMap (fun q => if q.st == .empty then none else q.ctx.launch.map (fun l => (l, q.ctx)))) ++
    (s.images.filterMap (fun im => if im.core == c then im.ctx.launch.map (fun l => (l, im.ctx)) else none))

/-- FE_WITHDRAW: the controller decides on the oldest withdrawal of the acting core: an operation that has not been applied is
removed, and its thread stands at the instruction again. With `arg`, a peer device (arg[9:0]) withdraws its operation
arg / 1,024. -/
def execFeWithdraw (s : State) : Ans :=
  let c := s.cur.core
  if s.cur.arg ≠ 0 then
    let mine := fun (r : FeReq) => r.peer == some (bits s.cur.arg 9 0) && r.id == s.cur.arg / 1024
    match s.feList.find? mine with
    | some r => .next (({ s with feList := s.feList.filter (fun e => !mine e) } : State).feBack r none)
    | none => .next s
  else match (s.coreCtxs c).find? (fun e => !e.2.feDrop.isEmpty) with
    | none => .next s
    | some (l, x) =>
      let id := x.feDrop.headD 0
      let s := s.upAnyCx c l (fun x => { x with feDrop := x.feDrop.drop 1 })
      let mine := fun (r : FeReq) => r.core == c && r.launch == l && r.id == id && r.peer.isNone
      match (s.core c).feOut.find? mine, s.feList.find? mine, (s.core c).feSent.find? mine with
      | some r, _, _ => .next ((s.upCore c (fun k => { k with feOut := k.feOut.filter (fun e => !mine e) })).feBack r none).opsClosed
      | none, some r, _ => .next (({ s with feList := s.feList.filter (fun e => !mine e) } : State).feBack r none).opsClosed
      | none, none, some r => .next { s with outbox := s.outbox ++ [.feWithdraw ((r.dest.map (·.1)).getD 0) r.no] }
      | none, none, none => .next s

end Sys2Proof.Machine
end

