-- ==== Sys2Proof/Machine/Peer.lean ====
section
/-! DEFINITION. The scale-up fabric (14 R406–R418): this device as the target of loads and bundles, the answers to its own,
and leases and grants. The fields of each message from outside stand in its event's number (log 19). -/
namespace Sys2Proof.Machine

/-! ## Access by a peer (R406, R409, R416) -/

/-- The device lies in this device's partition. -/
def State.inPart (s : State) (dev : Nat) : Bool := (s.pkgReg (0xC940 + 8 * (dev / 64))).getLsbD (dev % 64)

/-- The reason for which an access of a peer is refused on arrival. -/
def State.peerRefuse (s : State) (kind : Nat) (shard : Bool) (dev asid va : Nat) : Option Nat :=
  if 3 < kind then some 6
  else if shard then (if s.inPart dev then none else some 7)
  else if s.grantOf dev asid va then none else some 8

/-- What the translation of a peer's access finds. -/
inductive PeerXlat where
  | at (s : State) (pa : Nat)
  | absent
  | wait
  /-- `s` is the state after the translation, with the claims of its walks (10 R317) -/
  | cause (s : State) (c : Cause)
deriving DecidableEq, Repr

/-- The bytes of an access, by offset from a PA, meet a poisoned granule, which a store that writes all of it replaces (10 R325). -/
def State.bytesBarred (s : State) (pa : Nat) (bs : List Nat) (store : Bool) : Bool :=
  s.goneAt pa || s.poison.any (fun q => bs.any (fun i => decide (q.1 ≤ pa + i) && decide (pa + i < q.1 + q.2)) &&
    !(store && (List.range q.2).all (fun j => bs.any (fun i => pa + i == q.1 + j))))

/-- Translates the access of a peer: kind 0 load, 1 store, 2 atomic; the offsets of its bytes. A load waits while a granted commit has
still to write its line (06 R199). -/
def State.peerXlat (s : State) (asid va kind : Nat) (bs : List Nat) : PeerXlat :=
  match s.engineXlat asid va kind false with
  | .error .wait => .wait
  | .error (.ends s k _) => .cause s k
  | .error (.repair s k _) => if k = accessCause kind 10 then .absent else .cause s k
  | .ok (s, x) =>
    let pa := x.pfn * 65536 + va % 65536
    if leafConf x.attr && s.noPortKeys then .cause s (accessCause kind 12)
    else if kind = 0 && s.grantOn (pa / 64) then .wait
    else if s.bytesBarred pa bs (kind == 1) then .cause s (if bits pa 51 50 = 1 then accessCause kind 13 else 0xD2)
    else .at s pa

/-- Notes the version of a sharded access under its symmetric base: of the bases of the ASID that this device has heard of, the
highest not above the address; with none, the address itself (R412, log 57). -/
def State.seeAccess (s : State) (shard : Bool) (asid va version : Nat) : State :=
  if !shard then s
  else
    let va := setBits va 53 52 0
    let base := s.versions.keys.foldl (fun (b : Option Nat) k =>
      if k / 2 ^ 56 = asid && decide (k % 2 ^ 56 ≤ va) && decide (b.getD 0 ≤ k % 2 ^ 56) then some (k % 2 ^ 56) else b) none
    s.seeVersion asid (base.getD va) version

/-- PEER_LOAD: a load of device v[9:0], shard v[10], KIND v[13:11], version v[29:14], ASID v[45:30], VA v[101:46], n bytes
v[108:102] (R412, R415). -/
def execPeerLoad (v : Nat) (s : State) : Ans :=
  let src := bits v 9 0
  let va := bits v 101 46
  let n := bits v 108 102
  let asid := bits v 45 30
  let s := s.seeAccess (bit v 10) asid va (bits v 29 14)
  let say := fun (s : State) (k : Option Cause) (x : Nat) => Host.Outcome.next { s with outbox := s.outbox ++ [.loadAnswer src va k x] }
  match s.peerRefuse (bits v 13 11) (bit v 10) src asid va with
  | some r => say s (some (accessCause 0 r)) 0
  | none => match s.peerXlat asid va 0 (List.range n) with
    | .at s pa => say s none (s.memNat pa n)
    | .absent =>
      let s := if s.fqValid (bits va 53 52) then s.postPeer src va asid 0 false .noAnswer else s
      say s (some (accessCause 0 10)) 0
    | .wait => .next s
    | .cause s k => say s (some k) 0

/-! ## Bundles of peers (R414, R416, R418) -/

/-- A bundle is whole. -/
def Staged.ready (b : Staged) : Bool := b.count == some b.reqs.length

/-- Translates the requests of a bundle: their PAs. -/
def State.stagedPas (s : State) : List StagedReq → Except (Nat × PeerXlat) (State × List Nat)
  | [] => .ok (s, [])
  | r :: q =>
    let kind := if r.atomic.isSome then 2 else 1
    match s.peerXlat r.asid r.va kind (match r.atomic with | some o => List.range o.size | none => r.data.keys) with
    | .at s pa => match s.stagedPas q with
      | .ok (s, l) => .ok (s, pa :: l)
      | .error e => .error e
    | e => .error (r.va, e)

/-- Applies one request: the old value of an atomic. -/
def State.applyReq (s : State) (r : StagedReq) (pa : Nat) : State × List Word :=
  match r.atomic with
  | some o =>
    let old := s.memNat pa o.size
    let s := match o.new old with
      | some v => ({ s with mem := s.mem.writeNat pa o.size v } : State).written pa o.size
      | none => s
    (s, [BitVec.ofNat 64 old])
  | none =>
    let s' := { s with mem := r.data.foldl (fun m e => m.write (pa + e.1) e.2) s.mem }
    (if r.data.length = 64 then s'.written pa 64 else r.data.foldl (fun q e => q.written (pa + e.1) 1) s', [])

/-- A bundle leaves the staging. -/
def State.unstage (s : State) (b : Staged) : State :=
  ({ s with
    staged := s.staged.filter (fun q => !(q.src == b.src && q.bseq == b.bseq))
    bseqIn := s.bseqIn.put b.src ((b.bseq + 1) % 4096)
    fencesIn := s.fencesIn.map (fun f => { f with waits := f.waits.filter (· != (b.src, b.bseq)) }) } : State).answerFences

/-- Marks a bundle in the staging. -/
def State.markStaged (s : State) (b : Staged) (f : Staged → Staged) : State :=
  { s with staged := s.staged.map (fun q => if q.src == b.src && q.bseq == b.bseq then f q else q) }

/-- The requests of a bundle take effect in order, as one synthetic chunk (R414; 06 R207), and it is acknowledged. -/
def State.applyStaged (s : State) (b : Staged) (reqs : List StagedReq) (pas : List Nat) : State :=
  let s := pas.foldl (fun s pa => match s.paKey pa with | some k => s.squashKey k | none => s) s
  let s := { s with clock := s.clock + 1 }
  let r := (reqs.zip pas).foldl (fun (a : State × List Word) e =>
    let q := a.1.applyReq e.1 e.2
    (q.1, a.2 ++ q.2)) (s, [])
  { r.1.unstage b with outbox := (r.1.unstage b).outbox ++ [.bundleAck b.src b.bseq r.2] }

/-- The next bundle of a source in BSEQ order, if it is whole and waits for no page, is applied or discarded; then the one after
it. -/
def State.applyBundles (s : State) (src : Nat) : Nat → State
  | 0 => s
  | n + 1 =>
    match s.staged.find? (fun b => b.src == src && b.bseq == s.bseqIn.get src 0 && b.ready && !b.waits) with
    | none => s
    | some b =>
      match b.refused with
      | some k =>
        let s := s.unstage b
        let s := if k = 0xDA then s else { s with outbox := s.outbox ++ [.bundleError src b.bseq k] }
        s.applyBundles src n
      | none =>
        let reqs := (b.reqs.mergeSort (fun x y => decide (x.1 ≤ y.1))).map (·.2)
        match s.stagedPas reqs with
        | .ok (s, pas) =>
          if pas.any (s.synthBusy none) then s else (s.applyStaged b reqs pas).applyBundles src n
        | .error (va, .absent) =>
          if s.fqValid (bits va 53 52) then
            (s.markStaged b (fun b => { b with waits := true })).postPeer src va ((reqs.headD ⟨0, 0, [], none, false, 0⟩).asid) 1 true
              (.bundle src b.bseq)
          else (s.markStaged b (fun b => { b with refused := some 0xB5 })).applyBundles src n
        | .error (_, .cause s k) => (s.markStaged b (fun b => { b with refused := some k })).applyBundles src n
        | .error _ => s

/-- Every source's next bundle is tried. -/
def State.applyAllBundles (s : State) : State :=
  (s.staged.map (·.src)).eraseDups.foldl (fun s d => s.applyBundles d (s.staged.length + 1)) s

/-- The requests that the staging of a die can hold: one reserved way of each slice, 16 MiB in lines. -/
abbrev stagingLines : Nat := 2 ^ 18

/-- Requests in the staging of a die. -/
def State.stagedAt (s : State) (die : Nat) : Nat :=
  (s.staged.map (fun b => (b.reqs.filter (fun q => bits q.2.va 53 52 == die)).length)).sum

/-- A bundle request from its encoding: the enabled bytes of the line, or the atomic. -/
def stagedReq (v : Nat) : StagedReq :=
  let en := bits v 211 148
  let atomic : FarOp := { id := 0, thr := 0, kind := bits v 725 724, op := bits v 729 726, z := bits v 731 730, va := bits v 147 92
                          zext := true, b := BitVec.ofNat 64 (bits v 795 732), cmp := BitVec.ofNat 64 (bits v 859 796) }
  { va := bits v 147 92, asid := bits v 75 60, shard := bit v 40, version := bits v 59 44
    data := if bits v 43 41 = 2 then [] else (onesOf en 64).map (fun i => (i, BitVec.ofNat 8 (bits v (212 + 8 * i + 7) (212 + 8 * i))))
    atomic := if bits v 43 41 = 2 then some atomic else none }

/-- Stages a request, with its place, whether it is the last one, the number of requests, and the cause of a refusal. -/
def State.stage (s : State) (src bseq idx : Nat) (r : StagedReq) (count : Option Nat) (refused : Option Cause) : State :=
  match s.staged.find? (fun b => b.src == src && b.bseq == bseq) with
  | some b => s.markStaged b (fun b => { b with
      reqs := (b.reqs.filter (·.1 != idx)) ++ [(idx, r)]
      count := if b.count.isSome then b.count else count
      refused := if b.refused.isSome then b.refused else refused })
  | none => { s with staged := s.staged ++ [{ src := src, bseq := bseq, reqs := [(idx, r)], count := count, since := s.cycle, refused := refused }] }

/-- BUNDLE_REQUEST: with v[0] = 0, only bundles whose lines were held are tried again. Else a request of device v[10:1]: BSEQ
v[22:11], place v[38:23], LAST v[39], SHARD v[40], KIND v[43:41], VERSION v[59:44], ASID v[75:60], COUNT v[91:76], VA v[147:92],
byte enables v[211:148], data v[723:212]; for an atomic its kind, operation, size and operands from bit 724 (R412, R414). -/
def execBundleRequest (v : Nat) (s : State) : Ans :=
  let src := bits v 10 1
  let bseq := bits v 22 11
  let r := stagedReq v
  if !bit v 0 then .next s.applyAllBundles
  else if 2048 ≤ (bseq + 4096 - s.bseqIn.get src 0) % 4096 then .next s
  else if stagingLines ≤ s.stagedAt (bits r.va 53 52) then .next { s with outbox := s.outbox ++ [.bundleRetry src bseq (bits v 38 23)] }
  else
    let kind := if r.atomic.isSome then 2 else 1
    let refused := (s.peerRefuse (bits v 43 41) r.shard src r.asid r.va).map (accessCause kind)
    let s := s.seeAccess r.shard r.asid r.va r.version
    .next ((s.stage src bseq (bits v 38 23) r (if bit v 39 then some (bits v 91 76) else none) refused).applyBundles src (s.staged.length + 2))

/-- BUNDLE_STAGING_TIMEOUT: staged bundle number `unit` is not whole 2^26 cycles after its first request: it is discarded
(R418). -/
def execBundleStagingTimeout (s : State) : Ans :=
  match s.staged[s.cur.unit]? with
  | none => .next s
  | some b =>
    if b.ready || s.cycle < b.since + 2 ^ 26 then .next s
    else
      let s := s.markStaged b (fun b => { b with refused := some 0xDA, count := some b.reqs.length })
      .next ((s.logLink { die := 0, cause := 0xDA, pkgu := true }).applyBundles b.src (s.staged.length + 1))

/-! ## Leases (R408, R410, R411) -/

/-- The register base of a lease. -/
def lsBase (i : Nat) : Nat := 0xCA00 + 32 * i
/-- The register base of a grant. -/
def grBase (i : Nat) : Nat := 0xD200 + 32 * i

/-- A chunk of a core has accessed a lease. -/
def Chunk.usesLease (k : Chunk) (i : Nat) : Bool := k.leases.contains i

/-- A thread of a core waits for an answer under a lease. -/
def State.waitsLease (s : State) (c i : Nat) : Bool :=
  (threadsOf c).any (fun t => match (s.thrAt c t).stall with
    | some ⟨.peer r _, _, _⟩ => r.version.isNone && bits r.va 55 54 == 2 && bits r.va 53 48 == i
    | _ => false)

/-- Every uncommitted chunk that accessed lease `i` is squashed without counting (R410). -/
def State.dropLease (s : State) (i : Nat) : State :=
  s.cores.keys.foldl (fun s c =>
    let x := s.cx c
    match x.pend.findIdx? (fun k => !k.isGranted && k.usesLease i) with
    | some j => s.squash c j false
    | none => if x.chunk.usesLease i || s.waitsLease c i then s.squashExec c false else s) s

/-- Lease `i` enters REVOKED. -/
def State.revokeLease (s : State) (i : Nat) : State :=
  let b := lsBase i
  let cfg := s.pkgReg b
  let s := (s.dropLease i).setPkgReg b (setFld cfg 2 1 2)
  let s := s.setPkgReg (b + 24) 0
  ({ s with leaseDue := s.leaseDue.del i
            closing := s.closing ++ [(i, fld cfg 12 3, fld (s.pkgReg (b + 8)) 55 16, fld cfg 31 16)] } : State).sendClosings

/-- A write of register `k` (0 LS_CFG, 1 LS_BASE, 2 LS_SIZE) of lease `i`; LS_NOTE is read-only. STATE begins anew where VALID
becomes 1 (log 59). -/
def State.leaseWrite (s : State) (i k : Nat) (v : Word) : State :=
  let b := lsBase i
  let cfg := s.pkgReg b
  let s := if fld cfg 0 0 = 1 then s.dropLease i else s
  match k with
  | 0 =>
    let new := setFld (setFld (setFld cfg 12 3 (fld v 12 3)) 31 16 (fld v 31 16)) 0 0 (fld v 0 0)
    if fld cfg 0 0 = 1 && fld v 0 0 = 0 then
      let s := if fld cfg 2 1 = 2 then s else s.revokeLease i
      s.setPkgReg b (setFld new 2 1 2)
    else if fld cfg 0 0 = 0 && fld v 0 0 = 1 then s.setPkgReg b (setFld new 2 1 0)
    else s.setPkgReg b new
  | 1 => s.setPkgReg (b + 8) (BitVec.ofNat 64 (fld v 55 16 * 65536))
  | 2 => s.setPkgReg (b + 16) (BitVec.ofNat 64 (fld v 47 16 * 65536))
  | _ => s

/-- A write of register `k` (0 GR_CFG, 1 GR_BASE, 2 GR_SIZE) of grant `i`. REVOKE begins the revocation of an active grant
(R411 item 1). STATE begins anew where VALID becomes 1. -/
def State.grantWrite (s : State) (i k : Nat) (v : Word) : State :=
  let b := grBase i
  match k with
  | 0 =>
    let cfg := s.pkgReg b
    let new := setFld (setFld (setFld (setFld cfg 0 0 (fld v 0 0)) 13 4 (fld v 13 4)) 31 16 (fld v 31 16)) 63 32 (fld v 63 32)
    let new := if fld cfg 0 0 = 0 && fld v 0 0 = 1 then setFld new 3 2 0 else new
    if fld v 1 1 = 1 && fld new 0 0 = 1 && fld new 3 2 = 0 then
      let s := s.setPkgReg b (setFld new 3 2 1)
      { s with outbox := s.outbox ++ [.leaseNotice (fld new 13 4) (fld (s.pkgReg (b + 8)) 55 16) (fld (s.pkgReg (b + 16)) 47 16)
                                        (fld new 31 16) (fld new 63 32)] }
    else s.setPkgReg b new
  | 1 => s.setPkgReg (b + 8) (BitVec.ofNat 64 (fld v 55 16 * 65536))
  | 2 => s.setPkgReg (b + 16) (BitVec.ofNat 64 (fld v 47 16 * 65536))
  | _ => s

/-- Cycles in a microsecond: the clock is 2.5 GHz (00 R3). -/
abbrev usCycles : Nat := 2500

/-- One lease enters NOTICE; die 0 posts a record of TYPE 4 (R411 item 1). -/
def State.noticeLease (s : State) (i notice : Nat) : State :=
  let b := lsBase i
  let s := (s.setPkgReg b (setFld (s.pkgReg b) 2 1 1)).setPkgReg (b + 24) (BitVec.ofNat 64 (notice % 2 ^ 32))
  let s := { s with leaseDue := s.leaseDue.put i (s.cycle + notice * usCycles) }
  if s.fqValid 0 then s.post 0 .noAnswer (postBody 4 0 0 (2 * 2 ^ 54 + i * 2 ^ 48) 0 0 (i + notice % 2 ^ 32 * 2 ^ 32)) else s

/-- LEASE_NOTICE: the message of lessor v[9:0] about ASID v[25:10], the range of v[97:66] frames from VA frame v[65:26], with
notice v[129:98] in µs. -/
def execLeaseNotice (v : Nat) (s : State) : Ans :=
  .next ((List.range 64).foldl (fun s i =>
    let cfg := s.pkgReg (lsBase i)
    let base := fld (s.pkgReg (lsBase i + 8)) 55 16
    if fld cfg 0 0 = 1 && fld cfg 2 1 = 0 && fld cfg 12 3 = bits v 9 0 && fld cfg 31 16 = bits v 25 10 &&
        decide (bits v 65 26 ≤ base) && decide (base < bits v 65 26 + bits v 97 66) then s.noticeLease i (bits v 129 98)
    else s) s)

/-- What remains of the notice of a lease, in µs (`LS_NOTE`.LEFT). -/
def State.leaseLeft (s : State) (i : Nat) : Nat := (s.leaseDue.get i 0 - s.cycle + usCycles - 1) / usCycles

/-- LEASE_NOTICE_EXPIRY: the notice of lease `unit` is over (R411 item 3). -/
def execLeaseNoticeExpiry (s : State) : Ans :=
  let i := s.cur.unit % 64
  let cfg := s.pkgReg (lsBase i)
  if fld cfg 0 0 = 1 && fld cfg 2 1 = 1 && s.leaseLeft i = 0 then .next (s.revokeLease i) else .next s

/-- LEASE_CLOSE: the closing message of lessee v[9:0] for ASID v[25:10] and the lease base v[65:26]: the grant passes through
CLOSING to VALID = 0 (R411 item 4). -/
def execLeaseClose (v : Nat) (s : State) : Ans :=
  .next ((List.range 64).foldl (fun s i =>
    let cfg := s.pkgReg (grBase i)
    let base := fld (s.pkgReg (grBase i + 8)) 55 16
    if fld cfg 0 0 = 1 && fld cfg 13 4 = bits v 9 0 && fld cfg 31 16 = bits v 25 10 && decide (base ≤ bits v 65 26) &&
        decide (bits v 65 26 < base + fld (s.pkgReg (grBase i + 16)) 47 16) then
      s.setPkgReg (grBase i) (setFld (setFld cfg 3 2 2) 0 0 0)
    else s) s)

/-! ## Answers to this device's requests (R414–R418) -/

/-- The core and bundle that a device's sequence number names. -/
def State.sentBundle (s : State) (dev bseq : Nat) : Option (Nat × BundleOut) :=
  s.cores.findSome? (fun e => (e.2.bundles.find? (fun b => b.dev == dev && b.sent.map (·.1) == some bseq)).map (fun b => (e.1, b)))

/-- A bundle is no longer open: the next ones are sent, and so are closing messages. -/
def State.closeBundle (s : State) (c : Nat) (b : BundleOut) : State :=
  (s.upCore c (fun k => { k with bundles := k.bundles.filter (fun q => q.id != b.id) })).opsClosed

/-- The words of a number. -/
def wordsOf : Nat → Nat → List Word
  | 0, _ => []
  | n + 1, v => BitVec.ofNat 64 v :: wordsOf n (v / 2 ^ 64)

/-- BUNDLE_ACK: with v[22] = 0, device v[9:0] has applied bundle v[21:10]; the old values of its atomics follow from bit 23.
With v[22] = 1, it has applied the full/empty operation of the acting core with number v / 2^87 and value v[86:23]. -/
def execBundleAck (v : Nat) (s : State) : Ans :=
  if bit v 22 then
    let c := s.cur.core
    match (s.core c).feSent.find? (fun r => r.no == v / 2 ^ 87) with
    | some r => .next ((s.upCore c (fun k => { k with feSent := k.feSent.filter (fun e => e.no != r.no) })).feDone r
        (BitVec.ofNat 64 (bits v 86 23))).opsClosed
    | none => .next s
  else match s.sentBundle (bits v 9 0) (bits v 21 10) with
    | none => .next s
    | some (c, b) =>
      let ops := b.ops.filterMap (·.atomic)
      let s := (ops.zip (wordsOf ops.length (v / 2 ^ 23))).foldl (fun s e =>
        s.upAnyCx c b.launch (·.resolve e.1.id (e.1.result e.2.toNat))) s
      .next (s.closeBundle c b)

/-- The atomic of a discarded bundle: its thread stands at the instruction again and raises the cause (R416). One whose thread
waits for no result has passed its instruction: the task instance ends (log 60). -/
def State.failAtomic (s : State) (c l : Nat) (o : FarOp) (k : Cause) : State :=
  let waits := fun (a : Arch) => (a.thr o.thr).far.any (fun e => e.src == .released o.id)
  let back := fun (a : Arch) =>
    if !waits a then a
    else a.upThr o.thr (fun th => { th with
      phase := .resume o.blk o.off o.park false, late := some (k, BitVec.ofNat 64 o.va)
      far := th.far.filter (fun e => e.src != .released o.id) })
  match s.anyCx c l with
  | some x => if waits x.chunk.ckpt then s.upAnyCx c l (·.upArchAll back) else s.endInstance c l (endingOf k (BitVec.ofNat 64 o.va))
  | none => s

/-- A bundle is discarded with a cause: an atomic's is its synchronous trap, any other ends the task instance (R416, R418). -/
def State.failBundle (s : State) (c : Nat) (b : BundleOut) (k : Cause) : State :=
  let s := s.closeBundle c b
  let ops := b.ops.filterMap (·.atomic)
  if 0x60 ≤ k.toNat && k.toNat < 0x70 && !ops.isEmpty then ops.foldl (fun s o => s.failAtomic c b.launch o k) s
  else s.endInstance c b.launch (endingOf k 0)

/-- The answer to the load that the acting thread waits for is a cause (R416): an absent page parks the context with a record of
TYPE 3, on the die of the core (log 61). -/
def State.loadRefused (s : State) (k : Cause) : State :=
  let c := s.cur.core
  match s.thr.stall with
  | some ⟨.peer r _, _, _⟩ =>
    if k = accessCause 0 10 then s.parkFor c (s.launchNo c) s.cur.thr r.va 0 s.thr.blk (some r.dev)
    else if 0x80 ≤ k.toNat then s.endHere k (BitVec.ofNat 64 r.va)
    else s.waitFault k (BitVec.ofNat 64 r.va)
  | _ => s

/-- ERROR_RESPONSE: v[1:0] = 0: the load of the acting thread, cause v[9:2]. 1: the bundle v[31:20] of device v[19:10], cause v[9:2],
or 0 to send request v[47:32] again. 2: full/empty operation v / 2^10 of the acting core: cause v[9:2], 0 refused, 0xFF
withdrawn. -/
def execErrorResponse (v : Nat) (s : State) : Ans :=
  let k : Cause := BitVec.ofNat 8 (bits v 9 2)
  let c := s.cur.core
  match bits v 1 0 with
  | 0 => .next (s.loadRefused k)
  | 1 => match s.sentBundle (bits v 19 10) (bits v 31 20) with
    | none => .next s
    | some (c, b) =>
      if k = 0 then .next { s with outbox := s.outbox ++ [.bundle b.dev (bits v 31 20) ((b.ops[bits v 47 32]?).toList)] }
      else .next (s.failBundle c b k)
  | 2 => match (s.core c).feSent.find? (fun r => r.no == v / 2 ^ 10) with
    | none => .next s
    | some r =>
      let s := s.upCore c (fun q => { q with feSent := q.feSent.filter (fun e => e.no != r.no) })
      if k = 0 then .next (s.upCore c (fun q => { q with feOut := q.feOut ++ [r.refuse s.cycle] }))
      else if k = 0xFF then .next (s.feBack r none).opsClosed
      else if k = accessCause (b2n r.store) 10 then .next (s.feAbsent r).opsClosed
      else if 0x80 ≤ k.toNat then .next (s.endInstance c r.launch (endingOf k (BitVec.ofNat 64 r.va))).opsClosed
      else .next (s.feBack r (some (k, BitVec.ofNat 64 r.va))).opsClosed
  | _ => .next s

/-- Clears the `PEER_EN` bit of a device (R418). -/
def State.dropPeer (s : State) (dev : Nat) : State :=
  let a := 0xC8C0 + 8 * (dev / 64)
  s.setPkgReg a (setFld (s.pkgReg a) (dev % 64) (dev % 64) 0)

/-- LINK_REQUEST_TIMEOUT: the load of the acting thread, or the oldest bundle of the acting core that was sent, has had no answer
for 2^26 cycles (R418). -/
def execLinkRequestTimeout (s : State) : Ans :=
  let c := s.cur.core
  match s.thr.stall with
  | some ⟨.peer r _, _, t⟩ =>
    if s.cycle < t + 2 ^ 26 then .next s else .next ((s.dropPeer r.dev).waitFault 0x46 (BitVec.ofNat 64 r.va))
  | _ =>
    match (s.core c).bundles.find? (fun b => match b.sent with | some (_, t) => decide (t + 2 ^ 26 ≤ s.cycle) | none => false) with
    | none => .next s
    | some b =>
      let i := s.recInst c b.launch
      let s := s.dropPeer b.dev
      let s := s.logLink { die := dieOf c, cause := 0xDA, pkgu := true, inst := i.1, lseq := i.2 }
      .next ((s.closeBundle c b).endInstance c b.launch (endingOf 0xDA 0))

/-- DYNAMIC_CAPACITY_EVENT: the event is passed to the host (R426). -/
def execDynamicCapacityEvent (v : Nat) (s : State) : Ans := .next { s with outbox := s.outbox ++ [.capacity v] }

end Sys2Proof.Machine
end

