-- ==== Sys2Proof/Machine/Net.lean ====
section
/-! DEFINITION. The network engine (15 R434–R451): posting, sending, placing, acknowledging and sending again; and the engine
fault of every unit (07 R243). The identity of the sender of an arriving packet stands in its event's number (log 19). -/
namespace Sys2Proof.Machine

/-! ## `netpost` (R440) -/

/-- The peer-table entry of a die is in use (R437). -/
def State.peerEntry (s : State) (die i : Nat) : Option Nat :=
  let t := s.dieReg die 0x098
  if fld t 0 0 = 0 then none
  else
    let e := s.memNat (fld t 51 17 * 2 ^ 17 + i * 32) 32
    if bits e 0 0 = 1 && bits e 15 2 = 0 && bits e 63 52 = 0 && bits e 255 192 = 0 && (bit e 1 || bits e 191 96 == 0) then some e
    else none

/-- The causes of `netpost` after its address checks. -/
def State.netCause (s : State) (c : Nat) (w : BitVec 512) : Option Cause :=
  let x := s.cx c
  let sends := decide (wrOp w < 2)
  if sends && bits (wrLva w) 55 54 = 1 && !s.feature 9 then some 0x1F
  else if wrBad w then some 0x98
  else if sends && !s.feature (11 + wrMode w) then some 0x9C
  else if sends && (s.peerEntry (dieOf c) (wrPeer w)).isNone then some 0x9D
  else if 0xFFFF < x.ctr.get (wrCtr w) 0 + x.heldIncs (wrCtr w) + wrIncs w then some 0x9B
  else none

/-- `netpost` from the scratchpad or from memory. -/
def State.netpost (s : State) (p : Pfx) (f : FAZ) (mem : Bool) : Ans :=
  s.instr p (fun _ => ctOnly { bad := f.d != 0 || f.z != 0, named := [f.s.toNat] }) (fun s =>
    let c := s.cur.core
    let a := (s.x f.s.toNat).toNat
    let r := if mem then s.loadAt c a 64 64 0
      else match s.spot c (a % 2 ^ 32) 64 64 0 with
        | .error e => .error e
        | .ok q => s.spRead c q 64
    match r with
    | .error e => .error e
    | .ok (s, bs) =>
      let w := BitVec.ofNat 512 (ofBytes bs)
      match s.netCause c w with
      | some k => .error (.cause k (if k = 0x1F then 0 else BitVec.ofNat 64 (if mem then a else a % 2 ^ 32)))
      | none => s.holdCmd (.net w (s.cx c).asid (s.isSup c)))

/-- `netpost`. -/
def execNetpost (p : Pfx) (f : FAZ) (s : State) : Ans := s.netpost p f false
/-- `netpost.m`. -/
def execNetpostM (p : Pfx) (f : FAZ) (s : State) : Ans := s.netpost p f true

/-! ## Sending (R435, R441) -/

/-- The usable ports of a die, those enabled and not absent (13 R385, R392): bit 0 port A, bit 1 port B. -/
def State.nePorts (s : State) (die : Nat) : Nat :=
  let up := fun (i : Nat) => b2n (!s.isAbsent die (1286 + i))
  fld (s.dieReg die 0x080) 2 1 &&& (up 0 + 2 * up 1)

/-- The engine of a die can send: it runs and has a usable port (R436, R448). -/
def State.neSends (s : State) (die : Nat) : Bool := fld (s.dieReg die 0x080) 0 0 == 1 && s.nePorts die != 0

/-- The port of a first transmission (R435). -/
def netPort (ports mode peer psn : Nat) : Nat :=
  match ports with
  | 1 => 0
  | 2 => 1
  | _ => if mode = 0 then psn % 2 else peer % 2

/-- The port of a transmission after one on port `last` (R448). -/
def netRePort (ports mode peer last : Nat) : Nat :=
  match ports with
  | 1 => 0
  | 2 => 1
  | _ => if mode = 0 then 1 - last else peer % 2

/-- The connection of an engine. -/
def State.netConn (s : State) (die mode peer : Nat) : Option NetConn :=
  s.netConns.find? (fun q => q.die == die && q.mode == mode && q.peer == peer)

/-- Replaces a connection. -/
def State.putConn (s : State) (q : NetConn) : State :=
  { s with netConns := (s.netConns.filter (fun e => !(e.die == q.die && e.mode == q.mode && e.peer == q.peer))) ++ [q] }

/-- Changes a message. -/
def State.upMsg (s : State) (no : Nat) (f : NetMsg → NetMsg) : State :=
  { s with netMsgs := s.netMsgs.map (fun m => if m.no == no then f m else m) }

/-- Source line `l` of a message, read from memory; it waits for a commit that is about to write the line. A page that is absent or does
not permit the read is the steward's (R441). -/
def State.readLine (s : State) (m : NetMsg) (l : Nat) : Except EngStop (State × List Byte) :=
  match s.engineXlat m.asid (l * 64) 0 m.sup with
  | .error e => .error e
  | .ok (s, x) =>
    let pa := x.pfn * 65536 + l * 64 % 65536
    if leafConf x.attr then .error (.ends s 0x99 (l * 64))
    else if s.poisoned pa 64 then .error (.ends s 0x9A (l * 64))
    else if s.grantOn (pa / 64) then .error .wait
    else .ok (s, s.mem.readN pa 64)

/-- The 64 bytes of source line `l` of a message: as they were read, or read now. -/
def State.netLine (s : State) (m : NetMsg) (l : Nat) : Except EngStop (State × List Byte) :=
  match m.line.filter (·.1 == l) with
  | some (_, bs) => .ok (s, bs)
  | none => s.readLine m l

/-- Reads payload bytes [a, a + n) of a message's source; `fuel` lines. It answers the bytes and the last line read. -/
def State.netRead (s : State) (m : NetMsg) (a n : Nat) : Nat → Except EngStop (State × List Byte × Option (Nat × List Byte))
  | 0 => .ok (s, [], m.line)
  | k + 1 =>
    if n = 0 then .ok (s, [], m.line)
    else
      let len := min n (64 - a % 64)
      match s.netLine m (a / 64) with
      | .error e => .error e
      | .ok (s, bs) => match s.netRead { m with line := some (a / 64, bs) } (a + len) (n - len) k with
        | .error e => .error e
        | .ok (s, r, last) => .ok (s, (bs.drop (a % 64)).take len ++ r, last)

/-- A task instance that sends ends with a cause and an address (R449; 06 R216): its messages are discarded. -/
def State.failSender (s : State) (c l : Nat) (k : Cause) (va : Nat) : State :=
  ({ s with netMsgs := s.netMsgs.filter (fun m => !(m.core == c && m.launch == l)) } : State).endInstance c l
    (endingOf k (BitVec.ofNat 64 va))

/-- Sends a packet on a port. -/
def State.sendPkt (s : State) (q : NetConn) (port : Nat) (p : NetPkt) : State :=
  { s with outbox := s.outbox ++ [.net q.die port q.peer (if q.acked then none else some q.start) p] }

/-- The connection of a message: as it stands, or opened now (R435). -/
def State.openConn (s : State) (die mode peer : Nat) : NetConn :=
  match s.netConn die mode peer with
  | some q => q
  | none =>
    let seed := BitVec.ofNat 64 (fld (s.dieReg die 0x080) 39 16)
    let psn := fld (fzr4 seed (peer * 2 + mode) (BitVec.ofNat 64 s.cycle)) 31 0
    { die := die, mode := mode, peer := peer, start := psn, next := psn, heard := s.cycle }

/-- The next packet of a message on its connection. -/
def State.sendNext (s : State) (m : NetMsg) : State :=
  let q := s.openConn m.die (wrMode m.w) (wrPeer m.w)
  let n := min 2048 (wrLen m.w - m.sent)
  match s.netRead m (wrLva m.w + m.sent) n 40 with
  | .error .wait => s
  | .error (.ends s k va) => s.failSender m.core m.launch k va
  | .error (.repair ..) => s
  | .ok (s, bs, line) =>
    let p : NetPkt := { mode := q.mode, psn := q.next, msg := m.no, op := wrOp m.w, rkey := wrKey m.w, len := wrLen m.w
                        arg := BitVec.ofNat 64 (wrArg m.w), off := m.sent, data := ofBytes bs }
    let port := netPort (s.nePorts m.die) q.mode q.peer q.next
    let s := s.sendPkt q port p
    let q := { q with
      next := (q.next + 1) % 2 ^ 32
      heard := if q.fly.isEmpty then s.cycle else q.heard
      fly := q.fly ++ [{ pkt := p, last := s.cycle, port := port }] }
    (s.putConn q).upMsg m.no (fun m => { m with sent := m.sent + n, unacked := m.unacked + 1, line := line })

/-- The first message of an engine that can send: its core's unit is not in REPAIR, the connection has room, and no earlier
message of the connection has bytes to send. -/
def State.nextMsg (s : State) (die : Nat) : Option NetMsg :=
  let ms := s.netMsgs.filter (fun m => m.die == die && m.taken)
  let waits := fun (m : NetMsg) => decide (m.sent < wrLen m.w)
  ms.find? (fun m => waits m && (s.core m.core).netRepair.isNone &&
    (match s.netConn die (wrMode m.w) (wrPeer m.w) with | some q => decide (q.fly.length < 64) | none => true) &&
    !ms.any (fun e => decide (e.no < m.no) && waits e && wrMode e.w == wrMode m.w && wrPeer e.w == wrPeer m.w))

/-- NET_REQUEST_START: the engine of the acting die takes its oldest released request while fewer than 1,024 are in progress, and
sends the next packet (R441). An engine that does not run, or has no port, ends the task instance. -/
def execNetRequestStart (s : State) : Ans :=
  let die := dieOf s.cur.core
  let busy := (s.netMsgs.filter (fun m => m.die == die && m.taken)).length
  let s := match s.netMsgs.find? (fun m => m.die == die && !m.taken) with
    | some m => if busy < 1024 then s.upMsg m.no (fun m => { m with taken := true }) else s
    | none => s
  match s.nextMsg die with
  | none => .next s
  | some m =>
    if s.engineTest 3 s.cur.core 0 then .next s
    else if !s.neSends die then .next (s.failSender m.core m.launch 0x9D 0)
    else .next (s.sendNext m)

/-! ## Arrival (R437, R443–R447, R450) -/

/-- The source index of a packet: its V6 flag v[0], JOB v[24:1], PID v[36:25] and address v[164:37] match a table entry (R437). -/
def State.netSource (s : State) (die v : Nat) : Option Nat :=
  if fld (s.dieReg die 0x080) 0 0 = 0 then none
  else (List.range 4096).find? (fun i => match s.peerEntry die i with
    | some e => bits e 1 1 == bits v 0 0 && bits e 39 16 == bits v 24 1 && bits e 51 40 == bits v 36 25 && bits e 191 64 == bits v 164 37
    | none => false)

/-- The receiver's side of a connection. -/
def State.netRecv (s : State) (die mode src : Nat) : Option NetRecv :=
  s.netRecvs.find? (fun q => q.die == die && q.mode == mode && q.src == src)

/-- Replaces it. -/
def State.putRecv (s : State) (q : NetRecv) : State :=
  { s with netRecvs := (s.netRecvs.filter (fun e => !(e.die == q.die && e.mode == q.mode && e.src == q.src))) ++ [q] }

/-- Whether PSN `p` stands n places after CACK; none below it. -/
def psnAhead (cack p : Nat) : Option Nat :=
  let d := (p + 2 ^ 32 - cack) % 2 ^ 32
  if d < 2 ^ 31 then some d else none

/-- Sends the acknowledgement of a connection (R447). -/
def State.sendAck (s : State) (q : NetRecv) : State :=
  let map := q.placed.foldl (fun a p => match psnAhead q.cack p with
    | some d => if 1 ≤ d && d ≤ 64 then a ||| 2 ^ (d - 1) else a
    | none => a) 0
  ({ s with outbox := s.outbox ++ [.netAck q.die q.mode q.src q.cack map] } : State).putRecv { q with due := 0 }

/-- CACK after more packets are placed: the lowest PSN not placed. -/
def NetRecv.advance (q : NetRecv) : Nat → NetRecv
  | 0 => q
  | n + 1 =>
    if q.placed.contains q.cack then
      { q with placed := q.placed.filter (· != q.cack), cack := (q.cack + 1) % 2 ^ 32 }.advance n
    else q

/-- Bytes of a packet's payload. -/
def NetPkt.size (p : NetPkt) : Nat := min 2048 (p.len - p.off)

/-- The pieces of [a, a + n) line by line. -/
def netLines (a n : Nat) : Nat → List (Nat × Nat)
  | 0 => []
  | k + 1 => if n = 0 then [] else (a, min n (64 - a % 64)) :: netLines (a + min n (64 - a % 64)) (n - min n (64 - a % 64)) k

/-- The bytes of region `r` that a message of `len` bytes writes: its payload, and the whole slot's trailer of a send (R444, R445). -/
def netCovers (r : Region) (m : RegMsg) (len : Nat) (send : Bool) : Covers := fun a b =>
  let lo := r.base + m.base
  let slot := lo + r.slot * 64
  (List.range (b - a)).all (fun i => (decide (lo ≤ a + i) && decide (a + i < lo + len)) ||
    (send && decide (slot - 64 ≤ a + i) && decide (a + i < slot)))

/-- The PAs of pieces of a region; a page that is absent or not permitted, or poison that the message does not cover, stops it. -/
def State.netPas (s : State) (r : Region) (cov : Covers) : List (Nat × Nat) → Except EngStop (State × List Nat)
  | [] => .ok (s, [])
  | (a, n) :: q =>
    match s.engineXlat r.asid a 1 r.sup with
    | .error e => .error e
    | .ok (s, x) =>
      let pa := x.pfn * 65536 + a % 65536
      if s.lineBarred pa a 1 (touchesBytes a n) cov then .error (s.poisonStop pa 1 a)
      else match s.netPas r cov q with
        | .error e => .error e
        | .ok (s, l) => .ok (s, pa :: l)

/-- What a packet meets at the region. -/
inductive NetMeet where
  /-- not ready -/
  | rnr
  /-- refused; `s` holds the claims of the walk that found it so (10 R317) -/
  | refused (s : State)
  /-- its message: an accepted one, or a new one -/
  | go (r : Region) (m : RegMsg)
deriving DecidableEq, Repr

/-- The pages of the lines of [a, a + n) lack W for a region: the state after the walk that finds it (10 R317). -/
def State.pageLacksW (s : State) (r : Region) (a n : Nat) : Option State :=
  (List.range ((a + n + 65535) / 65536 - a / 65536)).findSome? (fun i =>
    match s.engineXlat r.asid (max a ((a / 65536 + i) * 65536)) 1 r.sup with
    | .error (.repair s k _) => if k = accessCause 1 2 then some s else none
    | _ => none)

/-- The checks of the first packet of a message, or of a later one, whose place is that of the accepted message (R443, R451). -/
def State.netMeet (s : State) (key src : Nat) (p : NetPkt) : NetMeet :=
  match s.regions.find key with
  | none => .rnr
  | some r =>
    match r.msgs.find? (fun m => m.mode == p.mode && m.src == src && m.msg == p.msg) with
    | some m => if p.off + p.size ≤ m.len then .go r m else .refused s
    | none =>
      let send := p.op == 1
      let base := if send then r.nextSlot * r.slot * 64 else p.arg.toNat
      let no := if p.len = 0 then none else s.pageLacksW r (r.base + base) p.len
      let no := if no.isNone && send then s.pageLacksW r (r.base + base + r.slot * 64 - 64) 64 else no
      if r.closing || r.tag ≠ p.rkey / 256 || (!send && (r.sendk || decide (r.len < p.arg.toNat + p.len))) ||
          (send && (!r.sendk || decide (r.slot * 64 - 64 < p.len))) || r.nmsg ≤ r.accepted then .refused s
      else if let some e := no then .refused e
      else .go { r with accepted := r.accepted + 1, nextSlot := if send then r.nextSlot + 1 else r.nextSlot
                        msgs := r.msgs ++ [⟨p.mode, src, p.msg, base, p.len, p.len⟩] } ⟨p.mode, src, p.msg, base, p.len, p.len⟩

/-- The context of a region is resident (R446). -/
def State.regionResident (s : State) (r : Region) : Bool :=
  match (s.core r.core).slotOf r.launch with
  | some i => let st := ((s.core r.core).slot i).st; st == .ready || st == .running || st == .drain
  | none => false

/-- A context's counter falls by `n` (R446). -/
def State.netDec (s : State) (c l ctr n : Nat) : State :=
  s.upLaunchCx c l (fun x => { x with ctr := x.ctr.set ctr ((x.ctr.get ctr 0 + 65536 - n % 65536) % 65536) 0 })

/-- A message is complete at its receiver (R446): the counter of the registering context falls, later if the context is not resident, and
never if its task instance is over (R451), also where a restart has started it afresh (13 R390). -/
def State.netComplete (s : State) (key : Nat) (r : Region) (m : RegMsg) : State :=
  let r := { r with msgs := r.msgs.filter (fun e => !(e.mode == m.mode && e.src == m.src && e.msg == m.msg)) }
  let own := s.attempt r.launch == r.att
  let here := own && s.regionResident r
  let away := own && !here && (s.anyCx r.core r.launch).isSome
  let s := if here then s.netDec r.core r.launch r.ctr 1 else s
  ({ s with regions := s.regions.put key (if away then { r with dec := r.dec + 1 } else r) } : State).freeRegion key

/-- What the placing of a packet answers. -/
inductive NetPut where
  | placed (s : State)
  /-- dropped without acknowledgement: a page is absent or not to be written (R444) -/
  | dropped (s : State)
  /-- a commit holds one of its lines: it is placed later -/
  | later (s : State)

/-- Places a packet in its region (R444, R445): its lines, each one synthetic chunk, and for the last packet of a send the
trailer. -/
def State.netPut (s : State) (key src : Nat) (p : NetPkt) (r : Region) (m : RegMsg) : NetPut :=
  let last := decide (m.left ≤ p.size)
  let trailer := r.base + m.base + r.slot * 64 - 64
  let ps := netLines (r.base + m.base + p.off) p.size 40
  let cov := netCovers r m m.len (p.op == 1)
  let s0 := { s with regions := s.regions.put key r }
  match s0.netPas r cov (ps ++ (if last && p.op = 1 then [(trailer, 64)] else [])) with
  | .error .wait => .later s0
  | .error (.ends s k a) => .dropped (s.engineEnds r.core r.launch k a)
  | .error (.repair s k a) =>
    if (s.core r.core).netRepair.isSome then .dropped s
    else .dropped (s.engineFault r.core 0x51 r.launch 0 k a 0)
  | .ok (s, pas) =>
    if pas.any (s.synthBusy none) then .later s0
    else
      let bs := toBytes p.size p.data
      let s := (ps.zip pas).foldl (fun (a : State × List Byte) e =>
        ((a.1.synthFor r.launch e.2 (a.2.take e.1.2)).healed cov e.1.1 (e.2 / 64 * 64), a.2.drop e.1.2)) (s, bs) |>.1
      let s := if last && p.op = 1 then
          s.synthFor r.launch (pas.getLastD 0) (toBytes 8 p.arg.toNat ++ toBytes 8 (m.len + src * 2 ^ 32) ++ toBytes 48 0)
        else s
      if last then .placed (s.netComplete key r m)
      else .placed { s with regions := s.regions.put key { r with msgs := r.msgs.map (fun e =>
        if e.mode == m.mode && e.src == m.src && e.msg == m.msg then { e with left := e.left - p.size } else e) } }

/-- A packet that is not a duplicate is checked and placed, and the eighth placed one is acknowledged (R447); one that has to wait for a
line is held. The receiver's side after it. -/
def State.netTake (s : State) (q : NetRecv) (p : NetPkt) : State × NetRecv :=
  let key := q.die * 256 + p.rkey % 256
  let out := { q with held := q.held.filter (fun e => e.psn != p.psn) }
  match s.netMeet key q.src p with
  | .rnr => ({ s with outbox := s.outbox ++ [.netRnr q.die p.mode q.src p.psn] }, out)
  | .refused s => ({ s with outbox := s.outbox ++ [.netRefuse q.die p.mode q.src p.psn] }, out)
  | .go r m =>
    match s.netPut key q.src p r m with
    | .dropped s => (s, out)
    | .later s => (s, { out with held := out.held ++ [p] })
    | .placed s =>
      let q := { out with placed := p.psn :: q.placed, due := q.due + 1, since := if q.due = 0 then s.cycle else q.since }.advance 66
      if 8 ≤ q.due then (s.sendAck q, { q with due := 0 }) else (s, q)

/-- The held packets of a connection that can be placed, each tried once: in ROD the next in PSN order (R450), in RUD all. -/
def State.netHeld (s : State) (q : NetRecv) (tried : List Nat) : Nat → State × NetRecv
  | 0 => (s, q)
  | n + 1 =>
    match q.held.find? (fun p => (q.mode == 0 || p.psn == q.cack) && !tried.contains p.psn) with
    | none => (s, q)
    | some p =>
      let r := s.netTake q p
      r.1.netHeld r.2 (p.psn :: tried) n

/-- The packet of an event's number: mode v[165], SYN v[166], starting PSN v[198:167], PSN v[230:199], message v[262:231], OP
v[263], RKEY v[279:264], LEN v[311:280], ARG v[375:312], offset v[407:376], payload from bit 408. -/
def netPkt (v : Nat) : NetPkt :=
  { mode := bits v 165 165, psn := bits v 230 199, msg := bits v 262 231, op := bits v 263 263, rkey := bits v 279 264
    len := bits v 311 280, arg := BitVec.ofNat 64 (bits v 375 312), off := bits v 407 376, data := v / 2 ^ 408 % 2 ^ 16384 }

/-- NET_PACKET_ARRIVE: a packet reaches the engine of the acting die (R443–R447, R450). -/
def execNetPacketArrive (v : Nat) (s : State) : Ans :=
  let die := dieOf s.cur.core
  match s.netSource die v with
  | none => .next s
  | some src =>
    let p := netPkt v
    let fresh : NetRecv := { die := die, mode := p.mode, src := src, start := bits v 198 167, cack := bits v 198 167 }
    let conn := match s.netRecv die p.mode src with
      | some q => if bit v 166 && q.start != bits v 198 167 then some fresh else some q
      | none => if bit v 166 then some fresh else none
    match conn with
    | none => .next s
    | some q =>
      match psnAhead q.cack p.psn with
      | none => .next (s.sendAck q)
      | some d =>
        if q.placed.contains p.psn then .next (s.sendAck q)
        else if 64 < d then .next (s.putRecv q)
        else if q.held.any (fun e => e.psn == p.psn) then .next (s.putRecv q)
        else if p.mode = 1 && d ≠ 0 then .next (s.putRecv { q with held := q.held ++ [p] })
        else
          let r := s.netTake q p
          let r := r.1.netHeld r.2 [p.psn] 65
          .next (r.1.putRecv r.2)

/-- The packets that the engine of a die holds are tried again. -/
def State.netHeldAll (s : State) (die : Nat) : State :=
  (s.netRecvs.filter (fun q => q.die == die && !q.held.isEmpty)).foldl (fun s q =>
    let r := s.netHeld q [] 65
    r.1.putRecv r.2) s

/-- NET_ACK_TIMER: the engine of the acting die tries the packets that it holds; a placed one that has stood unacknowledged for 1,000
cycles is acknowledged (R447). -/
def execNetAckTimer (s : State) : Ans :=
  let die := dieOf s.cur.core
  let s := s.netHeldAll die
  match s.netRecvs.find? (fun q => q.die == die && decide (0 < q.due) && decide (q.since + 1000 ≤ s.cycle)) with
  | some q => .next (s.sendAck q)
  | none => .next s

/-! ## Answers at the sender (R443, R448, R449) -/

/-- Counts a retransmission (R448). -/
def State.countRetx (s : State) (die : Nat) : State :=
  let r := s.dieReg die 0x0A0
  s.setDieReg die 0x0A0 (setFld r 63 32 (min 0xFFFFFFFF (fld r 63 32 + 1)))

/-- The owner of a packet, while its message is in progress. -/
def State.msgOf (s : State) (p : NetPkt) : Option NetMsg := s.netMsgs.find? (fun m => m.no == p.msg)

/-- Changes a packet that is not acknowledged. -/
def NetConn.upFly (q : NetConn) (psn : Nat) (f : NetFly → NetFly) : NetConn :=
  { q with fly := q.fly.map (fun e => if e.pkt.psn == psn then f e else e) }

/-- The task instances whose packets a connection has not had acknowledged end with a cause. -/
def State.failConn (s : State) (q : NetConn) (k : Cause) : State :=
  (q.fly.filterMap (fun e => s.msgOf e.pkt)).foldl (fun s m => s.failSender m.core m.launch k 0)
    (s.putConn { q with fly := q.fly.filter (fun e => (s.msgOf e.pkt).isNone), rnrSince := none })

/-- Sends a packet again; one that would need more than RLIM transmissions ends the task instance, and so does an engine that cannot send
(R448, R436). -/
def State.retransmit (s : State) (q : NetConn) (e : NetFly) (gap : Bool) : State :=
  let lim := fld (s.dieReg q.die 0x080) 7 4
  if !s.neSends q.die then s.failConn q 0x9D
  else if !e.rnr && lim ≤ e.tx then
    match s.msgOf e.pkt with
    | some m => s.failSender m.core m.launch 0x9E 0
    | none => s.putConn { q with fly := q.fly.filter (fun x => x.pkt.psn != e.pkt.psn) }
  else
    let port := netRePort (s.nePorts q.die) q.mode q.peer e.port
    let q' := q.upFly e.pkt.psn (fun e => { e with
      tx := if e.rnr then e.tx else e.tx + 1, last := s.cycle, port := port, fast := e.fast || gap, rnr := false })
    ((s.countRetx q.die).putConn q').sendPkt q port e.pkt

/-- A packet of a message is acknowledged; the message completes with its last one (R449). -/
def State.ackPkt (s : State) (p : NetPkt) : State :=
  match s.msgOf p with
  | none => s
  | some m =>
    if m.unacked = 1 && wrLen m.w ≤ m.sent then
      ({ s with netMsgs := s.netMsgs.filter (fun e => e.no != m.no) } : State).netDec m.core m.launch (wrCtr m.w) 1
    else s.upMsg m.no (fun m => { m with unacked := m.unacked - 1 })

/-- The distance of a PSN from a connection's CACK shows it placed. -/
def psnPlaced (cack map psn : Nat) : Bool :=
  match psnAhead cack psn with
  | none => true
  | some d => decide (1 ≤ d) && map.testBit (d - 1)

/-- The packets that an acknowledgement shows missing below three placed ones are sent again, once each (R448). -/
def State.fillGaps (s : State) (die mode peer cack map : Nat) : List NetFly → State
  | [] => s
  | e :: r =>
    let above := match psnAhead cack e.pkt.psn with
      | some d => popcN (map / 2 ^ d) 64
      | none => 0
    match s.netConn die mode peer with
    | some q => if 3 ≤ above && !e.fast then (s.retransmit q e true).fillGaps die mode peer cack map r else s.fillGaps die mode peer cack map r
    | none => s

/-- NET_ACK: an answer of the peer that v[164:0] names, in mode v[165]: with v[166] = 0 an acknowledgement with CACK v[198:167] and
map v[262:199]; with v[166] = 1 the refusal of packet v[198:167]. -/
def execNetAck (v : Nat) (s : State) : Ans :=
  let die := dieOf s.cur.core
  match s.netSource die v with
  | none => .next s
  | some peer =>
    match s.netConn die (bits v 165 165) peer with
    | none => .next s
    | some q =>
      let cack := bits v 198 167
      let map := bits v 262 199
      if bit v 166 then
        match q.fly.find? (fun e => e.pkt.psn == cack) with
        | none => .next s
        | some e =>
          let s := s.putConn { q with heard := s.cycle }
          match s.msgOf e.pkt with
          | some m => .next (s.failSender m.core m.launch 0x9F 0)
          | none => .next s
      else
        let done := q.fly.filter (fun e => psnPlaced cack map e.pkt.psn)
        let rest := q.fly.filter (fun e => !psnPlaced cack map e.pkt.psn)
        let s := s.putConn { q with acked := true, heard := s.cycle, rnrSince := none, fly := rest }
        let s := done.foldl (fun s e => s.ackPkt e.pkt) s
        .next (s.fillGaps die q.mode peer cack map rest)

/-- NET_RETX_TIMEOUT: a packet of an engine of the acting die has not been covered within 2^RTO cycles of its last transmission
(R448, R443). -/
def execNetRetxTimeout (s : State) : Ans :=
  let die := dieOf s.cur.core
  let rto := fld (s.dieReg die 0x080) 12 8
  match s.netConns.findSome? (fun q => if q.die != die then none
      else (q.fly.find? (fun e => decide (e.last + 2 ^ rto ≤ s.cycle))).map (fun e => (q, e))) with
  | some (q, e) => .next (s.retransmit q e false)
  | none => .next s

/-- NET_RNR: the peer that arg[164:0] names answers packet arg[198:167], in mode arg[165], that it is not ready; the packet is sent
again after RTO, and this does not count (R443). -/
def execNetRnr (s : State) : Ans :=
  let die := dieOf s.cur.core
  let v := s.cur.arg
  match s.netSource die v with
  | none => .next s
  | some peer =>
    match s.netConn die (bits v 165 165) peer with
    | none => .next s
    | some q =>
      let q := { q with heard := s.cycle, rnrSince := some (q.rnrSince.getD s.cycle) }
      .next (s.putConn (q.upFly (bits v 198 167) (fun e => { e with last := s.cycle, rnr := true })))

/-- NET_CONNECTION_TIMEOUT: no acknowledgement and no RNR has come on a connection for 2^26 cycles, or the engine cannot send (R448,
R436). -/
def execNetConnectionTimeout (s : State) : Ans :=
  let die := dieOf s.cur.core
  match s.netConns.find? (fun q => q.die == die && !q.fly.isEmpty && (decide (q.heard + 2 ^ 26 ≤ s.cycle) || !s.neSends die)) with
  | some q => .next (s.failConn q 0x9D)
  | none => .next s

/-- RNR_TIMEOUT: only RNR answers have come on a connection for 2^26 cycles (R443). -/
def execRnrTimeout (s : State) : Ans :=
  let die := dieOf s.cur.core
  match s.netConns.find? (fun q => q.die == die && (match q.rnrSince with | some t => decide (t + 2 ^ 26 ≤ s.cycle) | none => false)) with
  | some q => .next (s.failConn q 0x9F)
  | none => .next s

/-! ## The end of a task instance (R449, R451) -/

/-- What an ended task instance leaves in the engines: its messages are gone where a cause ended it, and its regions are
deregistered. -/
def State.netEnd (s : State) (c l : Nat) : State :=
  let s := { s with netMsgs := s.netMsgs.filter (fun m => !(m.core == c && m.launch == l)) }
  let s := { s with regions := s.regions.map (fun (e : Nat × Region) => if e.2.core == c && e.2.launch == l then (e.1, { e.2 with dec := 0 }) else e) }
  (s.regions.filter (fun e => e.2.core == c && e.2.launch == l)).foldl (fun s e => s.deregister e.1) s

/-- The decrements that regions kept for a context are applied when it becomes resident (R446). -/
def State.netResident (s : State) (c l : Nat) : State :=
  (s.regions.filter (fun e => e.2.core == c && e.2.launch == l && decide (0 < e.2.dec))).foldl (fun s e =>
    (({ s with regions := s.regions.put e.1 { e.2 with dec := 0 } } : State).netDec c l e.2.ctr e.2.dec).freeRegion e.1) s

/-! ## Engine faults (07 R243) -/

/-- The network message of a core that its source stops: the state after its translations, launch, cause and address (R441). -/
def State.netStops (s : State) (c : Nat) : Option (State × Nat × Cause × Nat) :=
  if (s.core c).netRepair.isSome then none
  else (s.netMsgs.filter (fun m => m.core == c && m.taken && decide (m.sent < wrLen m.w))).findSome? (fun m =>
    match s.netRead m (wrLva m.w + m.sent) (min 2048 (wrLen m.w - m.sent)) 40 with
    | .error (.repair e k va) => some (e, m.launch, k, va)
    | _ => none)

/-- ENGINE_FAULT: unit `unit` of the acting core meets a translation fault or an error of memory: it stops in REPAIR, and a message
goes to the steward (07 R243, R244; 10 R318). -/
def execEngineFault (s : State) : Ans :=
  let c := s.cur.core
  let u := s.cur.unit
  if u = 0x51 then
    match s.netStops c with
    | some (s, l, k, va) => .next (s.engineFault c 0x51 l 0 k va 0)
    | none => .next s
  else match s.engineStops c u with
    | some (s, l, idx, k, va, index) => .next (s.engineFault c u l idx k va index)
    | none => .next s

end Sys2Proof.Machine
end

