-- ==== Sys2Proof/Machine/Desc.lean ====
section
/-! DEFINITION. What the launch unit reads: launch descriptors and their tables, and the checks of a launch
(12 R343–R350, R360, R361; 13 R388). -/
namespace Sys2Proof.Machine

/-! ## Fields of a descriptor (R348) -/

def dEntry (d : BitVec 2048) : Nat := ld d 0 55 0
def dAsid (d : BitVec 2048) : Nat := ld d 0x08 15 0
def dSup (d : BitVec 2048) : Bool := ld d 0x08 16 16 == 1
def dRestart (d : BitVec 2048) : Bool := ld d 0x08 17 17 == 1
def dDig (d : BitVec 2048) : Bool := ld d 0x08 18 18 == 1
def dOrd (d : BitVec 2048) : Nat := ld d 0x08 20 19
def dPrio (d : BitVec 2048) : Nat := ld d 0x08 22 21
def dEcls (d : BitVec 2048) : Nat := ld d 0x08 25 23
def dEkey (d : BitVec 2048) : Nat := ld d 0x08 37 26
def dAccn (d : BitVec 2048) : Nat := ld d 0x08 42 38
def dWin (d : BitVec 2048) : Nat := ld d 0x08 47 43
/-- Instances, extents and tile sizes along a dimension. -/
def dN (d : BitVec 2048) (i : Nat) : Nat := ld d 0x18 (16 * i + 15) (16 * i)
def dE (d : BitVec 2048) (i : Nat) : Nat := ld d (0x20 + 8 * i) 63 0
def dT (d : BitVec 2048) (i : Nat) : Nat := ld d (0x40 + 8 * i) 63 0
def dTplva (d : BitVec 2048) : Nat := ld d 0x80 55 0
def dFmtn (d : BitVec 2048) : Nat := ld d 0x90 31 0
def dDomva (d : BitVec 2048) : Nat := ld d 0x98 55 0
def dCtxva (d : BitVec 2048) : Nat := ld d 0xC0 55 0
def dExtva (d : BitVec 2048) : Nat := ld d 0xC8 55 0

/-- A reserved field is not 0. -/
def descReserved (d : BitVec 2048) : Bool :=
  [0, 0x80, 0x88, 0x98, 0xA0, 0xB0, 0xC0, 0xC8].any (fun o => ld d o 63 56 != 0) ||
  [0x90, 0xA8, 0xB8].any (fun o => ld d o 63 32 != 0) ||
  ld d 0x08 63 48 != 0 || ld d 0x10 63 40 != 0 || bits d.toNat 2047 1664 != 0

/-- The core lies in the masks of a grid (R350). -/
def inMasks (d : BitVec 2048) (c : Nat) : Bool :=
  (ld d 0x10 3 0).testBit (c / 1024 % 4) && (ld d 0x10 7 4).testBit (c / 256 % 4) &&
  (ld d 0x10 23 8).testBit (c % 256 / 16) && (ld d 0x10 39 24).testBit (c % 16)

/-- The grid: the usable cores in the masks, by package core number (R350). -/
def State.gridOf (s : State) (d : BitVec 2048) : List Nat := (List.range 4096).filter (fun c => inMasks d c && s.usable c)

/-! ## Domain and `.fmt` entries (R348, R349) -/

/-- Id, membership and mark of a level in a domain entry. -/
def domEnt (e lvl : Nat) : Nat × Bool × Bool :=
  let b := 18 * (lvl - 1)
  (bits e (b + 15) b, e.testBit (b + 16), e.testBit (b + 17))

/-- The domain table is invalid. -/
def domsBad (grid doms : List Nat) : Bool :=
  let es := grid.zip doms
  es.any (fun e => decide (1 < ([1, 2, 3].filter (fun l => (domEnt e.2 l).2.2)).length) ||
    [1, 2, 3].any (fun l => (domEnt e.2 l).2.2 && !(domEnt e.2 l).2.1)) ||
  [1, 2, 3].any (fun l => es.any (fun a => es.any (fun b =>
    let x := domEnt a.2 l
    let y := domEnt b.2 l
    x.2.1 && y.2.1 && x.1 == y.1 && domPlace l a.1 == domPlace l b.1 && x.2.2 != y.2.2)))

/-- Fields of a `.fmt` entry: window offset, lines, tag, SP. -/
def fmtOff (e : Nat) : Nat := bits e 20 0
def fmtLines (e : Nat) : Nat := bits e 52 32
def fmtSp (e : Nat) : Bool := e.testBit 69
/-- The tag that an entry gives its lines: on a tag that is neither MX nor BX, SP is written as 0 (01 R23). -/
def fmtTag (e : Nat) : LineTag :=
  let t := bits e 68 64
  ⟨t, fmtSp e && (tagIsMx t || tagIsBx t)⟩

/-- A `.fmt` entry that reason 2 refuses. -/
def fmtBad (e : Nat) : Bool :=
  bits e 31 21 != 0 || bits e 63 53 != 0 || bits e 127 70 != 0 || tagReserved (fmtTag e).tag ||
  (tagIsBx (fmtTag e).tag && !fmtSp e) || fmtOff e % 64 != 0

/-! ## Snapshots (13 R388) -/

/-- Fields of a snapshot entry: source, length, save area. -/
def snapSrc (e : Nat) : Nat := bits e 55 0
def snapLen (e : Nat) : Nat := bits e 95 64
def snapSave (e : Nat) : Nat := bits e 183 128

/-- A snapshot entry that reason 1 refuses for its alignment or length. -/
def snapBad (e : Nat) : Bool :=
  snapSrc e % 64 != 0 || snapSave e % 64 != 0 || snapLen e % 64 != 0 || decide (snapLen e < 64)

/-- Its reserved bits are not 0. -/
def snapReserved (e : Nat) : Bool := bits e 63 56 != 0 || bits e 127 96 != 0 || bits e 191 184 != 0 || bits e 255 192 != 0

/-- The lines of a range and of another, as pairs of PAs. -/
def State.linePairs (s : State) (asid src dst : Nat) : Nat → UnitRes (List (Nat × Nat))
  | 0 => (s, .ok [])
  | n + 1 => UnitRes.bind (s.unitPa asid src 0) (fun s a => UnitRes.bind (s.unitPa asid dst 1) (fun s b =>
    if s.poisoned a 64 then (s, .error false)
    else UnitRes.bind (s.linePairs asid (src + 64) (dst + 64) n) (fun s r => (s, .ok ((a, b) :: r)))))

/-- The line pairs of a snapshot: from the ranges to the save areas, or back. -/
def State.snapPairs (s : State) (asid : Nat) (back : Bool) : List Nat → UnitRes (List (Nat × Nat))
  | [] => (s, .ok [])
  | e :: r =>
    let a := if back then snapSave e else snapSrc e
    let b := if back then snapSrc e else snapSave e
    UnitRes.bind (s.linePairs asid a b (snapLen e / 64)) (fun s ps =>
      UnitRes.bind (s.snapPairs asid back r) (fun s qs => (s, .ok (ps ++ qs))))

/-! ## Power (R360, R361) -/

/-- The energy class predicted for a descriptor: the table's where its entry is VALID, else ECLS. -/
def State.classOf (s : State) (d : BitVec 2048) : Nat :=
  let t := s.pkgReg 0x0018
  let e := s.memNat (fld t 51 15 * 32768 + 8 * dEkey d) 8
  if fld t 0 0 = 1 && e.testBit 3 then bits e 2 0 else dEcls d

/-- Power in units of 0.125 W: PBASE and the running instances. -/
def State.powerNow (s : State) : Nat :=
  8 * fld (s.pkgReg 0x0010) 27 16 + (s.launches.map (fun e =>
    if e.2.st = .waiting then 0 else (e.2.grid.length - e.2.ended.length) * (e.2.cls + 1))).sum

/-- BUDGET in the same units. -/
def State.budget (s : State) : Nat := 8 * fld (s.pkgReg 0x0010) 11 0

/-- The launch could not be admitted even on an idle package. -/
def State.overBudget (s : State) (d : BitVec 2048) (count : Nat) : Bool :=
  decide (s.budget < 8 * fld (s.pkgReg 0x0010) 27 16 + count * (s.classOf d + 1))

/-! ## The checks of a launch (R347) -/

/-- The tables that a descriptor names, or none where one is unreadable. -/
structure Tables where
  tpl : List (BitVec 512)
  fmts : List Nat
  doms : List Nat
  snap : List Nat
deriving DecidableEq, Repr

/-- Reads the tables of a descriptor for a grid of `count` cores. -/
def State.readTables (s : State) (d : BitVec 2048) (count : Nat) : UnitRes Tables :=
  let asid := dAsid d
  UnitRes.bind (s.unitTable asid (dTplva d) 64 (if dTplva d = 0 then 0 else 64)) (fun s tpl =>
    UnitRes.bind (s.unitTable asid (ld d 0x88 55 0) 16 (dFmtn d)) (fun s fmts =>
      UnitRes.bind (s.unitTable asid (dDomva d) 8 (if dDomva d = 0 then 0 else count)) (fun s doms =>
        UnitRes.bind (s.unitTable asid (ld d 0xB0 55 0) 32 (if dRestart d then ld d 0xB8 31 0 else 0)) (fun s snap =>
          (s, .ok { tpl := tpl.map (BitVec.ofNat 512), fmts := fmts, doms := doms, snap := snap })))))

/-- The first of reasons 2 to 7 and 11 that holds. `pay`: a reserved bit of the packet's payload is not 0. -/
def State.launchReason (s : State) (q : Nat) (d : BitVec 2048) (grid : List Nat) (t : Tables) (pay : Bool) : Option Nat :=
  let n := grid.length
  if pay || descReserved d || t.fmts.any fmtBad || t.tpl.any (fun e => tValid e && (tplCheck e).isSome) ||
      t.doms.any (fun e => bits e 63 54 != 0) || t.snap.any snapReserved then some 2
  else if n = 0 then some 3
  else if dN d 0 * dN d 1 * dN d 2 * dN d 3 ≠ n || (List.range 4).any (fun i => dN d i == 0 || dT d i == 0) then some 4
  else if 16 < dAccn d || dWin d = 0 || dOrd d = 3 ||
      t.fmts.any (fun e => decide (dWin d * 65536 < fmtOff e + 64 * fmtLines e)) then some 5
  else if domsBad grid t.doms then some 6
  else if dSup d && fld (s.pkgReg (0x0100 + 32 * q)) 3 3 = 0 then some 7
  else if s.overBudget d n then some 11
  else none

/-- The launch that a descriptor and its tables form for a queue. -/
def State.formLaunch (s : State) (q seq : Nat) (d : BitVec 2048) (grid : List Nat) (t : Tables) : Launch :=
  { queue := q, seq := seq, d := d, prio := min (dPrio d) (fld (s.pkgReg (0x0100 + 32 * q)) 2 1), grid := grid
    since := s.cycle, replay := dOrd d == 2, tpl := t.tpl, fmts := t.fmts, doms := t.doms, snap := t.snap, cls := s.classOf d }

/-- What a launch packet names: the reason of its rejection, or its launch and the lines of its snapshot; an unreadable place is reason
1. -/
def State.readLaunch (s : State) (q seq va : Nat) (pay : Bool) : UnitRes (Except Nat (Launch × List (Nat × Nat))) :=
  if va % 256 ≠ 0 then (s, .ok (.error 1))
  else UnitRes.bind (s.unitRead (Config.packetAsid q) va 256) (fun s bs =>
    let d := BitVec.ofNat 2048 (ofBytes bs)
    let grid := s.gridOf d
    if dEntry d % 8 ≠ 0 || dCtxva d % 65536 ≠ 0 then (s, .ok (.error 1))
    else UnitRes.bind (s.readTables d grid.length) (fun s t =>
      if t.snap.any snapBad then (s, .ok (.error 1))
      else UnitRes.bind (s.snapPairs (dAsid d) false t.snap) (fun s ps =>
        match s.launchReason q d grid t pay with
        | some r => (s, .ok (.error r))
        | none => (s, .ok (.ok (s.formLaunch q seq d grid t, ps))))))

/-- The launch uses a feature that is not enabled (13 R388, R395). -/
def State.featureLack (s : State) (v : Launch) : Bool :=
  (v.doms.any (fun e => [1, 2, 3].any (fun l => (domEnt e l).2.2)) && !s.feature 3) ||
  (dOrd v.d != 0 && !s.feature 4) || (dDig v.d && !s.feature 6) || (dRestart v.d && !s.feature 16)

/-- Copies lines, each as a synthetic chunk; for a launch where the copy counts in its digest (13 R388, R390). -/
def State.copyPairs (s : State) (l : Option Nat) (ps : List (Nat × Nat)) : State :=
  ps.foldl (fun s e =>
    let bs := s.mem.readN e.1 64
    match l with
    | some l => s.synthFor l e.2 bs
    | none => s.synthWrite e.2 bs) s

end Sys2Proof.Machine
end

