-- ==== Sys2Proof/Machine/Packets.lean ====
section
/-! DEFINITION. Command queues and their packets (12 R343–R347, R363–R371; 13 R396). The queue that an event concerns is
`State.cur.unit`. -/
namespace Sys2Proof.Machine

/-! ## Queue registers (R343) -/

/-- `CQ_CFG` and `CQ_PTR` of a queue. -/
def State.cqCfg (s : State) (q : Nat) : Word := s.pkgReg (0x0100 + 32 * q)
def State.cqPtr (s : State) (q : Nat) : Word := s.pkgReg (0x0108 + 32 * q)
/-- Packets in the ring. -/
def State.cqSize (s : State) (q : Nat) : Nat := 2 ^ fld (s.cqCfg q) 8 4
/-- HEAD and TAIL. -/
def State.cqHead (s : State) (q : Nat) : Nat := fld (s.cqPtr q) 31 0
def State.cqTail (s : State) (q : Nat) : Nat := fld (s.cqPtr q) 63 32
/-- The PA of the head packet. -/
def State.headPa (s : State) (q : Nat) : Nat := fld (s.cqCfg q) 51 12 * 4096 + s.cqHead q % s.cqSize q * 64
/-- The head packet, as it stands in memory. -/
def State.headPacket (s : State) (q : Nat) : BitVec 512 := BitVec.ofNat 512 (s.memNat (s.headPa q) 64)
/-- The head packet lies in a poisoned granule (10 R325). -/
def State.headPoisoned (s : State) (q : Nat) : Bool := s.poisoned (s.headPa q) 64
/-- The read of the head packet waits for a commit that is about to write it (06 R199). -/
def State.headWaits (s : State) (q : Nat) : Bool := s.grantOn (s.headPa q / 64)

/-- A host write of TAIL: it takes effect, or sets TERR. -/
def State.writeTail (s : State) (q t : Nat) : State :=
  let dist := fun (n : Nat) => (n + 2 ^ 32 - s.cqHead q) % 2 ^ 32
  if dist t ≤ s.cqSize q && dist (s.cqTail q) ≤ dist t then
    s.setPkgReg (0x0108 + 32 * q) (setFld (s.cqPtr q) 63 32 t)
  else s.setPkgReg (0x0100 + 32 * q) (setFld (s.cqCfg q) 9 9 1)

/-! ## Headers (R344, R346) -/

def pType (p : BitVec 512) : Nat := rf p 0 7 0
def pWait (p : BitVec 512) : Bool := rf p 0 8 8 == 1
def pSig (p : BitVec 512) : Bool := rf p 0 9 9 == 1
def pWevt (p : BitVec 512) : Nat := rf p 0 23 16
def pSevt (p : BitVec 512) : Nat := rf p 0 31 24
def pSeq (p : BitVec 512) : Nat := rf p 0 63 32
def pWval (p : BitVec 512) : Nat := rf p 8 63 0
/-- A payload word: offset 0x10 + 8i. -/
def pWord (p : BitVec 512) (i : Nat) : Nat := rf p (0x10 + 8 * i) 63 0

/-- The reason for which a header is rejected. -/
def headerReason (p : BitVec 512) (seq : Nat) : Option Nat :=
  if pType p = 0 || 12 < pType p then some 9
  else if rf p 0 15 10 ≠ 0 then some 2
  else if pSeq p ≠ seq then some 8
  else none

/-- The packet of a queue is complete with a record. -/
def State.packetDone (s : State) (q : Nat) (r : Cpl) : State := s.upQueue q (fun k => { k with st := .done r })
/-- It is rejected with a reason. -/
def State.reject (s : State) (q r : Nat) : State := s.packetDone q { status := 2, code := r }
/-- A cause arose. -/
def State.packetFault (s : State) (q : Nat) (c : Cause) : State := s.packetDone q { status := 1, code := c.toNat }

/-- PACKET_HEADER_CHECK: the header of the next packet is checked as soon as the previous packet has completed (R346);
one that cannot be read for a poisoned granule completes with cause 0xD2 (10 R325). -/
def execPacketHeaderCheck (s : State) : Ans :=
  let q := s.cur.unit % 64
  if (s.queue q).st ≠ .idle || fld (s.cqCfg q) 0 0 = 0 || s.cqHead q = s.cqTail q || s.headWaits q then .next s
  else
    let p := s.headPacket q
    let s := s.upQueue q (fun k => { k with st := .checked, pkt := p })
    if s.headPoisoned q then .next (s.packetFault q 0xD2)
    else match headerReason p (s.cqHead q) with
    | some r => .next (s.reject q r)
    | none => .next s

/-! ## The packets -/

/-- The payload bits that a type uses (R345; 13 R396). -/
def payUsed (t : Nat) : Nat :=
  match t with
  | 1 => 2 ^ 56 - 1
  | 4 | 6 => 2 ^ 64 - 1
  | 9 | 10 => 2 ^ 128 - 1
  | 11 => 2 ^ 16 - 1
  | 12 => 2 ^ 192 - 1
  | _ => 0

/-- A payload bit that the type leaves unused is not 0. -/
def payBad (p : BitVec 512) : Bool :=
  let v := bits p.toNat 511 128
  (v ||| payUsed (pType p)) != payUsed (pType p)

/-- The seeds of a queue changed, or a cause (R368). -/
def State.seedPacket (s : State) (q : Nat) (p : BitVec 512) : State :=
  let st := (s.queue q).seeds
  let push := fun (v : Word) => if 16 ≤ st.length then s.packetFault q 0xB3
    else (s.upQueue q (fun k => { k with seeds := v :: st })).packetDone q {}
  match pType p with
  | 4 => push (BitVec.ofNat 64 (pWord p 0))
  | 6 => push (fzr4 (st.headD 0) 0x1FFFF (BitVec.ofNat 64 (pWord p 0)))
  | _ => if st.length ≤ 1 then s.packetFault q 0xB2
    else (s.upQueue q (fun k => { k with seeds := st.drop 1 })).packetDone q {}

/-- `digest-begin` and `digest-end` (R371; 13 R395). -/
def State.digestPacket (s : State) (q : Nat) (p : BitVec 512) : State :=
  if !s.feature 6 then s.packetFault q 0x1F
  else match pType p, (s.queue q).digest with
    | 7, some _ => s.packetFault q 0xB4
    | 7, none => (s.upQueue q (fun k => { k with digest := some 0 })).packetDone q {}
    | _, d => (s.upQueue q (fun k => { k with digest := none })).packetDone q { digest := d.getD 0 }

/-- Entry i of the section of core c of an almanac, as a PA: kind 0 to read it, 1 to write it. -/
def State.almPa (s : State) (a : Nat × Nat × Nat) (c i kind : Nat) : UnitRes Nat :=
  s.unitPa (Config.packetAsid a.1) (a.2.1 + (c * a.2.2 + i) * 8) kind

/-- Writes an almanac entry, where the place can be written; it answers whether it has to wait. -/
def State.almWrite (s : State) (a : Nat × Nat × Nat) (c i v : Nat) : State × Bool :=
  match s.almPa a c i 1 with
  | (s, .ok pa) => (s.synthNat pa 8 v, false)
  | (s, .error w) => (s, w)

/-- Recording stops: an entry of 0 follows each section's last entry, where room remains (R364); it answers whether a write has to
wait. -/
def State.almStop (s : State) : State × Bool :=
  match s.almRec with
  | none => (s, false)
  | some a =>
    let r := (List.range 4096).foldl (fun (r : State × Bool) c =>
      let i := r.1.almRecPos.get c 0
      if !r.2 && decide (i < a.2.2) then r.1.almWrite a c i 0 else r) (s, false)
    if r.2 then r else ({ r.1 with almRec := none, almRecPos := [] }, false)

/-- The almanac packets (R364, R365; 13 R395). -/
def State.almPacket (s : State) (q : Nat) (p : BitVec 512) : State :=
  let va := pWord p 0
  let n := pWord p 1
  let isRec := pType p == 9
  if va ≠ 0 && (va % 64 ≠ 0 || va / 2 ^ 54 ≠ 0 || n = 0 || s.almRec.isSome || s.almBind.isSome) then s.reject q 10
  else if !s.feature 5 then s.packetFault q 0x1F
  else
    let r := match isRec, va with
      | true, 0 => s.almStop
      | true, va => ({ s with almRec := some (q, va, n), almRecPos := [] }, false)
      | false, 0 => ({ s with almBind := none, almBindPos := [] }, false)
      | false, va => ({ s with almBind := some (q, va, n), almBindPos := [] }, false)
    if r.2 then r.1 else r.1.packetDone q {}

/-- `power-budget` (R363). -/
def State.budgetPacket (s : State) (q : Nat) (p : BitVec 512) : State :=
  let v := pWord p 0
  if v < 2000 || 3200 < v then s.reject q 2
  else (s.setPkgReg 0x0010 (setFld (s.pkgReg 0x0010) 11 0 v)).packetDone q {}

/-- A feature negotiation is checked; it goes on by FEATURE_NEGOTIATION (13 R396). -/
def State.featurePacket (s : State) (q : Nat) (p : BitVec 512) : State :=
  let va := pWord p 2
  let r := s.unitPa (Config.packetAsid q) va 1
  if va ≠ 0 && va % 32 = 0 && r.waits then s
  else if va ≠ 0 && (va % 32 ≠ 0 || r.got.isNone) then s.reject q 1
  else if payBad p then s.reject q 2
  else s.upQueue q (fun k => { k with st := .negotiating (pWord p 0) va })

/-- A launch packet: its descriptor and tables are read and checked, its input snapshot is saved, and the launch waits for
cores and power (R348, R356; 13 R388). -/
def State.launchPacket (s : State) (q : Nat) (p : BitVec 512) : State :=
  match s.readLaunch q (pSeq p) (bits (pWord p 0) 55 0) (payBad p) with
  | (s, .error true) => s
  | (s, .error false) => s.reject q 1
  | (s, .ok (.error r)) => s.reject q r
  | (s, .ok (.ok (v, ps))) =>
    if s.featureLack v then s.packetFault q 0x1F
    else
      let s := s.copyPairs none ps
      let l := s.nextLaunch
      { s with launches := s.launches.put l v, nextLaunch := l + 1 }.upQueue q (fun k => { k with st := .launched l })

/-- PACKET_BEGIN: a packet whose wait is satisfied begins; its payload is read and checked (R346); one that lies in a poisoned granule by
now completes with cause 0xD2 (10 R325). -/
def execPacketBegin (s : State) : Ans :=
  let q := s.cur.unit % 64
  let h := (s.queue q).pkt
  if (s.queue q).st ≠ .checked || s.headWaits q || (pWait h && decide ((s.pkgReg (0x1000 + 8 * pWevt h)).toNat < pWval h)) then .next s
  else if s.headPoisoned q then .next (s.packetFault q 0xD2)
  else
    -- the header as it was checked, the payload as it stands now
    let p := BitVec.ofNat 512 (h.toNat % 2 ^ 128 + bits (s.headPacket q).toNat 511 128 * 2 ^ 128)
    match pType p with
    | 1 => .next (s.launchPacket q p)
    | 12 => .next (s.featurePacket q p)
    | t =>
      if payBad p then .next (s.reject q 2)
      else match t with
        | 4 | 5 | 6 => .next (s.seedPacket q p)
        | 7 | 8 => .next (s.digestPacket q p)
        | 9 | 10 => .next (s.almPacket q p)
        | 11 => .next (s.budgetPacket q p)
        | _ => .next (s.packetDone q {})

/-! ## Feature negotiation (13 R396) -/

/-- A feature negotiation waits, so no launch is placed. -/
def State.negotiating (s : State) : Bool :=
  s.queues.any (fun e => match e.2.st with | .negotiating _ _ => true | _ => false)

/-- FEATURE_NEGOTIATION: once no launch is placed or running, EN is set and the result is written. -/
def execFeatureNegotiation (s : State) : Ans :=
  let q := s.cur.unit % 64
  match (s.queue q).st with
  | .negotiating req va =>
    if s.launches.any (fun e => e.2.st != .waiting) then .next s
    else
      let go := fun (s : State) (pa : Option Nat) =>
        let s := (s.setPkgReg 0x0030 ((BitVec.ofNat 64 req ||| 1) &&& s.pkgReg 0x0020)).setPkgReg 0x0038 0
        let s := match pa with
          | some pa => s.synthNat pa 32 ((s.pkgReg 0x0020).toNat + (s.pkgReg 0x0028).toNat * 2 ^ 64 +
              (s.pkgReg 0x0030).toNat * 2 ^ 128 + (s.pkgReg 0x0038).toNat * 2 ^ 192)
          | none => s
        s.packetDone q {}
      if va = 0 then .next (go s none)
      else match s.unitPa (Config.packetAsid q) va 1 with
        | (s, .ok pa) => .next (go s (some pa))
        | (s, .error true) => .next s
        | (s, .error false) => .next (go s none)
  | _ => .next s

/-! ## Completion (R344, R347) -/

/-- The 64 bytes of a completion record. -/
def Cpl.word (r : Cpl) (seq cycle : Nat) : Nat :=
  let w0 := r.status % 4 + r.code % 256 * 2 ^ 8 + b2n r.ordFull * 2 ^ 16 + b2n r.ordDiv * 2 ^ 17 + seq % 2 ^ 32 * 2 ^ 32
  let w1 := r.inst % 2 ^ 16 + r.core % 4096 * 2 ^ 16 + r.e.thr % 32 * 2 ^ 28 + r.e.sub.toNat * 2 ^ 40
  w0 + w1 * 2 ^ 64 + fld r.e.blk 55 0 * 2 ^ 128 + (r.e.off % 64 + r.e.park % 8 * 2 ^ 8) * 2 ^ 192 +
    r.e.info.toNat * 2 ^ 256 + r.digest.toNat * 2 ^ 320 + r.energy % 2 ^ 64 * 2 ^ 384 + cycle % 2 ^ 64 * 2 ^ 448

/-- PACKET_COMPLETE: the record of a complete packet is written, its event is signalled, and HEAD advances. -/
def execPacketComplete (s : State) : Ans :=
  let q := s.cur.unit % 64
  match (s.queue q).st with
  | .done r =>
    let pa := fld (s.pkgReg (0x0110 + 32 * q)) 51 12 * 4096 + s.cqHead q % s.cqSize q * 64
    if s.synthBusy none pa then .next s
    else
      let h := (s.queue q).pkt
      let s := s.synthNat pa 64 (r.word (s.cqHead q) s.cycle)
      let s := if pSig h && r.status != 2 then
          s.setPkgReg (0x1000 + 8 * pSevt h) (s.pkgReg (0x1000 + 8 * pSevt h) + 1)
        else s
      let s := s.setPkgReg (0x0108 + 32 * q) (setFld (s.cqPtr q) 31 0 ((s.cqHead q + 1) % 2 ^ 32))
      .next (s.upQueue q (fun k => { k with st := .idle, pkt := 0 }))
  | _ => .next s

end Sys2Proof.Machine
end

