-- ==== Sys2Proof/Machine/Context.lean ====
section
/-! DEFINITION. Contexts on a core: the switch (05 R180, R183), draining and streaming (R181, R182; 07 R258; 08 R272), the
quantum (12 R358) and frames (R359). The slot that an event concerns is `State.cur.unit`. -/
namespace Sys2Proof.Machine

/-! ## Which context runs (12 R358) -/

/-- A context may run: it is ready or runs, is not parked, leaving or ending. -/
def Slot.candidate (sl : Slot) : Bool :=
  (sl.st == .ready || sl.st == .running) && !sl.leaving && sl.ctx.parked.isNone && sl.ctx.fin.isNone

/-- The slot that runs now. -/
def Core.now (k : Core) : Option Nat := if k.isRunning then some k.slotNo else none

/-- The slot that is to run: the one of higher priority; between equal ones the one a switch asks for, else the one that
runs. -/
def Core.want (k : Core) : Option Nat :=
  match k.slot0.candidate, k.slot1.candidate with
  | false, false => none
  | true, false => some 0
  | false, true => some 1
  | true, true =>
    if k.slot0.ctx.prio < k.slot1.ctx.prio then some 1
    else if k.slot1.ctx.prio < k.slot0.ctx.prio then some 0
    else match k.switchTo with
      | some 0 => some 0
      | some 1 => some 1
      | _ => some (k.now.getD 0)

/-- The cores of the gang of the context in a slot; the core alone outside a gang. -/
def State.slotGang (s : State) (c i : Nat) : List Nat :=
  match ((s.core c).slot i).ctx.arch.gang with
  | some g => (List.range (2 ^ (g.size + 1))).map (fun j => c - g.pos + j)
  | none => [c]

/-- The cores whose contexts a switch of core `c` to slot `i` concerns: those that the incoming context's gang runs on,
and the gangs of the contexts that run there (05 R180). -/
def State.switchCores (s : State) (c : Nat) (i : Option Nat) : List Nat :=
  let come := match i with | some i => s.slotGang c i | none => [c]
  (come.flatMap (fun d => d :: (if (s.core d).isRunning then s.gangCores d else []))).eraseDups

/-- The slot of core `d` that holds the context of a launch. -/
def State.gangSlot (s : State) (d : Nat) (l : Option Nat) : Option Nat := l.bind (fun l => (s.core d).slotOf l)

/-- The incoming context can run: every member of its gang is to run next on its core. -/
def State.incoming (s : State) (c i : Nat) : Bool :=
  let l := ((s.core c).slot i).ctx.launch
  (s.slotGang c i).all (fun d => (s.core d).want.isSome && (s.core d).want == s.gangSlot d l)

/-- What is to run on core `c`. -/
def State.wanted (s : State) (c : Nat) : Option Nat :=
  match (s.core c).want with
  | some i => if s.incoming c i then some i else none
  | none => none

/-! ## The switch (05 R183) -/

/-- The context that runs on a core can be switched out: its cut chunks have committed, and fewer than 64 instructions do not
remain of a chunk that has begun, which is cut early and commits first. -/
def State.canLeave (s : State) (c : Nat) : Bool :=
  let x := s.cx c
  !(s.core c).isRunning || (x.pend.isEmpty && !(decide (0 < x.chunk.retired) && decide (x.eff < x.chunk.retired + 64)))

/-- The running context of a core leaves it: its executing chunk is squashed. -/
def State.switchOut (s : State) (c : Nat) : State :=
  if !(s.core c).isRunning then s
  else
    let i := (s.core c).slotNo
    let s := s.squashOne c (s.cx c).pend.length false
    s.upCore c (fun k => k.setSlot i { k.slot i with st := if (k.slot i).leaving then .drain else .ready })

/-- A context begins to run. -/
def State.switchIn (s : State) (c i : Nat) : State :=
  s.upCore c (fun k => { k.setSlot i { k.slot i with st := .running } with runSince := s.cycle })

/-- CONTEXT_SWITCH: the scheduler asks for a switch on the acting core, or makes it at the chunk boundary. The contexts of a gang
are switched together (R180). -/
def execContextSwitch (s : State) : Ans :=
  let c := s.cur.core
  let k := s.core c
  let want := s.wanted c
  if want = k.now then .next (s.setCore c { k with switchTo := none })
  else
    let cs := s.switchCores c want
    if cs.any (fun d => (s.core d).isRunning && (s.core d).switchTo.isNone) then
      .next (cs.foldl (fun s d => (s.upCore d (fun k =>
        if k.switchTo.isNone then { k with switchTo := some (if d = c then want.getD 2 else 2) } else k)).noteCut d) s)
    else if !cs.all s.canLeave then .next s
    else
      let l := want.bind (fun i => (k.slot i).ctx.launch)
      let s := cs.foldl State.switchOut s
      let s := cs.foldl (fun s d => s.upCore d (fun k => { k with switchTo := none })) s
      match want with
      | some i => .next ((s.slotGang c i).foldl (fun s d => match s.gangSlot d l with
          | some j => s.switchIn d j
          | none => s) s)
      | none => .next s

/-- QUANTUM_EXPIRY: the running context has run for QUANTUM while another of equal priority can run (12 R358). -/
def execQuantumExpiry (s : State) : Ans :=
  let c := s.cur.core
  let k := s.core c
  let n := fld (s.pkgReg 0x0010) 47 32 * 1024
  if n = 0 || !k.isRunning || k.switchTo.isSome || s.cycle < k.runSince + n || !k.slot0.candidate || !k.slot1.candidate ||
      k.slot0.ctx.prio != k.slot1.ctx.prio then .next s
  else .next ((s.setCore c { k with switchTo := some (1 - k.slotNo) }).noteCut c)

/-! ## Draining (R182) -/

/-- No engine operation of launch `l` on core `c` is left (R171, R182; 10 R313). -/
def State.opsDone (s : State) (c l : Nat) : Bool :=
  let k := s.core c
  k.chans.all (fun ch => ch.2.open.all (fun q => q.1.launch != l) || (ch.2.st == .failed && (ch.2.cur.map (·.launch)) == some l)) &&
  k.mat.all (fun m => m.launch != l) && k.atomics.all (fun e => e.1 != l) && k.detOut.all (fun e => e.1 != l) &&
  k.tlbis.all (fun e => e.1 != l) && k.dmems.all (fun e => e.1 != l) &&
  s.gathers.all (fun e => e.2.all (fun g => g.core != c || g.launch != l)) &&
  k.feOut.all (fun r => r.launch != l) && k.feSent.all (fun r => r.launch != l) &&
  s.feList.all (fun r => r.peer.isSome || r.core != c || r.launch != l) &&
  k.bundles.all (fun b => b.launch != l) && s.netMsgs.all (fun m => m.core != c || m.launch != l)

/-- The one streaming path of a core is in use (R182). -/
def Core.streams (k : Core) : Bool :=
  [k.slot0, k.slot1].any (fun sl => sl.st == .streamin || sl.st == .streamout)

/-- DRAIN_COMPLETE: the engine operations of a draining context have completed, and stream-out begins once the path is free. -/
def execDrainComplete (s : State) : Ans :=
  let c := s.cur.core
  let i := s.cur.unit % 2
  let sl := (s.core c).slot i
  if sl.st ≠ .drain || sl.ctx.fin.isSome || (s.core c).streams || !(match sl.ctx.launch with | some l => s.opsDone c l | none => true) then .next s
  else .next (s.upCore c (fun k => k.setSlot i { k.slot i with st := .streamout }))

/-! ## Frames (12 R359) -/

/-- The size of a frame. -/
def frameSize (accn win : Nat) : Nat := (0x7000 + 4096 * accn + win * 65536 + 65535) / 65536 * 65536

/-- The frame of a context; none for a launch without frames. -/
def State.frameOf (s : State) (x : Ctx) : Option Nat :=
  match x.launch.bind s.launch with
  | some v => if dCtxva v.d = 0 then none else some (dCtxva v.d + x.inst * frameSize x.accn x.win)
  | none => none

/-- `CHK_STAT` of a context (06 R191). -/
def Ctx.chkStat (x : Ctx) : Word :=
  BitVec.ofNat 64 (x.eff % 32768 + x.reach % 4 * 2 ^ 16 + x.chunk.sq % 4 * 2 ^ 18 + x.squashes % 2 ^ 32 * 2 ^ 32)

/-- The words of an area of an image whose bits the spec does not place. -/
def imageArea (area off n : Nat) (regs : List Word) : List (Nat × Word) :=
  (List.range n).map (fun i => (off + 8 * i, Config.imageWord area regs i))

/-- Place `j` of a queue in an image, at an offset: its entry, oldest first; what a place without one holds is open (R181, log 142). -/
def imagePlace (q : List Word) (off j : Nat) : Nat × Word := (off + 8 * j, q.getD j (Config.imageWord 4 q (off + 8 * j)))

/-- The far-pending bits of a thread (01 R13). -/
def Thr.farBits (t : Thr) : Word := t.far.foldl (fun w e => w ||| (1#64 <<< e.reg)) 0

/-- What the control thread's area of an image holds (R181). -/
def Arch.ctArea (a : Arch) : List Word :=
  let t := a.trap
  (List.range 16).map (fun i => a.ct.x.get i 0) ++ [a.ct.f.zeroExtend 64, a.ct.farBits, a.ct.srnd] ++
    (List.range 13).map (fun i => a.ids.get (0x40 + i) 0) ++ [a.scaleBase] ++
    (match a.gang with
      | some g => [BitVec.ofNat 64 (1 + g.size * 2 + g.pos * 2 ^ 4 + g.lead * 2 ^ 8 + b2n g.own * 2 ^ 12)]
      | none => [0]) ++
    [BitVec.ofNat 64 (match a.gangWait with | some i => 1 + i.toNat * 2 | none => 0), t.cause, t.blk, t.off, t.info, t.vec, t.stat,
      BitVec.ofNat 64 (b2n a.sup), t.save0, t.save1]

/-- What the area of an MT holds. -/
def Mt.area (m : Mt) : List Word :=
  (List.range 16).map (fun i => m.thr.x.get i 0) ++ (List.range 8).map (fun i => (m.a.get i 0).zeroExtend 64) ++
    [m.thr.f.zeroExtend 64] ++ (List.range 4).map (fun i => (m.m.get i 0xFFFFFFFF).zeroExtend 64) ++
    (List.range 4).map (fun i => m.statRecord 0 i) ++ [m.fmtCtl, m.thr.srnd, m.bank.zeroExtend 64, BitVec.ofNat 64 m.thr.park]

/-- What the block queue and link ports of an MT hold. -/
def Mt.portArea (m : Mt) : List Word :=
  BitVec.ofNat 64 m.bq.length :: m.bq.flatMap (fun e => [BitVec.ofNat 64 (b2n e.bcast), e.addr]) ++
    [m.linkUp, m.linkDown].flatMap (fun p => match p with | some w => [1, w] | none => [0])

/-- The core part of an image (R181): queues oldest entry first. -/
def Arch.coreWords (a : Arch) : List (Nat × Word) :=
  let mts := List.range 16
  imageArea 0 0 128 a.ctArea ++
  mts.flatMap (fun i => imageArea 1 (0x400 + 256 * i) 32 (a.mt i).area) ++
  mts.flatMap (fun i => (List.range 4).flatMap (fun n => (List.range 16).map
    (imagePlace ((a.mt i).q.get n []) (0x1400 + 512 * i + 128 * n)))) ++
  mts.flatMap (fun i => (List.range 16).map (imagePlace (a.mt i).rq (0x3400 + 128 * i))) ++
  mts.flatMap (fun i => imageArea 2 (0x3C00 + 64 * i) 8 (a.mt i).portArea)

/-- The parts of an image that R181, R258 and R272 lay out, as offsets and words: 8 bytes each. -/
def Ctx.imageWords (x : Ctx) : List (Nat × Word) :=
  let a := x.arch
  a.coreWords ++ (List.range 512).map (fun i => (0x4000 + 8 * i, BitVec.ofNat 64 ((a.templates.get (i / 8) 0).toNat / 2 ^ (64 * (i % 8))))) ++
  (List.range 16).map (fun i => (0x5000 + 8 * i, BitVec.ofNat 64 (x.ctr.get i 0))) ++
  (List.range 4).flatMap (fun e => (List.range 64).map (imagePlace (x.fifos.get e []) (0x5080 + 512 * e))) ++
  imageArea 3 0x5880 4 ((List.range 4).flatMap (fun e =>
    [BitVec.ofNat 64 ((x.fifos.get e []).length - a.fifoOwed e), BitVec.ofNat 64 (x.fifoOut.get e 0 - a.fifoOwed e)])) ++
  [(0x6000, a.mcfg0), (0x6008, a.mcfg1), (0x6010, a.mcfg2), (0x6018, a.mxp), (0x6020, x.matStat),
    (0x6028, x.domId), (0x6030, x.domPhase)] ++
  (List.range 8).map (fun i => (0x6040 + 8 * i,
    BitVec.ofNat 64 (x.detSeq.get (2 * i) 0 % 2 ^ 32 + x.detSeq.get (2 * i + 1) 0 % 2 ^ 32 * 2 ^ 32))) ++
  [(0x6080, BitVec.ofNat 64 (x.detSeq.get 16 0 % 2 ^ 32))] ++
  (List.range 16).map (imagePlace x.seeds 0x6100) ++
  [(0x6180, BitVec.ofNat 64 x.seeds.length), (0x6200, a.cpyAp), (0x6208, a.shardBase), (0x6210, a.chkCtl), (0x6218, a.chkExt),
    (0x6220, x.chkStat), (0x6228, x.damStat), (0x6230, BitVec.ofNat 64 x.accn)] ++
  (List.range 128).map (fun i => (0x6400 + 8 * i,
    if i = 0x32 then x.pcsPtr else if i = 0x42 then x.trcPtr else a.dbg.get (0x300 + i) 0))

/-- Writes bytes by VA into a frame, where the place can be written; it answers whether it has to wait. -/
def State.frameWrite (s : State) (asid va : Nat) (bs : List Byte) : State × Bool :=
  match s.unitPa asid va 1 with
  | (s, .ok pa) => (s.synthWrite pa bs, false)
  | (s, .error w) => (s, w)

/-- The bytes of a frame, by offset: an image's laid-out words, its accumulator tiles and its window (12 R359). -/
def Image.frame (im : Image) : List (Nat × List Byte) :=
  let x := im.ctx
  x.imageWords.map (fun e => (e.1, toBytes 8 e.2.toNat)) ++
  (List.range (64 * x.accn)).map (fun i => (0x7000 + 64 * i, im.acc.readN (64 * i) 64)) ++
  (List.range (1024 * x.win)).map (fun i => (0x7000 + 4096 * x.accn + 64 * i, im.bytes.readN (64 * i) 64))

/-- Writes an image into its frame; it answers whether a write has to wait. -/
def State.writeFrame (s : State) (im : Image) (f : Nat) : State × Bool :=
  im.frame.foldl (fun (r : State × Bool) e => if r.2 then r else r.1.frameWrite im.ctx.asid (f + e.1) e.2) (s, false)

/-! ## Streaming (R182, R184) -/

/-- The image of a context on a core: what its window and its tiles hold. -/
def State.takeImage (s : State) (c : Nat) (x : Ctx) : Image :=
  let a := c * 2 ^ 21 + x.wb
  let t := c * 2 ^ 15 + x.wb / 64
  let n := x.win * 65536
  { core := c, ctx := x, bytes := s.vault.slice a n
    tags := (s.vtag.filter (fun (e : Nat × LineTag) => decide (t ≤ e.1) && decide (e.1 < t + n / 64))).map (fun (e : Nat × LineTag) => (e.1 - t, e.2))
    acc := s.acc.slice (c * 2 ^ 16 + x.accBase * 4096) (x.accn * 4096)
    objs := (s.objs.filter (fun o => decide (a / 16 ≤ o) && decide (o < (a + n) / 16))).map (· - a / 16) }

/-- The window and tiles of a context filled from an image, at the context's bases. -/
def State.placeImage (s : State) (c : Nat) (x : Ctx) (im : Image) : State :=
  let a := c * 2 ^ 21 + x.wb
  let t := c * 2 ^ 15 + x.wb / 64
  let n := x.win * 65536
  { s with
    vault := s.vault.paste a n im.bytes
    vtag := im.tags.foldl (fun m e => m.put (t + e.1) e.2) (s.vtag.filter (fun (e : Nat × LineTag) => !(decide (t ≤ e.1) && decide (e.1 < t + n / 64))))
    acc := s.acc.paste (c * 2 ^ 16 + x.accBase * 4096) (x.accn * 4096) im.acc
    objs := im.objs.map (· + a / 16) ++ s.objs.filter (fun o => !(decide (a / 16 ≤ o) && decide (o < (a + n) / 16))) }

/-! ## Names of lines and objects of a window that moves (R184) -/

/-- The name of a line of the window at base `wb` of launch `l` on core `c`, once that window is not resident; other lines keep
theirs. -/
def awayName (c l wb win k : Nat) : Nat :=
  if k / 2 ^ 15 = c && decide (wb / 64 ≤ k % 2 ^ 15) && decide (k % 2 ^ 15 < wb / 64 + win * 1024) then
    awayCore c l * 2 ^ 15 + (k % 2 ^ 15 - wb / 64)
  else k
/-- Its name once it is resident at base `wb`. -/
def homeName (c l wb k : Nat) : Nat := if k / 2 ^ 15 = awayCore c l then c * 2 ^ 15 + (k % 2 ^ 15 + wb / 64) else k

/-- The name of an object, by that of its line. -/
def objName (f : Nat → Nat) (o : Nat) : Nat := f (o / 4) * 4 + o % 4

/-- A wait under the new names: one for a line of a window that has moved waits for the window. -/
def Wait.renamed (f : Nat → Nat) (w : Wait) : Wait :=
  match w with
  | .barrier o n k => .barrier (objName f o) n k
  | .lateral _ line _ => if f line = line then w else .residency (line / 2 ^ 15 % 8192)
  | w => w

/-- A thread under the new names. -/
def Thr.renamed (f : Nat → Nat) (t : Thr) : Thr :=
  { t with
    stall := t.stall.map (fun q => { q with why := q.why.renamed f })
    raised := t.raised.map (fun r => if r.aux = 0 then r else { r with aux := objName f (r.aux - 1) + 1 }) }
/-- All threads. -/
def Arch.renamed (f : Nat → Nat) (a : Arch) : Arch :=
  { a with ct := a.ct.renamed f, mts := a.mts.map (fun m => (m.1, { m.2 with thr := m.2.thr.renamed f })) }
/-- A chunk: its undo log, the lines that it has read and written, and its objects. -/
def Chunk.renamed (f : Nat → Nat) (k : Chunk) : Chunk :=
  { k with
    ckpt := k.ckpt.renamed f
    undo := k.undo.map (fun u =>
      let n := f (u.core * 2 ^ 15 + u.line)
      { u with core := n / 2 ^ 15, line := n % 2 ^ 15 })
    slotR := k.slotR.map f, slotW := k.slotW.map f
    newObjs := k.newObjs.map (objName f), wakes := k.wakes.map (objName f) }
/-- A context. -/
def Ctx.renamed (f : Nat → Nat) (x : Ctx) : Ctx :=
  { x with arch := x.arch.renamed f, chunk := x.chunk.renamed f, pend := x.pend.map (Chunk.renamed f) }
/-- Every context of the package, in slots and images, and the wake messages under way. -/
def State.renamed (s : State) (f : Nat → Nat) : State :=
  { s with
    cores := s.cores.map (fun e => (e.1, { e.2 with
      slot0 := { e.2.slot0 with ctx := e.2.slot0.ctx.renamed f }
      slot1 := { e.2.slot1 with ctx := e.2.slot1.ctx.renamed f }
      wakes := e.2.wakes.map (objName f) }))
    images := s.images.map (fun im => { im with ctx := im.ctx.renamed f }) }

/-- STREAMOUT_COMPLETE: a context's image has left, and its slot is empty. The core keeps `CHK_EXT` (06 R192; 12 R348). -/
def execStreamoutComplete (s : State) : Ans :=
  let c := s.cur.core
  let i := s.cur.unit % 2
  let sl := (s.core c).slot i
  if sl.st ≠ .streamout then .next s
  else
    let empty := fun (s : State) => s.upCore c (fun k => { k.setSlot i {} with chkExt := sl.ctx.arch.chkExt })
    match sl.ctx.launch with
    | none => .next (empty s)
    | some l =>
      let x := sl.ctx
      let im := s.takeImage c x
      let go := fun (s : State) => (empty { s with images := s.images ++ [im] }).renamed (awayName c l x.wb x.win)
      match s.frameOf x with
      | none => .next (go s)
      | some f => match s.writeFrame im f with
        | (_, true) => .next s
        | (s, false) => .next (go s)

/-- The bases that a context takes in a slot: slot 0 from the bottom, slot 1 below the undo log (R184, log 12). -/
def Ctx.rebase (x : Ctx) (i : Nat) : Ctx :=
  { x with wb := if i = 0 then 0 else (31 - x.win) * 65536, accBase := if i = 0 then 0 else 16 - x.accn }

/-- The context fits beside the one in the other slot (12 R357; 08 R273). -/
def Slot.fitsBeside (sl : Slot) (accn win : Nat) : Bool :=
  sl.st == .empty || (decide (sl.ctx.accn + accn ≤ 16) && decide (sl.ctx.win + win ≤ 31))

/-- STREAMIN_COMPLETE: the image that streams into a slot, or the state of a new task instance, has arrived; or a waiting image of the
acting core begins to stream into its free slot, where the path is free. -/
def execStreaminComplete (s : State) : Ans :=
  let c := s.cur.core
  let i := s.cur.unit % 2
  let k := s.core c
  let sl := k.slot i
  match sl.st with
  | .streamin =>
    match sl.ctx.launch, s.images.findIdx? (fun im => im.core == c && im.ctx.launch == sl.ctx.launch) with
    | some l, some j =>
      let s := match s.images[j]? with | some im => s.placeImage c sl.ctx im | none => s
      let s := { s with images := s.images.eraseIdx j }
      let s := s.upCore c (fun k => k.setSlot i { k.slot i with st := if sl.leaving then .drain else .ready })
      .next ((s.renamed (homeName c l sl.ctx.wb)).netResident c l)
    | some l, none => .next ((s.upCore c (fun k => k.setSlot i { k.slot i with st := if sl.leaving then .drain else .ready })).netResident c l)
    | none, _ => .next s
  | .empty =>
    if k.resv.isSome || k.streams then .next s
    else match s.images.find? (fun im => im.core == c && ((s.core c).slotOf (im.ctx.launch.getD 0)).isNone &&
        (k.slot (1 - i)).fitsBeside im.ctx.accn im.ctx.win) with
      | some im => .next (s.setCore c (k.setSlot i { st := .streamin, ctx := im.ctx.rebase i }))
      | none => .next s
  | _ => .next s

end Sys2Proof.Machine
end

