-- ==== Sys2Proof/Machine/Control.lean ====
section
/-! DEFINITION. Predicates, selection and control transfer (03 R84–R92). -/
namespace Sys2Proof.Machine

/-! ## Predicates (03 R84, R85) -/

/-- The checks of `cmp`: exactly one of REG and IMM. -/
def cmpRules (p : Pfx) (f : FA) : Rules :=
  { reg := true, imm := true, extra := hasReg p && hasImm p, lack := !hasReg p && !hasImm p
    bad := decide (7 < f.d.toNat) || (hasReg p && regV p != 0)
    named := f.s.toNat :: (if hasReg p then [regT p] else []) }

/-- Operand b of `cmp`. -/
def State.cmpB (s : State) (p : Pfx) : Word := if hasReg p then s.x (regT p) else wordOfInt (simm p 0 0)

/-- A comparison: fd := rel xs b. -/
def State.compare (s : State) (p : Pfx) (f : FA) (rel : Word → Word → Bool) : Ans :=
  s.instr p (fun _ => cmpRules p f) (fun s => next (s.setF f.d.toNat (rel (s.x f.s.toNat) (s.cmpB p))))

/-- `cmp.eq` (03 R84). -/
def execCmpEq (p : Pfx) (f : FA) (s : State) : Ans := s.compare p f (fun a b => a == b)
/-- `cmp.ne` (03 R84). -/
def execCmpNe (p : Pfx) (f : FA) (s : State) : Ans := s.compare p f (fun a b => a != b)
/-- `cmp.lt` (03 R84). -/
def execCmpLt (p : Pfx) (f : FA) (s : State) : Ans := s.compare p f (fun a b => decide (a.toInt < b.toInt))
/-- `cmp.ge` (03 R84). -/
def execCmpGe (p : Pfx) (f : FA) (s : State) : Ans := s.compare p f (fun a b => decide (b.toInt ≤ a.toInt))
/-- `cmp.ltn` (03 R84). -/
def execCmpLtn (p : Pfx) (f : FA) (s : State) : Ans := s.compare p f (fun a b => decide (a.toNat < b.toNat))
/-- `cmp.gen` (03 R84). -/
def execCmpGen (p : Pfx) (f : FA) (s : State) : Ans := s.compare p f (fun a b => decide (b.toNat ≤ a.toNat))

/-- `sel` (03 R85). -/
def execSel (p : Pfx) (f : FA) (s : State) : Ans :=
  s.instr p (fun _ => { reg := true, lack := !hasReg p, bad := bits (regV p) 6 3 != 0,
                        named := [f.d.toNat, f.s.toNat, regT p] })
    (fun s => next (s.setX f.d.toNat (if s.f (bits (regV p) 2 0) then s.x f.s.toNat else s.x (regT p))))

/-! ## Transfers (03 R86) -/

/-- The checks of a computed target: reason 3, then alignment. -/
def State.targetCause (s : State) (t : Word) : Option Cause :=
  if (if s.atSteward then decide (2 ^ 52 ≤ t.toNat) else decide (2 ^ 56 ≤ t.toNat) || fld t 55 54 == 3) then some 0x73
  else if fld t 2 0 ≠ 0 then some 0x70 else none

/-- A transfer to `t`; a follower of a gang goes where its leader goes (05 R177). -/
def State.transfer (s : State) (t : Word) : Res :=
  if s.follows then next s
  else match s.targetCause t with
    | some c => .error (.cause c t)
    | none => .ok (s, .jump t)

/-- The target of a block offset in 8-byte units (03 R87). -/
def State.relTarget (s : State) (p : Pfx) (w b : Nat) : Word := s.thr.blk + wordOfInt (simm p w b * 8)

/-- `br` (03 R87). -/
def execBr (p : Pfx) (o : BitVec 10) (s : State) : Ans :=
  s.instr p (fun _ => { transfer := true, imm := true }) (fun s => s.transfer (s.relTarget p 10 o.toNat))
/-- `brc` (03 R88). -/
def execBrc (p : Pfx) (f : FI) (s : State) : Ans :=
  s.instr p (fun _ => { transfer := true, imm := true }) (fun s =>
    if (s.f (bits f.d.toNat 2 0) ^^ f.d.getLsbD 3) then s.transfer (s.relTarget p 6 f.i.toNat) else next s)
/-- `call` (03 R87). -/
def execCall (p : Pfx) (o : BitVec 10) (s : State) : Ans :=
  s.instr p (fun _ => { transfer := true, imm := true, named := [15] }) (fun s =>
    match s.transfer (s.relTarget p 10 o.toNat) with
    | .ok (q, fl) => .ok (q.setX 15 (nextBlock s.thr.blk s.thr.hdr), fl)
    | .error e => .error e)
/-- `loop` (03 R89). -/
def execLoop (p : Pfx) (f : FI) (s : State) : Ans :=
  s.instr p (fun _ => { transfer := true, imm := true, bad := f.d == 0, named := [f.d.toNat] }) (fun s =>
    let v := s.x f.d.toNat
    if 1 < v.toNat then
      match s.transfer (s.relTarget p 6 f.i.toNat) with
      | .ok (q, fl) => .ok (q.setX f.d.toNat (v - 1), fl)
      | .error e => .error e
    else next (s.setX f.d.toNat 0))
/-- `jmp` (03 R90). -/
def execJmp (p : Pfx) (f : FA) (s : State) : Ans :=
  s.instr p (fun _ => { transfer := true, bad := f.d != 0, named := [f.s.toNat] }) (fun s => s.transfer (s.x f.s.toNat))
/-- `ret` (03 R90). A sample taken at it is marked (`State.atRet`); no event of 13 R403 is a `ret`, so no trace record is (log 122). -/
def execRet (p : Pfx) (f : FA) (s : State) : Ans :=
  s.instr p (fun _ => { transfer := true, bad := f.d != 0, named := [f.s.toNat] }) (fun s => s.transfer (s.x f.s.toNat))
/-- `stop` (03 R91). In a gang it dissolves the gang (05 R177), when the chunk of it commits: until then a squash or a cut of one
member is one of every member (R178). -/
def execStop (p : Pfx) (f : FA) (s : State) : Ans :=
  s.instr p (fun _ => { transfer := true, bad := f.d != 0 || f.s != 0 }) (fun s =>
    let c := s.cur.core
    .ok (if s.isCt && s.inStream c then s.upCx c (fun x => { x with chunk := { x.chunk with held := x.chunk.held ++ [.split] } })
      else s, .stop))
/-- `nop` (03 R92). -/
def execNop (p : Pfx) (f : FA) (s : State) : Ans :=
  s.instr p (fun _ => { bad := f.d != 0 || f.s != 0 }) (fun s => next s)

end Sys2Proof.Machine
end

