-- ==== Sys2Proof/Machine/Place.lean ====
section
/-! DEFINITION. Placing a launch (12 R356–R365), the start of a task instance (R351, R352), and power (R360–R362). The launch
that an event concerns is `State.cur.unit`. -/
namespace Sys2Proof.Machine

/-! ## The start of a task instance (R351, R352) -/

/-- Index, origin and extent of instance g along dimension i. -/
def dimIndex (d : BitVec 2048) (g i : Nat) : Nat :=
  match i with
  | 0 => g % dN d 0
  | 1 => g / dN d 0 % dN d 1
  | 2 => g / (dN d 0 * dN d 1) % dN d 2
  | _ => g / (dN d 0 * dN d 1 * dN d 2)
def dimOrg (d : BitVec 2048) (g i : Nat) : Nat := dimIndex d g i * dT d i
def dimExt (d : BitVec 2048) (g i : Nat) : Nat := min (dT d i) (dE d i - dimOrg d g i)

/-- The identity registers of instance g on core c (05 R157). -/
def State.idRegs (s : State) (v : Launch) (g c : Nat) : FMap Word :=
  let i := coreIdx c
  [(0x40, BitVec.ofNat 64 (i + i / 16 * 2 ^ 8 + i % 16 * 2 ^ 12 + c % 4096 * 2 ^ 16)),
    (0x41, BitVec.ofNat 64 (c / 256 % 4)), (0x42, BitVec.ofNat 64 (dieOf c)),
    (0x43, BitVec.ofNat 64 (fld (s.pkgReg 0xC800) 9 0))] ++
  (List.range 4).map (fun j => (0x44 + j, BitVec.ofNat 64 (dimOrg v.d g j))) ++
  (List.range 4).map (fun j => (0x48 + j, BitVec.ofNat 64 (dimExt v.d g j))) ++
  [(0x4C, BitVec.ofNat 64 (g % 65536 + v.grid.length * 65536))]

/-- The context of a new task instance: every register at its Start value, and those that the launch unit writes. `ext` is the
core's `CHK_EXT`. -/
def State.newCtx (s : State) (l : Nat) (v : Launch) (g c : Nat) (ext : Word) : Ctx :=
  let d := v.d
  let a : Arch := {
    ct := { phase := .entry (BitVec.ofNat 64 (dEntry d)) }
    scaleBase := BitVec.ofNat 64 (ld d 0x60 20 6 * 64)
    ids := s.idRegs v g c
    trap := { vec := BitVec.ofNat 64 (ld d 0x70 55 3 * 8) }
    sup := dSup d
    chkExt := if dExtva d = 0 then ext else BitVec.ofNat 64 (1 + bits (dExtva d + g * 2 ^ 20) 55 20 * 2 ^ 20)
    cpyAp := BitVec.ofNat 64 (ld d 0x68 0 0 + ld d 0x68 55 12 * 4096)
    shardBase := BitVec.ofNat 64 (ld d 0x78 55 14 * 16384)
    templates := (v.tpl.zipIdx.filter (fun e => e.1 != 0)).map (fun e => (e.2, e.1)) }
  { launch := some l, inst := g, asid := dAsid d, prio := v.prio, win := dWin d, accn := dAccn d, arch := a
    chunk := { ckpt := a }, seeds := (s.queue v.queue).seeds, started := s.cycle }

/-- Sets the tags of lines of a window. -/
def State.setTags (s : State) (c line : Nat) (t : LineTag) : Nat → State
  | 0 => s
  | n + 1 => (s.setLineTag c line t).setTags c (line + 1) t n

/-- The window and the tiles of a new context: their bytes are undefined, every line is raw with SP 0, and the `.fmt` entries
are applied (R352; 01 R24; 08 R273). -/
def State.newWindow (s : State) (c : Nat) (x : Ctx) (fmts : List Nat) : State :=
  let a := c * 2 ^ 21 + x.wb
  let t := c * 2 ^ 15 + x.wb / 64
  let n := x.win * 65536
  let free := fun (k i : Nat) => Config.freeByte ((s.tick * 8192 + c * 2 + k) * 2 ^ 21 + i)
  let s := { s with
    vault := s.vault.fill a n (free 0)
    acc := s.acc.fill (c * 2 ^ 16 + x.accBase * 4096) (x.accn * 4096) (free 1)
    vtag := s.vtag.filter (fun (e : Nat × LineTag) => !(decide (t ≤ e.1) && decide (e.1 < t + n / 64)))
    objs := s.objs.filter (fun o => !(decide (a / 16 ≤ o) && decide (o < (a + n) / 16))) }
  fmts.foldl (fun s e => s.setTags c ((x.wb + fmtOff e) / 64) (fmtTag e) (fmtLines e)) s

/-- Instance g joins the domains that its entry names; DOM_ID, DOM_PHASE and DAM_STAT are written. -/
def State.joinAll (s : State) (c l : Nat) (e : Nat) : State :=
  [1, 2, 3].foldl (fun s lvl =>
    let q := domEnt e lvl
    if !q.2.1 then s
    else match s.launchCx c l with
      | some x => s.changeDom c l lvl x (BitVec.ofNat 64 (q.1 + 2 ^ 16 + b2n q.2.2 * 2 ^ 17))
      | none => s) s

/-- The next entry of a core's bound section; none where nothing binds it (R365). -/
def State.almNext (s : State) (c i : Nat) : Option Nat :=
  match s.almBind with
  | none => none
  | some a =>
    if a.2.2 ≤ i then none
    else match (s.almPa a c i 0).got with
      | some pa => if (s.memNat pa 8).testBit 63 then some (s.memNat pa 8 % 2 ^ 54) else none
      | none => none

/-- An access to the almanacs at a dispatch on one of a launch's cores has to wait (06 R199, R207). -/
def State.almWaits (s : State) (v : Launch) : Bool :=
  v.grid.any (fun c =>
    (match s.almRec with | some a => (s.almPa a c (s.almRecPos.get c 0) 1).waits | none => false) ||
    (match s.almBind with | some a => (s.almPa a c (s.almBindPos.get c 0) 0).waits | none => false))

/-- Records a dispatch in the almanac (R364). -/
def State.almRecord (s : State) (v : Launch) (g c : Nat) : State :=
  match s.almRec with
  | none => s
  | some a =>
    let i := s.almRecPos.get c 0
    if a.2.2 ≤ i then s
    else { (s.almWrite a c i (v.queue % 64 + v.seq % 2 ^ 32 * 2 ^ 6 + g % 65536 * 2 ^ 38 + 2 ^ 63)).1 with
      almRecPos := s.almRecPos.put c (i + 1) }

/-- A dispatch on core c moves its bound section on; one that finds the section's end leaves it ended (R365). -/
def State.almMove (s : State) (c : Nat) : State :=
  match s.almBind with
  | none => s
  | some a => match s.almNext c (s.almBindPos.get c 0) with
    | some _ => { s with almBindPos := s.almBindPos.put c (s.almBindPos.get c 0 + 1) }
    | none => { s with almBindPos := s.almBindPos.put c a.2.2 }

/-- Task instance g of a launch begins to stream into the slot of its core that is reserved for it (05 R182). -/
def State.startInstance (s : State) (l : Nat) (v : Launch) (g c : Nat) : State :=
  let k := s.core c
  let i := if k.slot0.st = .empty then 0 else 1
  let x := (s.newCtx l v g c k.chkExt).rebase i
  let s := s.setCore c { k.setSlot i { st := .streamin, ctx := x } with resv := none }
  let s := s.newWindow c x v.fmts
  let s := s.joinAll c l (v.doms.getD g 0)
  (s.almRecord v g c).almMove c

/-! ## Room on a core (R357) -/

/-- A slot counts as free if it is empty or in `drop`. -/
def Core.freeSlot (k : Core) (drop : List Nat) (i : Nat) : Bool := (k.slot i).st == .empty || drop.contains i

/-- With the slots of `drop` freed, the core can take a context. -/
def Core.takes (k : Core) (drop : List Nat) (accn win : Nat) : Bool :=
  let kept := ([0, 1].filter (fun i => !k.freeSlot drop i)).map (fun i => (k.slot i).ctx)
  (k.freeSlot drop 0 || k.freeSlot drop 1) && decide ((kept.map (·.accn)).sum + accn ≤ 16) &&
    decide ((kept.map (·.win)).sum + win ≤ 31)

/-- The context in a slot may be displaced by priority p: it is of lower priority and has a frame. -/
def State.displaceable (s : State) (c i p : Nat) : Bool :=
  let sl := (s.core c).slot i
  (sl.st == .ready || sl.st == .running || sl.st == .streamin) && decide (sl.ctx.prio < p) && sl.ctx.fin.isNone &&
    (s.frameOf sl.ctx).isSome

/-- The slots of a core to be freed for a context; none where it cannot be taken. -/
def State.roomFor (s : State) (c l p accn win : Nat) : Option (List Nat) :=
  let k := s.core c
  if !s.usable c || (k.resv.isSome && k.resv != some l) then none
  else [[], [0], [1], [0, 1]].find? (fun drop => k.takes drop accn win && drop.all (fun i => s.displaceable c i p))

/-- The entry of an instance. -/
def almName (v : Launch) (g : Nat) : Nat := v.queue % 64 + v.seq % 2 ^ 32 * 2 ^ 6 + g % 65536 * 2 ^ 38

/-- An entry at or after place i of a core's section is `e`. -/
def State.almHas (s : State) (c e : Nat) : Nat → Nat → Bool
  | 0, _ => false
  | n + 1, i => match s.almNext c i with
    | none => false
    | some x => x == e || s.almHas c e n (i + 1)

/-- The almanac lets instance g start on its core now. -/
def State.almOk (s : State) (v : Launch) (g c : Nat) : Bool :=
  match s.almNext c (s.almBindPos.get c 0) with
  | some x => x == almName v g
  | none => true

/-- It lets every instance of a launch start. -/
def State.almAllows (s : State) (v : Launch) : Bool := v.grid.zipIdx.all (fun e => s.almOk v e.2 e.1)

/-- An instance differs from the bound almanac: cause 0xB1. -/
def State.almDiffers (s : State) (v : Launch) : Bool :=
  match s.almBind with
  | none => false
  | some a => (v.grid.zipIdx).any (fun e =>
      let i := s.almBindPos.get e.1 0
      (s.almNext e.1 i).isSome && !s.almHas e.1 (almName v e.2) (a.2.2 - i) i)

/-! ## Placement (R356, R357, R361) -/

/-- Starts every instance of a launch. -/
def State.startLaunch (s : State) (l : Nat) (v : Launch) : State :=
  let s := v.grid.zipIdx.foldl (fun s e => s.startInstance l v e.2 e.1) s
  { s with tick := s.tick + 1, served := v.queue }.upLaunch l (fun v => { v with st := .placed, passed := none, blocking := false })

/-- A context is chosen for stream-out, with those of its gang. -/
def State.displace (s : State) (c i : Nat) : State :=
  let l := ((s.core c).slot i).ctx.launch
  (s.slotGang c i).foldl (fun s d => match s.gangSlot d l with
    | some j => s.upCore d (fun k => k.setSlot j { k.slot j with leaving := true, st := if (k.slot j).st = .ready then .drain else (k.slot j).st })
    | none => s) s

/-- Reserves every core of a launch's grid and displaces what stands in the way. -/
def State.reserve (s : State) (l : Nat) (v : Launch) : State :=
  let s := v.grid.foldl (fun s c =>
    let drop := (s.roomFor c l v.prio (dAccn v.d) (dWin v.d)).getD []
    (drop.foldl (fun s i => s.displace c i) s).upCore c (fun k => { k with resv := some l })) s
  s.upLaunch l (fun v => { v with st := .reserved })

/-- Every core of the grid can take the launch's context now, over its free streaming path (05 R182). -/
def State.allFree (s : State) (l : Nat) (v : Launch) : Bool :=
  v.grid.all (fun c => s.roomFor c l v.prio (dAccn v.d) (dWin v.d) == some [] && !(s.core c).streams)

/-- Every core of the grid can take it, now or after stream-outs, and the gangs of what leaves can leave whole. -/
def State.allRoom (s : State) (l : Nat) (v : Launch) : Bool :=
  v.grid.all (fun c => match s.roomFor c l v.prio (dAccn v.d) (dWin v.d) with
    | some drop => drop.all (fun i => (s.slotGang c i).all (fun d => match s.gangSlot d ((s.core c).slot i).ctx.launch with
        | some j => s.displaceable d j v.prio
        | none => true))
    | none => false)

/-- Every position of a grid's rows and columns is usable in a cluster. -/
def State.clusterUsable (s : State) (d : BitVec 2048) (cl : Nat) : Bool :=
  (List.range 256).all (fun i =>
    !((ld d 0x10 23 8).testBit (i / 16) && (ld d 0x10 39 24).testBit (i % 16)) || s.usable (cl * 256 + i))

/-- The grid of a restart: each cluster with a core that is mapped out is replaced (R391). -/
def State.relocate (s : State) (d : BitVec 2048) : List Nat → List Nat → Option (List Nat)
  | grid, [] => some grid
  | grid, cl :: r =>
    match (List.range 16).find? (fun n => !grid.any (fun c => clusterOf c == n) && s.clusterUsable d n) with
    | some n => s.relocate d (grid.map (fun c => if clusterOf c = cl then n * 256 + coreIdx c else c)) r
    | none => none

/-- The clusters of a grid that hold a core which is mapped out. -/
def State.lostClusters (s : State) (grid : List Nat) : List Nat := ((grid.filter (fun c => !s.usable c)).map clusterOf).eraseDups

/-- The failing instance of a completion record: the lowest-numbered one. -/
def Launch.failing (v : Launch) : Option (Nat × Ending) :=
  match v.last with
  | some q => some q
  | none => (v.ended.filterMap (fun q => q.2.map (fun e => (q.1, e)))).foldl (fun a q => match a with
      | some p => if q.1 < p.1 then some q else some p
      | none => some q) none

/-- The completion record of a launch (R347). -/
def Launch.record (v : Launch) : Cpl :=
  let r : Cpl := { ordFull := v.ordFull, ordDiv := v.ordDiv, digest := if dDig v.d then v.digest else 0, energy := v.energy }
  match v.failing with
  | some (g, e) => { r with status := 1, code := e.code.toNat, inst := g, core := v.grid.getD g 0, e := e }
  | none => r

/-- A launch ends before any of its instances has started. -/
def State.dropLaunch (s : State) (l : Nat) (v : Launch) (r : Cpl) : State :=
  { s with launches := s.launches.del l }.packetDone v.queue r

/-- A core of the grid is no longer usable: the grid is formed again, and the launch is rejected (R350; log 27). -/
def State.gridLost (s : State) (v : Launch) : Option Nat :=
  if v.grid.all s.usable then none else if (s.gridOf v.d).isEmpty then some 3 else some 4

/-- A waiting launch has lost a core of its grid: it is rejected, or, after a restart, relocated once more; without a replacement cluster
it completes with the cause that started the restart (R350; 13 R391; log 27). -/
def State.gridGone (s : State) (l : Nat) (v : Launch) (r : Nat) : State :=
  if v.restarts = 0 then s.dropLaunch l v { status := 2, code := r }
  else match s.relocate v.d v.grid (s.lostClusters v.grid) with
    | some grid => s.upLaunch l (fun v => { v with grid := grid })
    | none => s.dropLaunch l v ({ v with last := v.why }).record

/-- What becomes of a waiting launch when the scheduler considers it: ended, placed, reserved, or passed over. -/
def State.consider (s : State) (l : Nat) (v : Launch) : State × Bool :=
  match s.gridLost v with
  | some r => (s.gridGone l v r, true)
  | none =>
    if s.overBudget v.d v.grid.length then (s.dropLaunch l v { status := 2, code := 11 }, true)
    else if s.almWaits v then (s, false)
    else if s.almDiffers v then (s.dropLaunch l v { status := 1, code := 0xB1 }, true)
    else
      let v := { v with cls := s.classOf v.d }
      let s := s.upLaunch l (fun q => { q with cls := v.cls })
      let power := decide (s.powerNow + v.grid.length * (v.cls + 1) ≤ s.budget)
      -- a launch that only the almanac holds has not been passed over for power or cores (R361, R365)
      if !power || !s.allRoom l v then (s.upLaunch l (fun v => { v with passed := some (v.passed.getD s.cycle) }), false)
      else if !s.almAllows v then (s.upLaunch l (fun v => { v with passed := none, blocking := false }), false)
      else if s.allFree l v then (s.startLaunch l v, true)
      else (s.reserve l v, true)

/-- Waiting launches in the scheduler's order: by priority, aged ones one higher, then round-robin by queue (R356). -/
def State.readyLaunches (s : State) : List (Nat × Launch) :=
  let key := fun (e : Nat × Launch) => (3 - min 3 (e.2.prio + b2n e.2.aged)) * 64 + (e.2.queue + 63 - s.served) % 64
  (s.launches.filter (fun e => e.2.st == .waiting)).mergeSort (fun a b => decide (key a ≤ key b))

/-- Considers launches in order until one is placed or ended. -/
def State.considerAll (s : State) : List (Nat × Launch) → State
  | [] => s
  | e :: r =>
    match s.consider e.1 e.2 with
    | (s, true) => s
    | (s, false) => s.considerAll r

/-- A reserved launch can no longer start as it was reserved: a core of its grid is gone, or the almanac that is bound by now does not
let its instances start (R350, R365). -/
def State.reserveStale (s : State) (v : Launch) : Bool :=
  v.st == .reserved && ((s.gridLost v).isSome || (!s.almWaits v && !s.almAllows v))

/-- A launch gives its reserved cores up and waits again. -/
def State.unreserve (s : State) (l : Nat) (v : Launch) : State :=
  (v.grid.foldl (fun s c => s.upCore c (fun k => { k with resv := if k.resv = some l then none else k.resv })) s).upLaunch l
    (fun v => { v with st := .waiting })

/-- LAUNCH_PLACE: the scheduler starts a launch whose reserved cores are free, or considers the ready launches in order; while power is
above the budget, neither (R361). A reservation that no longer stands is given up first. -/
def execLaunchPlace (s : State) : Ans :=
  if s.powerHold then .next s
  else if let some e := s.launches.find? (fun e => s.reserveStale e.2) then
    .next ((s.unreserve e.1 e.2).consider e.1 { e.2 with st := .waiting }).1
  else match s.launches.find? (fun e => e.2.st == .reserved && s.allFree e.1 e.2 && !s.almWaits e.2 && s.almAllows e.2) with
  | some e => .next (s.startLaunch e.1 e.2)
  | none =>
    if s.negotiating then .next s
    else
      let es := s.readyLaunches
      .next (s.considerAll (if es.any (fun e => e.2.blocking) then es.filter (fun e => e.2.blocking) else es))

/-- LAUNCH_AGING: a launch has waited 2^20 cycles. -/
def execLaunchAging (s : State) : Ans :=
  .next (s.upLaunch s.cur.unit (fun v => if v.st = .waiting && decide (v.since + 2 ^ 20 ≤ s.cycle) then { v with aged := true } else v))

/-- PASSED_OVER_LIMIT: a launch has been passed over for 2^22 cycles; no other launch is placed before it (R361). -/
def execPassedOverLimit (s : State) : Ans :=
  .next (s.upLaunch s.cur.unit (fun v => match v.passed with
    | some t => if v.st = .waiting && decide (t + 2 ^ 22 ≤ s.cycle) then { v with blocking := true } else v
    | none => v))

/-- POWER_AVERAGE_CHECK: the package power measured over 10 ms, in W: above BUDGET no launch is placed until it falls below (R361). -/
def execPowerAverageCheck (avg : Nat) (s : State) : Ans :=
  let b := fld (s.pkgReg 0x0010) 11 0
  .next { s with powerHold := decide (b < avg) || (s.powerHold && avg == b) }

/-- THERMAL_THROTTLING: a cluster's matrix slices begin or cease to skip issue cycles; only time changes (R362). -/
def execThermalThrottling (on : Bool) (s : State) : Ans :=
  let cl := clusterOf s.cur.core
  let rest := s.throttled.filter (· != cl)
  .next { s with throttled := if on then cl :: rest else rest }

/-! ## The torus (12 R338, R340) -/

/-- TORUS_MESSAGE_DELIVER: a flit arrives at its destination; the receiver puts its payload at its place SEQ in its message. What
the messages do stands in their own steps (log 22). -/
def execTorusMessageDeliver (v : Nat) (s : State) : Ans :=
  let key := bits v 9 0 * 2 ^ 18 + bits v 19 10 * 2 ^ 8 + bits v 39 32
  .next { s with flits := s.flits.put key ((s.flits.get key []).put (bits v 47 40) (bits v 255 48)) }

end Sys2Proof.Machine
end

