-- ==== Sys2Proof/Machine/Ending.lean ====
section
/-! DEFINITION. The end of a task instance (05 R171; 09 R302), of a launch (12 R354, R360), restarts (13 R388–R391) and the end
of replay (R404). -/
namespace Sys2Proof.Machine

/-! ## How an instance ends (R171) -/

/-- Everything of an instance that has stopped or ended has committed. -/
def Ctx.committed (x : Ctx) : Bool :=
  x.pend.isEmpty && !x.taking && (x.fin.isSome || (x.chunk.retired == 0 && x.chunk.held.isEmpty))

/-- The ending of an instance whose CT has stopped: cause 0xAC, where an MT is faulted or halted. -/
def Arch.stopEnding (a : Arch) : Option Ending :=
  (List.range 16).findSome? (fun i =>
    let m := a.mt i
    if m.thr.phase = .faulted || m.thr.phase = .halted then
      some { code := 0xAC, sub := m.cause, thr := i, blk := m.trapBlk, off := m.trapOff, park := m.trapPark, info := m.trapInfo }
    else none)

/-- How the instance ended: an ending with code 0 is that of a restart. -/
def Ctx.ending (x : Ctx) : Option Ending :=
  match x.fin with
  | some e => if e.code = 0 then none else some e
  | none => x.arch.stopEnding

/-- The failed channels of a launch become idle, and their waiting copies are dropped (07 R243). -/
def Chan.clearFailed (ch : Chan) (l : Nat) : Chan :=
  if ch.st = .failed && (ch.cur.map (·.launch)) = some l then
    { ch with st := .idle, cur := none, waiting := ch.waiting.filter (fun q => q.launch != l), buf := [], done := [] }.start
  else ch

/-- Every channel of a core for a launch that leaves; a waiting copy of another launch starts (R243; 13 R403). -/
def State.clearChans (s : State) (c l : Nat) : State :=
  (s.core c).chans.foldl (fun s e =>
    let ch := e.2.clearFailed l
    let s := s.upCore c (fun k => { k with chans := k.chans.put e.1 ch })
    match e.2.st, ch.st, ch.cur with
    | .failed, .active, some q => s.emit c q.launch 1 0x02 16 e.1 (BitVec.ofNat 64 q.dst)
    | _, _, _ => s) s

/-! ## Energy (12 R360) -/

/-- The class of an instance that used e µJ in t cycles of 2.5 GHz. -/
def energyClass (e t : Nat) : Nat :=
  let p := (e * 20000 + max 1 t - 1) / max 1 t
  min 7 (p - 1)

/-! ## Restarts (13 R390, R391) -/

/-- The cause restarts a restartable launch. -/
def restartCause (k : Cause) : Bool :=
  let n := k.toNat
  (decide (0xC0 ≤ n) && decide (n < 0xE0) && decide (2 ≤ n % 4)) || [0x82, 0x8A, 0x92, 0x9A, 0xB7].contains n

/-- What the end of a task instance settles: it leaves its domains and the network engine, and its ending and energy enter its launch
(09 R302; 12 R354, R360). -/
def State.settleEnd (s : State) (c l : Nat) (x : Ctx) (e : Option Ending) : State :=
  let s := (s.leaveAll c l).netEnd c l
  let en := Config.energy s.tick
  { s with tick := s.tick + 1 }.upLaunch l (fun v => { v with
    ended := v.ended ++ [(x.inst, e)]
    energy := v.energy + en
    used := max v.used (energyClass en (s.cycle - x.started)) })

/-- An instance whose context is an image ends: nothing of it is in a slot, and the image is dropped. -/
def State.endImage (s : State) (c l : Nat) (x : Ctx) (e : Option Ending) : State :=
  let s := s.settleEnd c l x e
  { s with images := s.images.filter (fun im => !(im.core == c && im.ctx.launch == some l)) }

/-- The other instances of a launch that restarts end (R390 step 1). -/
def State.endOthers (s : State) (l : Nat) (v : Launch) : State :=
  v.grid.zipIdx.foldl (fun s e =>
    match (s.core e.1).slotOf l with
    | some _ => s.endInstance e.1 l {}
    | none => match s.images.find? (fun im => im.core == e.1 && im.ctx.launch == some l) with
      | some im => s.endImage e.1 l im.ctx none
      | none => s) s

/-- An instance has ended with a cause: a restart is due, or the fourth qualifying cause stands. -/
def State.noteFailure (s : State) (l g : Nat) (e : Ending) : State :=
  match s.launch l with
  | none => s
  | some v =>
    if !dRestart v.d || !restartCause e.code || v.again.isSome || v.last.isSome then s
    else if 3 ≤ v.restarts then s.upLaunch l (fun v => { v with last := some (g, e) })
    else (s.upLaunch l (fun v => { v with again := some (g, e) })).endOthers l v

/-- A launch restarts: the save areas are copied back, the error log receives a record, and the launch waits to be placed again,
relocated; without a replacement cluster it completes with the cause (R390, R391). While a line of the copy has to wait, nothing is done
yet. -/
def State.restart (s : State) (l : Nat) (v : Launch) (g : Nat) (e : Ending) : State :=
  let go := fun (s : State) =>
    match s.relocate v.d v.grid (s.lostClusters v.grid) with
    | none => s.upLaunch l (fun v => { v with again := none, last := some (g, e) })
    | some grid =>
      let c := v.grid.getD g 0
      let s := s.logErr { die := dieOf c, cause := e.code, restart := true, core := c, inst := g, lseq := v.seq }
      s.upLaunch l (fun v => { v with
        grid := grid, st := .waiting, since := s.cycle, passed := none, aged := false, blocking := false, ended := []
        restarts := v.restarts + 1, again := none, why := some (g, e)
        ordPos := 0, replay := dOrd v.d == 2, ordFull := false, ordDiv := false })
  match s.snapPairs (dAsid v.d) true v.snap with
  | (s, .error true) => s
  | (s, .error false) => go s
  | (s, .ok ps) => go (s.copyPairs (some l) ps)

/-! ## The end of a launch (12 R354) -/

/-- Every task instance has ended, and every deterministic update of the launch is applied. -/
def State.launchOver (s : State) (l : Nat) (v : Launch) : Bool :=
  v.st == .placed && v.ended.length == v.grid.length && s.dets.all (fun h => h.held.all (fun q => q.2.launch != l)) &&
    s.cores.all (fun e => e.2.detOut.all (fun q => q.1 != l))

/-- The place of a launch's class in the energy table (R360). -/
def State.classPa (s : State) (v : Launch) : Nat := fld (s.pkgReg 0x0018) 51 15 * 32768 + 8 * dEkey v.d

/-- The launch's measured class enters the energy table (R360). -/
def State.noteClass (s : State) (v : Launch) : State :=
  if fld (s.pkgReg 0x0018) 0 0 = 0 then s
  else
    let pa := s.classPa v
    s.synthNat pa 8 (v.used + 8 + (bits (s.memNat pa 8) 63 32 + 1) % 2 ^ 32 * 2 ^ 32)

/-- LAUNCH_COMPLETE: a launch is over. It restarts where that is due; otherwise its packet is complete. -/
def execLaunchComplete (s : State) : Ans :=
  let l := s.cur.unit
  match s.launch l with
  | none => .next s
  | some v =>
    if !s.launchOver l v then .next s
    else match v.again with
      | some (g, e) => .next (s.restart l v g e)
      | none =>
        if fld (s.pkgReg 0x0018) 0 0 = 1 && s.synthBusy none (s.classPa v) then .next s
        else
        let s := s.noteClass v
        .next ({ s with launches := s.launches.del l }.packetDone v.queue v.record)

/-! ## The end of a task instance -/

/-- The window at base `wb` of launch `l` on core `c` ceases to exist: what other chunks have logged or noted of its lines concerns no
window any more, and its objects are gone (05 R184). -/
def State.dropWindow (s : State) (c l wb win : Nat) : State :=
  let a := c * 2 ^ 17 + wb / 16
  ({ s with objs := s.objs.filter (fun o => decide (o < a) || decide (a + win * 4096 ≤ o)) } : State).renamed (awayName c l wb win)

/-- The context in slot i of core c leaves as its instance ends. -/
def State.leaveCore (s : State) (c i l : Nat) : State :=
  let x := ((s.core c).slot i).ctx
  ((s.clearChans c l).dropWindow c l x.wb x.win).upCore c (fun k =>
    let ext := (k.slot i).ctx.arch.chkExt
    let k := k.setSlot i { st := .drain }
    { k with
      chkExt := ext
      phaseEnds := k.phaseEnds.filter (fun e => e.1 != l) })

/-- The instance in slot i of core c ends. -/
def State.finishInstance (s : State) (c i l : Nat) (x : Ctx) : State :=
  let e := x.ending
  let s := (s.settleEnd c l x e).leaveCore c i l
  let s := match e with
    | some e => s.noteFailure l x.inst e
    | none => s
  let r := s.replayNext l
  ((r.1.replayCheck l (r.got.getD none)).retest)

/-- TASK_INSTANCE_END: the instance in the slot ends once its threads have stopped, its chunks have committed and its engine
operations have completed; one that ends by a cause drains first (R171, R182). It leaves a domain as soon as its bound copies are
complete or discarded (09 R302). -/
def execTaskInstanceEnd (s : State) : Ans :=
  let c := s.cur.core
  let i := s.cur.unit % 2
  let sl := (s.core c).slot i
  let x := sl.ctx
  match x.launch with
  | none => .next s
  | some l =>
    if !(sl.st == .running || sl.st == .ready || sl.st == .drain) || !x.committed then .next s
    else if x.fin.isSome && sl.st != .drain then
      let s := s.dropGathers c l
      .next ((s.netEnd c l).upCore c (fun k => k.setSlot i { k.slot i with st := .drain, leaving := false }))
    else if x.fin.isNone && !x.arch.settled then .next s
    else if !s.opsDone c l then .next (s.leaveAll c l)
    else
      let s := s.finishInstance c i l x
      match s.launch l with
      | some v => match v.again with
        | some (g, e) => if s.launchOver l v then .next (s.restart l v g e) else .next s
        | none => .next s
      | none => .next s

/-! ## Replay (13 R404) -/

/-- REPLAY_HOLD_TIMEOUT: the acting core's request has been held for 2^24 cycles; its launch leaves replay. -/
def execReplayHoldTimeout (s : State) : Ans :=
  let c := s.cur.core
  let l := s.launchNo c
  match (s.cx c).pend with
  | k :: _ =>
    match k.st with
    | .requested _ t => match s.replayNext l with
      | (s, .ok named) =>
        if s.replays l && s.replayHolds c named && decide (t + 2 ^ 24 ≤ s.cycle) then
          .next (s.upLaunch l (fun v => { v with replay := false, ordDiv := true })).retest
        else .next s
      | (s, .error _) => .next s
    | _ => .next s
  | [] => .next s

end Sys2Proof.Machine
end

