-- ==== Sys2Proof/Machine/Errors.lean ====
section
/-! DEFINITION. Errors, self-tests, mapping out (13 R380–R387), and start-up (R392–R394). Errors and the results of tests come
from outside the model (log 18); an event's number holds their fields. -/
namespace Sys2Proof.Machine

/-! ## Grading (R380) -/

/-- Fields of a detected error: structure v[2:0]; whether it is correctable v[3]; the row of the structure in the table of R380,
from 0, v[5:4] (for structure 1, rows 1 and 2 are clean and dirty committed lines, row 3 the instruction cache; for structure 4,
row 1 is a base-die slice; for structure 5, the engine: 0 copy, 1 gather, 2 matrix, 3 network; for structure 6, row 1 is a CXL device's
error on a write-back (14 R427); for structure 7, row 1 is the package reeve or the launch unit); found in a committing chunk v[6];
the slot of its context v[7]; the number of its unit v[15:8]; LOC v[79:16]; the code of a granule's size v[81:80]; the code of a
unit outside the cores among R393's units v[93:82]. For structure 7, the contexts whose state it held follow from bit 128, 24 bits
each until one with bit 0 = 0: core 12:1, place 20:13 (0 and 1 the slots, 2 + j image number j of the core). -/
def errStruct (v : Nat) : Nat := bits v 2 0
def errRow (v : Nat) : Nat := bits v 5 4
def errUnit (v : Nat) : Nat := bits v 15 8
def errLoc (v : Nat) : Nat := bits v 79 16
def errCode (v : Nat) : Nat := bits v 93 82

/-- The severity of an error. -/
def errSeverity (v : Nat) : Nat :=
  match errStruct v, errRow v with
  | 0, 0 => 1
  | 1, 0 => 1
  | 1, 1 => 0
  | 1, 3 => 0
  | _, _ => if bit v 3 then 0 else 2

/-- The cause of a structure and severity (06 R226). -/
def errCause (st sev : Nat) : Cause := BitVec.ofNat 8 (0xC0 + 4 * st + sev)

/-- The die that writes the record: the one that holds the unit; die 0 for the package reeve and the launch unit (R386). -/
def errDie (c v : Nat) : Nat :=
  match errStruct v, errRow v with
  | 4, 0 => bits (errLoc v) 49 48
  | 7, 1 => 0
  | _, _ => dieOf c

/-- Bytes of a granule (10 R323). -/
def granBytes (g : Nat) : Nat := match g with | 0 => 32 | 1 => 64 | 2 => 256 | _ => 1024

/-- Poisons a granule (10 R325). -/
def State.poisonGranule (s : State) (pa g : Nat) : State :=
  let n := granBytes g
  { s with poison := (pa / n * n, n) :: s.poison.filter (fun q => q != (pa / n * n, n)) }

/-- Schedules the scrub write of a corrected granule in the table of a channel, die × 256 + number; a full table defers it
(10 R330). -/
def State.schedScrub (s : State) (chan pa g : Nat) : State :=
  let n := granBytes g
  let b := pa / n * n
  if 32 ≤ (s.scrubs.filter (fun e => e.chan == chan)).length || s.scrubs.any (fun e => e.chan == chan && e.base == b) then s
  else { s with scrubs := s.scrubs ++ [{ chan := chan, base := b, size := n }] }

/-- A severity 1 error squashes the executing chunk of the context in whose slot it was found, and the committing one where it was
found there before its grant; the squash is not counted (R382). A context that does not run has no chunk: it stands at its
checkpoint (05 R183). -/
def State.errSquash (s : State) (c slot : Nat) (inCommit : Bool) : State :=
  if isSteward c || !(s.core c).isRunning || (s.core c).slotNo ≠ slot then s
  else match (s.cx c).pend with
    | k :: _ => if inCommit && !k.isGranted then s.squash c 0 false else s.squashExec c false
    | [] => s.squashExec c false

/-- The contexts, as core and launch, that a structure of the package held: those that its event lists. -/
def State.errHeld (s : State) (v : Nat) : List (Nat × Nat) :=
  (List.range 64).filterMap (fun i =>
    let e := v / 2 ^ (128 + 24 * i)
    let c := bits e 12 1
    let j := bits e 20 13
    if !(List.range (i + 1)).all (fun k => bit v (128 + 24 * k)) then none
    else (if j < 2 then ((s.core c).slot j).ctx.launch
      else ((s.images.filter (fun im => im.core == c))[j - 2]?).bind (·.ctx.launch)).map (fun l => (c, l)))

/-- A severity 2 error ends the task instance in the slot (R383); an engine's with the engine's cause (06 R224), where an accumulator's
abandons the command that reads it (08 R273, R285), and a CXL device's on a write-back with 0x5D (14 R427). One in a structure of the
package ends every instance whose state it held. -/
def State.errEnds (s : State) (c v : Nat) : State :=
  let info := BitVec.ofNat 64 (errLoc v)
  if errStruct v = 7 then (s.errHeld v).foldl (fun s q => s.endInstance q.1 q.2 (endingOf (errCause 7 2) info)) s
  else match ((s.core c).slot (bits v 7 7)).ctx.launch with
  | some l => match errStruct v, errRow v with
    | 5, 2 => s.matError c l (errLoc v)
    | 5, r => s.endInstance c l (endingOf (BitVec.ofNat 8 (0x82 + 8 * r)) info)
    | 6, 1 => s.endInstance c l (endingOf 0x5D info)
    | st, _ => s.endInstance c l (endingOf (errCause st 2) info)
  | none => s

/-- The test of an L1 way squashes, without counting, the ungranted chunks with uncommitted lines in it; which way a line is in is open
(R384). -/
def State.wayTest (s : State) (c : Nat) : State :=
  let w := Config.freeWord s.tick
  let x := s.cx c
  match x.pend.zipIdx.find? (fun e => !e.1.isGranted && !e.1.stores.isEmpty && w.getLsbD (e.2 + 1)) with
  | some e => s.squash c e.2 false
  | none => if w.getLsbD 0 && !x.chunk.stores.isEmpty then s.squashExec c false else s

/-- ERROR_DETECT: a structure of the acting core, or outside the cores, detects an error: it is graded, logged, has its effect, and
its unit tests itself (R380–R384). -/
def execErrorDetect (v : Nat) (s : State) : Ans :=
  let c := s.cur.core
  let st := errStruct v
  let sev := errSeverity v
  let hbm := st == 4 && errRow v == 0
  let l := if isSteward c then none else ((s.core c).slot (bits v 7 7)).ctx.launch
  let who := match l with
    | some l => s.recInst c l
    | none => (0xFFFF, 0)
  let out := errPkgu c st (errRow v)
  let r : ErrRec := { die := errDie c v, cause := errCause st sev, outcome := if hbm then 3 else 0, core := if out then 0 else c
                      pkgu := out, loc := errLoc v, cycle := s.cycle, inst := who.1, lseq := who.2 }
  let seq := s.logSeq r.die
  let t : SelfTest := { err := r, seq := seq, st := st, row := errRow v, core := c, unit := errUnit v, code := errCode v, launch := l
                        held := if st = 7 then s.errHeld v else [] }
  let s := s.logHist r t
  let s := match sev with
    | 0 => if hbm then s.schedScrub (errDie c v * 256 + errUnit v) (errLoc v % 2 ^ 52) (bits v 81 80) else s
    | 1 => s.errSquash c (bits v 7 7) (bit v 6)
    | _ => if st = 4 then s.poisonGranule (errLoc v % 2 ^ 52) (bits v 81 80) else s.errEnds c v
  if hbm || (st = 6 && errRow v = 1) then .next s
  else
    let s := if st = 1 && errRow v ≠ 3 && !isSteward c then s.wayTest c else s
    .next (s.startTest r seq t)

/-! ## Boot records (R393, R394) -/

/-- A boot record. -/
def bootWord (step unit outcome : Nat) (alt : Bool) (way : Nat) : Word :=
  BitVec.ofNat 64 (step % 256 + unit % 65536 * 2 ^ 8 + outcome % 4 * 2 ^ 24 + b2n alt * 2 ^ 26 + way % 32 * 2 ^ 27)

/-- Appends a boot record to the store; the last 64 can be read (R393). -/
def State.bootPut (s : State) (w : Word) : State := { s with boot := w :: s.boot }

/-- The last record of a step for a unit and way: OUTCOME and ALT. -/
def lastBoot (bs : List Word) (step unit way : Nat) : Option (Nat × Bool) :=
  (bs.find? (fun w => fld w 7 0 == step && fld w 23 8 == unit && fld w 31 27 == way)).map (fun w => (fld w 25 24, w.getLsbD 26))

/-- The UNIT of a core. -/
def bootUnit (c : Nat) : Nat := dieOf c * 4096 + c % 1024

/-! ## Mapping out (R385) -/

/-- The contexts of a core end with a cause and are discarded, and what its engines held with them. A chunk that was cut before still
commits, and the instance then ends; its executing chunk is squashed (R385). -/
def State.discardCore (s : State) (c : Nat) (k : Cause) : State :=
  let one := fun (s : State) (i : Nat) =>
    let sl := (s.core c).slot i
    match sl.st, sl.ctx.launch with
    | .empty, _ | _, none => s
    | _, some l => (s.endInstance c l (endingOf k 0)).dropGathers c l
  let s := (one (one s 0) 1).upCore c (fun q => { q with chans := [], mat := [], dmems := [], switchTo := none, resv := none })
  let s := (s.images.filter (fun im => im.core == c)).foldl (fun s im => match im.ctx.launch with
    | some l =>
      let e := endingOf k 0
      (s.endImage c l im.ctx (some e)).noteFailure l im.ctx.inst e
    | none => s) s
  if (s.cx c).pend.any (·.wantsRsv) then s else s.dropRsv c

/-- Maps a core out: its `CORE_MAP` bit clears, a boot record is kept, and its task instances end with the cause. -/
def State.mapOut (s : State) (c : Nat) (k : Cause) : State :=
  if !s.usable c then s
  else
    let off := 0x2000 + 8 * (c / 64)
    let s := s.setPkgReg off (s.pkgReg off &&& ~~~(1#64 <<< (c % 64)))
    (s.bootPut (bootWord 6 (bootUnit c) 1 false 0)).discardCore c k

/-- A way of a core's L1, of an L2 slice or of a base-die slice goes out of use, once; a core with fewer than 4 usable L1 ways is to be
mapped out. -/
def State.wayOut (s : State) (unit way : Nat) : State :=
  if s.partsOut.contains (unit, way) then s
  else
    let s := { s with partsOut := (unit, way) :: s.partsOut }
    if unit % 4096 < 1024 then s.upCore (unit / 4096 % 4 * 1024 + unit % 1024) (fun q => { q with l1Ways := q.l1Ways - 1 }) else s

/-- The lanes of a link or port: four of a UALink port (14 R412), sixteen of a CXL port (14 R426). -/
def linkLanes (code : Nat) : Nat :=
  if 1280 ≤ code && code < 1284 then 4 else if code = 1284 then 16 else max 1 (Config.lanes code)

/-- A lane goes out of use; a link left with none is disabled (R385). -/
def State.laneOut (s : State) (unit lane : Nat) : State :=
  if s.partsOut.contains (unit, lane) then s
  else
    let s := { s with partsOut := (unit, lane) :: s.partsOut }
    if linkLanes (unit % 4096) ≤ (s.partsOut.filter (fun p => p.1 == unit)).length then { s with absent := unit :: s.absent } else s

/-- The unit of a test, and of its way or lane. -/
def SelfTest.place (t : SelfTest) : Nat × Nat :=
  (if t.st = 1 then bootUnit t.core else t.err.die * 4096 + t.code, t.unit + 1)

/-- A lasting fault of the unit maps it out: a way, a lane, or the core. The table of R385 has no row for a reeve, the scheduler, a context
image or a steward. -/
def SelfTest.maps (t : SelfTest) : Bool := !isSteward t.core && t.st != 7

/-- The unit of a test is mapped out (R385); the boot store keeps ways and cores (R394). -/
def State.mapUnit (s : State) (t : SelfTest) : State :=
  let p := t.place
  if !t.maps then s
  else match t.st with
  -- a way of the instruction cache: no rule but R384 counts those ways, and a boot record's WAY names the data cache's (log 138)
  | 1 => if t.row = 3 then { s with partsOut := (p.1 + 16384, p.2) :: s.partsOut.filter (· != (p.1 + 16384, p.2)) } else
    let s := (s.wayOut p.1 p.2).bootPut (bootWord 6 p.1 1 false p.2)
    if (s.core t.core).l1Ways < 4 then s.mapOut t.core (errCause 1 3) else s
  | 3 | 4 => (s.wayOut p.1 p.2).bootPut (bootWord 6 p.1 1 false p.2)
  | 6 => s.laneOut p.1 p.2
  | st => s.mapOut t.core (errCause st 3)

/-- SELF_TEST_END: test number `unit` ends; it has failed where v[0] = 1. A second record carries its outcome; a lasting fault is
logged with severity 3, ends the task instance in whose state it was found, or every one whose state the structure held, and maps its unit
out (R384–R387; 06 R226). The third error within 2^30 cycles makes a fault lasting, whatever the tests find. -/
def execSelfTestEnd (v : Nat) (s : State) : Ans :=
  match s.tests[s.cur.unit]? with
  | none => .next s
  | some t =>
    let s : State := { s with tests := s.tests.eraseIdx s.cur.unit }
    let key := errKey t.st t.core t.row t.unit t.code
    let n := (s.errors.filter (fun e => e.1 == key && decide (e.2 ≤ t.err.cycle) && decide (t.err.cycle ≤ e.2 + 2 ^ 30))).length
    let lasting := bit v 0 || decide (3 ≤ n)
    let s := s.logWith { t.err with outcome := if lasting then 2 else 1, mapped := lasting && t.maps } t.seq
    if !lasting then .next s
    else
      let k := errCause t.st 3
      let s := s.logErr { t.err with cause := k, outcome := 2, mapped := t.maps }
      let who := if t.st = 7 then t.held else t.launch.toList.map (fun l => (t.core, l))
      let s := who.foldl (fun s q => s.endInstance q.1 q.2 (endingOf k (BitVec.ofNat 64 t.err.loc))) s
      .next (s.mapUnit t)

/-! ## Start-up (R392, R394) -/

/-- The step has an alternate. -/
def stepAlt (step : Nat) : Bool := step != 6 && step != 7 && decide (step < 12)

/-- A core drops out of `CORE_MAP`. -/
def State.dropCore (s : State) (c : Nat) : State :=
  let off := 0x2000 + 8 * (c / 64)
  s.setPkgReg off (s.pkgReg off &&& ~~~(1#64 <<< (c % 64)))

/-- What a step that has not passed leads to (R392). -/
def State.bootFail (s : State) (step unit way : Nat) : State :=
  let die := unit / 4096 % 4
  let core := die * 1024 + unit % 1024
  match step with
  | 0 | 5 | 7 | 8 => { s with recovery := true }
  | 1 => { (List.range 1024).foldl (fun s i => s.dropCore (die * 1024 + i)) s with absent := unit :: s.absent }
  | 2 => s.dropCore core
  | 3 | 9 | 10 | 11 => { s with absent := unit :: s.absent }
  | 4 => { s with refTaken := (die * 8 + (unit % 4096 - 1024) % 8) :: s.refTaken }
  | 6 =>
    if way ≠ 0 then
      let s := s.wayOut unit way
      if unit % 4096 < 1024 && decide ((s.core core).l1Ways < 4) then s.dropCore core else s
    else if unit % 4096 < 1024 then s.dropCore core else s
  | _ => s

/-- One step of the start-up for a unit: `prim` and `alt` tell whether its primary and its alternate work. -/
def State.bootStep (s : State) (step unit way : Nat) (prim alt : Bool) : State :=
  let last := lastBoot s.boot step unit way
  let put := fun (s : State) (o : Nat) (a : Bool) => s.bootPut (bootWord step unit o a way)
  let tryAlt := fun (s : State) => if alt then put s 3 true else (put s 1 true).bootFail step unit way
  match last with
  | some (o, true) => if o = 1 || o = 2 then (put s 2 true).bootFail step unit way else if prim then put s 0 false else tryAlt (put s 1 false)
  | some (1, false) =>
    if step = 6 then put s 1 false
    else if stepAlt step then tryAlt s
    else if prim then put s 0 false else (put s 1 false).bootFail step unit way
  | _ =>
    if prim then put s 0 false
    else if stepAlt step then tryAlt (put s 1 false)
    else (put s 1 false).bootFail step unit way

/-- A result of the start-up: step, unit, way, whether the primary works, and the alternate. -/
abbrev BootResult := Nat × Nat × Nat × Bool × Bool

/-- The results that `v` lists, 32 bits each until one with bit 31 = 0: STEP 7:0, UNIT 23:8, the primary works 24, the alternate works
25, WAY 30:26. -/
def bootResults : Nat → Nat → List BootResult
  | 0, _ => []
  | n + 1, v => if !bit v 31 then [] else (bits v 7 0, bits v 23 8, bits v 30 26, bit v 24, bit v 25) :: bootResults n (v / 2 ^ 32)

/-- The units of a die that a step is for, beside the cores. -/
def bootUnits (step : Nat) : List Nat :=
  match step with
  | 0 | 1 | 7 | 12 => [4095]
  | 3 | 4 => [1024, 1025, 1026]
  | 5 => [1296]
  | 8 => [1285]
  | 9 => [1280, 1281, 1282, 1283]
  | 10 => [1284]
  | 11 => [1286, 1287]
  | _ => []

/-- A step of the start-up: with the results listed for it, and passed for every other unit; a disabled die runs none, and in recovery
mode nothing runs (R392). Of the cores of a die that pass their tests, one record stands for all: that of the lowest-numbered (log 130). -/
def State.bootDo (s : State) (rs : List BootResult) (step : Nat) : State :=
  let mine := rs.filter (fun r => r.1 == step)
  let fit := fun (u : Nat) => !mine.any (fun r => r.2.1 == u) && (lastBoot s.boot step u 0).all (fun o => o.1 == 0)
  let rest := (List.range 4).flatMap (fun d =>
    if step = 2 || step = 6 then ((List.range 1024).find? (fun i => fit (d * 4096 + i))).toList.map (fun i => d * 4096 + i)
    else (bootUnits step).map (fun u => d * 4096 + u))
  let all : List BootResult := mine ++ (rest.filter (fun u => !mine.any (fun r => r.2.1 == u))).map (fun u => (step, u, 0, true, true))
  all.foldl (fun s r =>
    if s.recovery || s.absent.contains (r.2.1 / 4096 * 4096 + 4095) then s else s.bootStep step r.2.1 r.2.2.1 r.2.2.2.1 r.2.2.2.2) s

/-- The start-up: the steps in order (R392). -/
def State.bootRun (s : State) (v : Nat) : State :=
  let rs := bootResults 256 v
  (List.range 13).foldl (fun s i => s.bootDo rs i) s

/-- Cores and ways whose last step 6 record shows a failure are mapped out again at each start (R394). -/
def State.bootAgain (s : State) : State :=
  ((s.boot.filter (fun w => fld w 7 0 == 6)).map (fun w => (fld w 23 8, fld w 31 27))).eraseDups.foldl (fun s e =>
    match lastBoot s.boot 6 e.1 e.2 with
    | some (1, _) => s.bootFail 6 e.1 e.2
    | _ => s) s

/-- PACKAGE_RESET: the package starts: every register at its reset value, the boot store kept, memory undefined, and the steps of
R392 with the results that v lists. What is to arrive from outside stays on the agenda (log 1). -/
def execPackageReset (v : Nat) (s : State) : Ans :=
  let free := fun (i : Nat) => Config.freeByte (s.tick * 2 ^ 52 + i)
  let s : State := { State.reset with
    cur := s.cur, agenda := s.agenda, tick := s.tick + 1, outbox := s.outbox, boot := s.boot
    mem := s.mem.foldl (fun m e => m.write e.1 (free e.1)) [] }
  .next (s.bootAgain.bootRun v)

end Sys2Proof.Machine
end

