-- ==== Sys2Proof/Machine/Debug.lean ====
section
/-! DEFINITION. Debug commands, host attention, PC samples and trace sinks (13 R399–R403; 14 R432). -/
namespace Sys2Proof.Machine

/-! ## Debug commands (R399) -/

/-- A halted MT goes on from its record, as `mtres` sub-operation 0; `one`: for one instruction. -/
def Arch.mtGo (a : Arch) (i : Nat) (one : Bool) : Arch :=
  let m := a.mt i
  if m.thr.phase = .halted then
    let m := m.resume false
    a.setMt i { m with thr := { m.thr with stepOne := one } }
  else a

/-- A halted CT goes on from its record, as `eret` without a handler. -/
def Arch.ctGo (a : Arch) (one : Bool) : Arch :=
  if a.ct.phase = .halted then
    { a with ct := { a.ct with
        phase := .resume (BitVec.ofNat 64 (fld a.trap.blk 55 3 * 8)) (fld a.trap.off 5 0) (fld a.trap.off 10 8) (fld a.trap.off 11 11 == 1)
        stall := none
        passEvent := fld a.trap.cause 7 0 == 0x18 || fld a.trap.cause 7 0 == 0x19
        stepOne := one } }
  else a

/-- The selected threads go on, in the running state and in every checkpoint, so that no squash undoes it. -/
def State.dbgGo (s : State) (c : Nat) (mask : Nat) (one : Bool) : State :=
  s.upCx c (·.upArchAll (fun a =>
    let a := (onesOf mask 16).foldl (fun a i => a.mtGo i one) a
    if mask.testBit 16 then a.ctGo one else a))

/-- An MT halts between instructions. One that has ended its block, and waits for its far results or a full/empty operation (02 R59),
halts as it enters the next block (log 108). An idle MT has no instruction to halt at (log 28). -/
def State.mtHalt (s : State) (c i : Nat) (a : Arch) : Arch :=
  let m := a.mt i
  match m.thr.phase with
  | .idle | .faulted | .halted | .stopped => a
  | .ending _ => a.setMt i { m with thr := { m.thr with atEntry := some 0x1B, stepOne := false } }
  | _ =>
    let r := s.recNow c m.thr
    a.setMt i { m with
      cause := 0x1B, trapBlk := r.blk, trapOff := r.off, trapPark := r.park, trapInfo := 0
      thr := { m.thr with phase := .halted, stall := none, stepOne := false } }

/-- The selected MTs halt at their next instruction boundary; the CT takes cause 0x1B at a cut (06 R219). -/
def State.dbgHalt (s : State) (c mask : Nat) : State :=
  let s := s.upCx c (·.upArchAll (fun a => (onesOf mask 16).foldl (fun a i => s.mtHalt c i a) a))
  if mask.testBit 16 && (s.core c).isRunning then (s.upCx c (fun x => { x with async := x.async ++ [{ cause := 0x1B }] })).noteCut c else s

/-- A write of `DBG_CMD` of a core: command 3 is ignored. -/
def State.dbgCmd (s : State) (c : Nat) (v : Word) : State :=
  match fld v 18 17 with
  | 0 => s.dbgGo c (fld v 16 0) false
  | 1 => s.dbgHalt c (fld v 16 0)
  | 2 => s.dbgGo c (fld v 16 0) true
  | _ => s

/-- A write of `ATTN` of a core (14 R432). -/
def State.attn (s : State) (c : Nat) (v : Word) : State :=
  let i := fld v 0 0
  let sl := (s.core c).slot i
  if !v.getLsbD 1 || sl.st == .empty || sl.ctx.launch.isNone then s
  else (s.upCore c (fun k => k.setSlot i { k.slot i with ctx := { sl.ctx with async := sl.ctx.async ++ [{ cause := 0x1D }] } })).noteCut c

/-! ## PC samples (R400, R401) -/

/-- The stall reason of a wait. For a wait that the table does not name it is the free value `free` (log 29). -/
def Wait.reason (free : Nat) : Wait → Nat
  | .admission .. | .inputRoom .. => 5
  | .returnRoom _ | .linkRoom .. => 7
  | .join .. => 8
  | .counter .. => 9
  | .pendingLine _ => 10
  | .lateral .. => 12
  | .barrier .. => 13
  | .phaseEnd _ => 14
  | .gang => 19
  | .tlbi | .digest _ | .fullEmpty _ => 17
  | .translate _ kind => if kind = 3 then 22 else free
  | .shards .. | .residency _ | .offPackage | .grant _ | .peer .. | .pageFault | .results => free

/-- The stall reason of a thread of a core. -/
def State.stallReason (s : State) (c t : Nat) : Nat :=
  let th := s.thrAt c t
  match th.phase with
  | .faulted => 21
  | .halted => 20
  | .stopped => 4
  | .idle => if (s.mtAt c t).bq.isEmpty then 4 else 15
  | .entry _ | .resume .. =>
    match th.stall with
    | some w => w.why.reason (Config.freeByte s.tick).toNat
    | none => if s.holdsBlock c t then (if 2 ≤ (s.cx c).pend.length then 16 else 15) else 0
  | .body | .ending _ =>
    match th.stall with
    | some w => w.why.reason (Config.freeByte s.tick).toNat
    | none =>
      if !th.parkWaits then (if t = 16 && s.inStream c && s.leaderOf c != c then 19 else 0)
      else if th.onlyReleased then 17
      else if th.pending.any (fun e => e.src.takes) then 6
      else match th.phase with | .body => 2 | _ => 3

/-- The instruction at which a thread of a core stands is a `ret`: the mark of a sample (03 R90; log 122). -/
def State.atRet (s : State) (c : Nat) (th : Thr) : Bool :=
  match (decode (s.peekBody c th.blk th.hdr th.off) (fun _ => false)).1 with
  | .ret .. => true
  | _ => false

/-- PC_SAMPLE: a PERIOD of the running context of the acting core is over: one thread is sampled, and the sample is held in the
chunk. -/
def execPcSample (s : State) : Ans :=
  let c := s.cur.core
  let x := s.cx c
  let ctl := x.arch.dbg.get 0x330 0
  if !(s.core c).isRunning || fld ctl 0 0 = 0 || !s.feature 15 || s.cycle < x.pcsAt + fld ctl 31 8 then .next s
  else
    let t := x.pcsThr
    let th := x.arch.thr t
    let r : TraceRec := {
      launch := x.launch.getD 0, pcs := true, ret := s.atRet c th
      w0 := BitVec.ofNat 64 (fld th.blk 55 0 + th.off % 64 * 2 ^ 56)
      w1 := BitVec.ofNat 64 (s.stallReason c t + t * 2 ^ 8 + s.cycle % 2 ^ 32 * 2 ^ 16) }
    .next (s.setCx c { x with
      pcsThr := (t + 1) % 17, pcsAt := s.cycle
      chunk := { x.chunk with traces := x.chunk.traces ++ [r] } })

/-! ## Sinks (R402, R403) -/

/-- Tracing stops in a context: EN := 0, in every checkpoint as well. -/
def Ctx.stopTrace (x : Ctx) : Ctx :=
  x.upArchAll (fun a => { a with dbg := a.dbg.set 0x340 (setFld (a.dbg.get 0x340 0) 0 0 0) 0 })

/-- The sink cannot take a trace record: it is dropped and counted; with STOP = 1 the core takes 0x1C, and tracing stops. -/
def State.sinkFull (s : State) (c : Nat) (r : TraceRec) : State :=
  (s.upAnyCx c r.launch (fun x =>
    if (x.arch.dbg.get 0x340 0).getLsbD 5 then { x.stopTrace with async := x.async ++ [{ cause := 0x1C }] }
    else { x with trcPtr := setFld x.trcPtr 63 32 (min 0xFFFFFFFF (fld x.trcPtr 63 32 + 1)) })).noteCut c

/-- The place of the next record in a buffer, if it can be written: `buf` is PCS_BUF or TRC_BUF. -/
def State.bufPa (s : State) (x : Ctx) (buf count : Nat) : UnitRes Nat :=
  let b := x.arch.dbg.get buf 0
  if fld b 0 0 = 0 then (s, .error false)
  else s.unitPa x.asid (fld b 55 12 * 4096 + count % 2 ^ fld b 5 1 * 16) 1

/-- The two words of a record; SQ stands in bit 25 of the first word of a trace record and in bit 13 of the second of a sample. -/
def TraceRec.words (r : TraceRec) : Nat :=
  let w0 := if r.sq && !r.pcs then setFld r.w0 25 25 1 else r.w0
  let w1 := if r.sq && r.pcs then setFld r.w1 13 13 1 else r.w1
  w0.toNat + w1.toNat * 2 ^ 64

/-- A record goes to its sink; it answers whether it has to wait for its line. Samples and trace records are written outside chunks and
digests. -/
def State.sink (s : State) (c : Nat) (r : TraceRec) : State × Bool :=
  match s.anyCx c r.launch with
  | none => (s, false)
  | some x =>
    if r.pcs then
      match s.bufPa x 0x331 (fld x.pcsPtr 31 0) with
      | (s, .ok pa) =>
        ((({ s with mem := s.mem.writeNat pa 16 r.words } : State).written pa 16).upAnyCx c r.launch (fun x =>
          { x with pcsPtr := setFld x.pcsPtr 31 0 ((fld x.pcsPtr 31 0 + 1) % 2 ^ 32) }), false)
      | (s, .error w) => (s, w)
    else
      let count := fun (x : Ctx) => { x with trcPtr := setFld x.trcPtr 31 0 ((fld x.trcPtr 31 0 + 1) % 2 ^ 32) }
      if (x.arch.dbg.get 0x340 0).getLsbD 4 then
        match s.bufPa x 0x341 (fld x.trcPtr 31 0) with
        | (s, .ok pa) => ((({ s with mem := s.mem.writeNat pa 16 r.words } : State).written pa 16).upAnyCx c r.launch count, false)
        | (s, .error true) => (s, true)
        | (s, .error false) => (s.sinkFull c r, false)
      else
        ({ s with outbox := s.outbox ++ [Out.trace (dieOf c) (BitVec.ofNat 64 r.words) (BitVec.ofNat 64 (r.words / 2 ^ 64))] }.upAnyCx
          c r.launch count, false)

/-- The records of a core go to their sinks, in order; one that has to wait keeps those behind it. -/
def State.drain (s : State) (c : Nat) : State :=
  (s.core c).traceOut.foldl (fun s r =>
    let keep := fun (s : State) => s.upCore c (fun k => { k with traceOut := k.traceOut ++ [r] })
    if !(s.core c).traceOut.isEmpty then keep s
    else match s.sink c r with
      | (s, true) => keep s
      | (s, false) => s) (s.upCore c (fun k => { k with traceOut := [] }))

/-- TRACE_FULL: the sink of the acting core cannot take its oldest trace record. -/
def execTraceFull (s : State) : Ans :=
  let c := s.cur.core
  match (s.core c).traceOut.find? (fun r => !r.pcs) with
  | none => .next s
  | some r => .next ((s.upCore c (fun k => { k with traceOut := k.traceOut.erase r })).sinkFull c r)

end Sys2Proof.Machine
end

