-- ==== Sys2Proof/Machine/Regs.lean ====
section
/-! DEFINITION. Writes and reads of the registers outside the cores (00 R5, R6; 07 R246; 10 R309; 12 R343, R344, R362; 13 R386,
R393, R395, R399; 14 R405, R408, R429–R432; 15 R436), and what the host writes. -/
namespace Sys2Proof.Machine

/-! ## Fields (00 R5, R6) -/

/-- The bits hi:lo. -/
def fieldMask (hi lo : Nat) : Nat := (2 ^ (hi + 1 - lo) - 1) * 2 ^ lo

/-- The bits of a mask from the written value, the others as they were. -/
def mergeReg (old v : Word) (mask : Nat) : Word :=
  (old &&& ~~~(BitVec.ofNat 64 mask)) ||| (v &&& BitVec.ofNat 64 mask)

/-- Field hi:lo of a written value where it is from `a` to `b`; else the field is unchanged. -/
def keepRange (old v new : Word) (hi lo a b : Nat) : Word :=
  setFld new hi lo (if a ≤ fld v hi lo && fld v hi lo ≤ b then fld v hi lo else fld old hi lo)

/-! ## Die registers -/

/-- A die register stands at the offset (07 R246; 10 R309; 13 R386; 15 R436). -/
def dieHas (off : Nat) : Bool :=
  [0x000, 0x008, 0x010, 0x018, 0x020, 0x028, 0x030, 0x038, 0x040, 0x048, 0x050, 0x058, 0x080, 0x088, 0x090, 0x098, 0x0A0, 0x0C0, 0x0C8,
    0x0D0, 0x0D8, 0x0E0, 0x0E8, 0x0F0].contains off

/-- The RW bits of a die register that has no behaviour of its own but its access types. -/
def dieMask (off : Nat) : Nat :=
  match off with
  | 0x000 => 1 + fieldMask 51 22
  | 0x008 => 1 + fieldMask 51 16
  | 0x010 => 1 + fieldMask 51 12
  | 0x018 => fieldMask 31 0
  | 0x030 => fieldMask 19 0
  | 0x038 => 1
  | 0x040 => 1
  | 0x048 => 1 + fieldMask 51 12
  | 0x050 => fieldMask 31 0
  | 0x080 => fieldMask 3 0 + fieldMask 51 16
  | 0x088 => fieldMask 63 0
  | 0x090 => fieldMask 63 0
  | 0x098 => 1 + fieldMask 51 17
  | 0x0C8 => fieldMask 51 3
  | 0x0D0 => 1 + fieldMask 51 12
  | 0x0D8 => fieldMask 31 0
  | _ => 0

/-- The fields that admit only some values. A value that a field does not admit leaves the field as it was: for `SCRUB`.PERIOD, where
R309 gives 1 to 255 and no fate for 0, that is the model's choice (DESIGN CHOICE, log 45). -/
def dieRanges (off : Nat) (old v new : Word) : Word :=
  match off with
  | 0x010 => keepRange old v new 5 1 4 20
  | 0x038 => keepRange old v new 15 8 1 255
  | 0x048 => keepRange old v new 5 1 6 16
  | 0x080 => keepRange old v (keepRange old v new 7 4 2 15) 12 8 10 26
  | 0x0D0 => keepRange old v new 5 1 4 12
  | _ => new

/-- The bytes that the holding buffers of a slice take from its ways (10 R309). -/
def damBytes (v : Word) : Nat := (max 1 (fld v 19 16) * (16 + fld v 15 0) - 16) * 32

/-- A write of a die register. -/
def State.dieWrite (s : State) (die off : Nat) (v : Word) : State :=
  let old := s.dieReg die off
  let new := dieRanges off old v (mergeReg old v (dieMask off))
  match off with
  | 0x028 => s.fqReply die v
  | 0x030 => if s.dets.any (fun h => h.die == die) || decide (4 * 2 ^ 19 < damBytes v) then s else s.setDieReg die off new
  | 0x040 =>
    let s := s.setDieReg die off (if v.getLsbD 1 then setFld new 1 1 0 else new)
    if fld old 0 0 = 0 && fld v 0 0 = 1 then
      { s with refTaken := s.refTaken.filter (fun t => t / 8 != die)
               beats := (List.range 3).foldl (fun b i => b.put (die * 8 + i) s.cycle) s.beats }
    else s
  | 0x0C0 => s.stwCfg die v
  | 0x0E0 => s.setDieReg die off v
  | 0x0E8 => s.stwSend1 die v
  | 0x0F0 => s.stwFwd die v
  | _ => if dieMask off = 0 then s else s.setDieReg die off new

/-- A read of a die register. -/
def State.dieRead (s : State) (die off : Nat) : Word :=
  match off with
  | 0x028 => 0
  | 0x0E0 => 0
  | 0x0E8 => 0
  | 0x0F0 => 0
  | 0x0A0 => setFld (s.dieReg die off) 8 0 ((s.regions.filter (fun e => e.1 / 256 == die)).length)
  | _ => s.dieReg die off

/-! ## Package registers -/

/-- The RW bits of a package register that has no behaviour of its own but its access types. -/
def pkgMask (off : Nat) : Nat :=
  if off % 8 ≠ 0 then 0
  else if off = 0x0010 then fieldMask 27 16 + fieldMask 47 32
  else if off = 0x0018 then 1 + fieldMask 51 15
  else if 0x1000 ≤ off && off < 0x1800 then fieldMask 63 0
  else if off = 0xC800 then fieldMask 10 0
  else if 0xC840 ≤ off && off < 0xC9C0 then fieldMask 63 0
  else if 0xDA00 ≤ off && off < 0xDAA0 then 1 + fieldMask 63 32
  else if 0xDC00 ≤ off && off < 0xE100 then fieldMask 63 0
  else 0

/-- A write of register `k` of command queue `q` (12 R343). -/
def State.cqWrite (s : State) (q k : Nat) (v : Word) : State :=
  let off := 0x0100 + 32 * q + 8 * k
  let old := s.pkgReg off
  match k with
  | 0 =>
    let new := keepRange old v (mergeReg old v (fieldMask 3 0 + fieldMask 51 12)) 8 4 4 16
    s.setPkgReg off (if v.getLsbD 9 then setFld new 9 9 0 else new)
  | 1 => s.writeTail q (fld v 63 32)
  | 2 => s.setPkgReg off (mergeReg old v (fieldMask 51 12))
  | _ => s

/-- A write of a package register. -/
def State.pkgWrite (s : State) (off : Nat) (v : Word) : State :=
  if off % 8 ≠ 0 then s
  else if off = 0x0048 then (if v.getLsbD 0 then { s with boot := [] } else s)
  else if 0x0100 ≤ off && off < 0x0900 then s.cqWrite ((off - 0x0100) / 32) (off % 32 / 8) v
  else if 0x2000 ≤ off && off < 0x2200 then
    (onesOf v.toNat 64).foldl (fun s j => s.mapOut (64 * ((off - 0x2000) / 8) + j) 0xB7) s
  else if 0x4000 ≤ off && off < 0xC000 then s.dbgCmd ((off - 0x4000) / 8) v
  else if 0xCA00 ≤ off && off < 0xD200 then s.leaseWrite ((off - 0xCA00) / 32) (off % 32 / 8) v
  else if 0xD200 ≤ off && off < 0xDA00 then s.grantWrite ((off - 0xD200) / 32) (off % 32 / 8) v
  else if 0x10000 ≤ off && off < 0x18000 then s.attn ((off - 0x10000) / 8) v
  else if pkgMask off = 0 then s
  else s.setPkgReg off (mergeReg (s.pkgReg off) v (pkgMask off))

/-- A read of a package register; a WO register reads 0. `LS_NOTE` reads what remains of the notice (14 R408). -/
def State.pkgRead (s : State) (off : Nat) : Word :=
  if off = 0x0048 then BitVec.ofNat 64 (min 64 s.boot.length * 256)
  else if 0x0100 ≤ off && off < 0x0900 && off % 32 = 24 then (s.queue ((off - 0x0100) / 32)).seeds.headD 0
  else if 0x3000 ≤ off && off < 0x3200 && off % 8 = 0 then s.boot.getD ((off - 0x3000) / 8) 0
  else if 0xDC00 ≤ off && off < 0xE100 then 0
  else if 0xD200 ≤ off && off < 0xDA00 && off % 32 = 0 then setFld (s.pkgReg off) 1 1 0
  else if 0xCA00 ≤ off && off < 0xD200 && off % 32 = 24 && s.leaseDue.keys.contains ((off - 0xCA00) / 32) then
    BitVec.ofNat 64 (s.leaseLeft ((off - 0xCA00) / 32) % 2 ^ 32)
  else s.pkgReg off

/-! ## Host writes (14 R430, R431) -/

/-- The configuration address of a die's register (log 19). -/
def dieAddr (die off : Nat) : Nat := 2 ^ 20 + die * 2 ^ 16 + off

/-- A write of the register at a configuration address: the package's below 2^20, else those of the dies, 2^16 apart (log 19). The
registers of a die that is absent since the start-up are not there (13 R392). -/
def State.regWrite (s : State) (a : Nat) (v : Word) : State :=
  if a < 2 ^ 20 then s.pkgWrite a v
  else
    let die := (a - 2 ^ 20) / 2 ^ 16 % 4
    if s.isAbsent die 4095 then s else s.dieWrite die ((a - 2 ^ 20) % 2 ^ 16) v

/-- The pieces of [a, a + n) by memory lines: address and length. -/
def linePieces (a n : Nat) : List (Nat × Nat) :=
  (List.range ((a % 64 + n + 63) / 64)).map (fun i =>
    let lo := max a (a / 64 * 64 + 64 * i)
    (lo, min (a + n) (a / 64 * 64 + 64 * i + 64) - lo))

/-- A host write of memory: each line is one synthetic chunk. It waits while one of its lines is held. A write of part of a
poisoned granule is dropped and logged as an error of HBM, which no test follows (10 R325; R387); one to a disabled stack or port has no
effect (13 R392). -/
def State.hostMem (s : State) (a n v : Nat) : Option State :=
  let ps := linePieces a n
  if ps.any (fun p => s.synthBusy none p.1) then none
  else if ps.any (fun p => s.goneAt p.1) then some s
  else match s.poison.find? (fun q => decide (q.1 < a + n) && decide (a < q.1 + q.2) && !(decide (a ≤ q.1) && decide (q.1 + q.2 ≤ a + n))) with
    | some q => some (s.logErr { die := bits q.1 49 48, cause := 0xD2, outcome := 3, pkgu := true, loc := q.1 })
    | none => some ((ps.foldl (fun s p => s.synthNat p.1 p.2 (v / 2 ^ (8 * (p.1 - a)))) s).written a n)

/-- The host's writes take effect in the order of their sending. -/
def State.hostPump (s : State) : Nat → State
  | 0 => s
  | n + 1 =>
    match s.hostQ with
    | [] => s
    | (a, k, v) :: r =>
      let q := { s with hostQ := r }
      if a < 2 ^ 52 then
        match q.hostMem a (min k (2 ^ 52 - a)) v with
        | some q => q.hostPump n
        | none => s
      else (q.regWrite (a - 2 ^ 52) (BitVec.ofNat 64 v)).hostPump n

/-- HOST_WRITE: the host writes n bytes of v at PA a, or, from 2^52 upward, the register at configuration address a − 2^52; with
n = 0 only the writes that have waited are tried again. -/
def execHostWrite (a n v : Nat) (s : State) : Ans :=
  let q := if n = 0 then s.hostQ else s.hostQ ++ [(a, n, v)]
  .next (({ s with hostQ := q } : State).hostPump q.length)

/-- The host writes v to the register at configuration address a: the write takes effect after its earlier writes (R431). -/
def State.hostPut (s : State) (a : Nat) (v : Word) : State :=
  let q := s.hostQ ++ [(2 ^ 52 + a, 8, v.toNat)]
  ({ s with hostQ := q } : State).hostPump q.length

/-- REGISTER_WRITE: the host writes the register at a configuration address. -/
def execRegisterWrite (a : Nat) (v : BitVec 64) (s : State) : Ans := .next (s.hostPut a v)

/-! ### The register writes that have a name of their own -/

/-- CQ_TAIL_WRITE: `CQ_PTR` of command queue `unit` (12 R343). -/
def execCqTailWrite (v : BitVec 64) (s : State) : Ans := .next (s.hostPut (0x0108 + 32 * (s.cur.unit % 64)) v)

/-- BOOT_CTL_CLR: `BOOT_CTL`; CLR erases the records (13 R393). -/
def execBootCtlClr (v : BitVec 64) (s : State) : Ans := .next (s.hostPut 0x0048 v)

/-- CORE_MAP_WRITE: `CORE_MAP` register `unit`: each 1 maps a core out, with cause 0xB7 (12 R362). -/
def execCoreMapWrite (v : BitVec 64) (s : State) : Ans := .next (s.hostPut (0x2000 + 8 * (s.cur.unit % 64)) v)

/-- LEASE_WRITE: the register at offset `unit` of the lease table (14 R408). -/
def execLeaseWrite (v : BitVec 64) (s : State) : Ans := .next (s.hostPut (0xCA00 + s.cur.unit % 2048 / 8 * 8) v)

/-- GRANT_REVOKE: `GR_CFG` of grant `unit` (14 R411). -/
def execGrantRevoke (v : BitVec 64) (s : State) : Ans := .next (s.hostPut (0xD200 + 32 * (s.cur.unit % 64)) v)

/-- FQ_RPL_READY: `FQ_RPL` of the acting die, with DECLINE 0 (07 R243). -/
def execFqRplReady (v : BitVec 64) (s : State) : Ans := .next (s.hostPut (dieAddr (dieOf s.cur.core) 0x028) (setFld v 32 32 0))

/-- FQ_RPL_DECLINE: `FQ_RPL` of the acting die, with DECLINE 1 (07 R243). -/
def execFqRplDecline (v : BitVec 64) (s : State) : Ans := .next (s.hostPut (dieAddr (dieOf s.cur.core) 0x028) (setFld v 32 32 1))

/-- STW_RUN: `STW_CFG` of the acting die (07 R246). -/
def execStwRun (v : BitVec 64) (s : State) : Ans := .next (s.hostPut (dieAddr (dieOf s.cur.core) 0x0C0) v)

/-- The address of the acting core's register in a table of 8 bytes a core. -/
def State.coreReg (s : State) (base : Nat) : Nat := base + 8 * (s.cur.core % 4096)

/-- DBG_CMD_RESUME: `DBG_CMD` of the acting core with command 0 (13 R399). -/
def execDbgCmdResume (v : BitVec 64) (s : State) : Ans := .next (s.hostPut (s.coreReg 0x4000) (setFld v 18 17 0))

/-- DBG_CMD_HALT: `DBG_CMD` of the acting core with command 1 (13 R399). -/
def execDbgCmdHalt (v : BitVec 64) (s : State) : Ans := .next (s.hostPut (s.coreReg 0x4000) (setFld v 18 17 1))

/-- DBG_CMD_STEP: `DBG_CMD` of the acting core with command 2 (13 R399). -/
def execDbgCmdStep (v : BitVec 64) (s : State) : Ans := .next (s.hostPut (s.coreReg 0x4000) (setFld v 18 17 2))

/-- ATTN: host attention for the context in a slot of the acting core (14 R432). -/
def execAttn (v : BitVec 64) (s : State) : Ans := .next (s.hostPut (s.coreReg 0x10000) v)

end Sys2Proof.Machine
end

