-- ==== Sys2Proof/Machine/Csr.lean ====
section
/-! DEFINITION. Control and status registers (03 R107–R109): what each thread may read and write, and `csrr` and `csrw`. -/
namespace Sys2Proof.Machine

/-! ## Derived values -/

/-- `CT_EVT` (05 R158). -/
def Arch.ctEvt (a : Arch) : Word :=
  let set := fun (f : Mt → Bool) => (List.range 16).foldl (fun n i => n + b2n (f (a.mt i)) * 2 ^ i) 0
  BitVec.ofNat 64 (set (fun m => m.state == 4) + set (fun m => !m.rq.isEmpty) * 2 ^ 16 + set (·.idleEmpty) * 2 ^ 32 +
    set (fun m => m.state == 5) * 2 ^ 48)

/-- `GANG_STAT` (05 R175, R176). -/
def Arch.gangStat (a : Arch) : Word :=
  match a.gang with
  | none => 0
  | some g => BitVec.ofNat 64 (1 + g.size % 4 * 2 + g.pos % 16 * 2 ^ 3 + g.lead % 16 * 2 ^ 7 +
      (if g.pos ≤ g.lead then g.lead - g.pos else g.pos - g.lead) * 2 ^ 11)

/-- The code of a slot's state (05 R182). -/
def SlotSt.code : SlotSt → Nat
  | .empty => 0 | .streamin => 1 | .ready => 2 | .running => 3 | .drain => 4 | .streamout => 5

/-- `CTX_STAT` of the running context. -/
def Core.ctxStat (k : Core) : Word :=
  BitVec.ofNat 64 (k.slotNo + (k.slot k.slotNo).st.code * 2 + (k.slot (1 - k.slotNo)).st.code * 2 ^ 4)

/-- `MAT_STAT` (08 R271). -/
def State.matStatOf (s : State) (c : Nat) : Word :=
  let x := s.cx c
  setFld x.matStat 15 8 (min 255 ((s.core c).mat.filter (fun m => some m.launch == x.launch)).length)

/-- A debug CSR that the tables of 13 R397, R400 and R402 name. -/
def dbgCsr (n : Nat) : Bool :=
  n == 0x300 || (decide (0x310 ≤ n) && decide (n < 0x32C)) || (decide (0x330 ≤ n) && decide (n < 0x333)) ||
    (decide (0x340 ≤ n) && decide (n < 0x343))

/-! ## Reading -/

/-- A CSR as an MT reads it; none where it cannot. -/
def State.csrMt (s : State) (n : Nat) : Option Word :=
  match n with
  | 0 => some s.mt.fmtCtl
  | 1 => some s.mt.stat
  | 2 => some s.thr.srnd
  | 3 => some (s.mt.bank.setWidth 64)
  | 4 => some (s.arch s.cur.core).scaleBase
  | 0x180 => some (s.arch s.cur.core).shardBase
  | _ => none

/-- The CSRs that every CT has: its own, the identity and the trap registers. -/
def State.csrThread (s : State) (n : Nat) : Option Word :=
  let a := s.arch s.cur.core
  let tr := a.trap
  match n with
  | 2 => some s.thr.srnd
  | 4 => some a.scaleBase
  | 0x60 => some tr.cause
  | 0x61 => some tr.blk
  | 0x62 => some tr.off
  | 0x63 => some tr.info
  | 0x64 => some tr.vec
  | 0x65 => some (setFld tr.stat 2 2 (b2n (s.isSup s.cur.core)))
  | 0x66 => some tr.save0
  | 0x67 => some tr.save1
  | _ => if 0x40 ≤ n && n < 0x4D then some (a.ids.get n 0) else none

/-- A CSR as a CT reads it; none where it cannot. In a steward the numbers 0x200–0x2FF are its die's registers (07 R246). -/
def State.csrCt (s : State) (n : Nat) : Option Word :=
  let c := s.cur.core
  let x := s.cx c
  let a := x.arch
  match s.csrThread n with
  | some v => some v
  | none =>
    if s.atSteward then (if 0x200 ≤ n && n < 0x300 && dieHas (8 * (n - 0x200)) then some (s.dieRead (dieOf c) (8 * (n - 0x200))) else none)
    else match n with
      | 0x50 => some a.ctEvt
      | 0x51 => some a.gangStat
      | 0x52 => some (s.core c).ctxStat
      | 0x68 => some a.chkCtl
      | 0x69 => some (s.chkStat c)
      | 0x6A => some a.chkExt
      | 0x100 => some a.cpyAp
      -- reserved bits that `mset` stored show (DESIGN CHOICE, log 148)
      | 0x120 => some a.mcfg0
      | 0x121 => some a.mcfg1
      | 0x122 => some a.mcfg2
      | 0x123 => some a.mxp
      | 0x124 => some (s.matStatOf c)
      | 0x125 => some (BitVec.ofNat 64 x.accn)
      | 0x140 => some x.domId
      | 0x141 => some x.domPhase
      | 0x160 => some x.damStat
      | 0x180 => some a.shardBase
      | 0x332 => some x.pcsPtr
      | 0x342 => some x.trcPtr
      | n => if dbgCsr n then some (a.dbg.get n 0) else none

/-- A CSR as the acting thread reads it; none is cause 0x13. -/
def State.csr (s : State) (n : Nat) : Option Word := if s.isCt then s.csrCt n else s.csrMt n

/-! ## Writing -/

/-- The field map marks the CSR privileged for `csrw` (06 R190, R192, R216; 07 R228; 12 R373; 13 R397). A register whose fields are
all RO is not. -/
def csrPriv (n : Nat) : Bool :=
  (decide (0x60 ≤ n) && decide (n ≤ 0x68)) || n == 0x6A || n == 0x100 || n == 0x180 ||
    (dbgCsr n && n != 0x332 && n != 0x342)

/-- A write by an MT: none is cause 0x13. -/
def State.csrwMt (s : State) (n : Nat) (v : Word) : Option State :=
  match n with
  | 0 => some (s.setMt { s.mt with fmtCtl := writeFmtCtl s.mt.fmtCtl v })
  | 1 => some s
  | 2 => some (s.upThr (fun t => { t with srnd := v }))
  | 3 => some (s.setMt { s.mt with bank := v.setWidth 32 })
  | _ => none

/-- The value that a trap register holds after a write (06 R216). -/
def TrapRegs.write (tr : TrapRegs) (n : Nat) (v : Word) : TrapRegs :=
  let keep := fun (mask : Nat) => v &&& BitVec.ofNat 64 mask
  match n with
  | 0x60 => { tr with cause := keep (fieldMask 8 0) }
  | 0x61 => { tr with blk := keep (fieldMask 55 3) }
  | 0x62 => { tr with off := keep (fieldMask 5 0 + fieldMask 11 8) }
  | 0x63 => { tr with info := v }
  | 0x64 => { tr with vec := keep (fieldMask 55 3) }
  | 0x65 => { tr with stat := keep (fieldMask 1 0) }
  | 0x66 => { tr with save0 := v }
  | 0x67 => { tr with save1 := v }
  | _ => tr

/-- The value that a debug CSR holds after a write (13 R397, R400, R402). Of LOGN in `PCS_BUF` and `TRC_BUF` the tables say 8 to 20 and
give no fate for another value: the field keeps its value, the model's choice (DESIGN CHOICE, log 45). -/
def State.dbgWrite (s : State) (n : Nat) (old v : Word) : Word :=
  let m := mergeReg 0 v
  if n = 0x300 then
    let w := m (fieldMask 9 0)
    if fld v 9 5 ≤ 16 then w else setFld w 9 5 (fld old 9 5)
  else if n < 0x318 then m (1 + fieldMask 55 1)
  else if n < 0x320 then m (fieldMask 16 0)
  else if n < 0x324 then m (fieldMask 2 0 + fieldMask 55 6)
  else if n < 0x328 then m (fieldMask 55 6)
  else if n < 0x330 then m (fieldMask 16 0)
  else if n = 0x330 then
    let w := keepRange old v (m (1 + fieldMask 31 8)) 31 8 64 (2 ^ 24 - 1)
    if s.feature 15 then w else setFld w 0 0 0
  else if n = 0x340 then (if s.feature 14 then m (fieldMask 5 0) else m (fieldMask 5 1))
  else keepRange old v (m (1 + fieldMask 5 1 + fieldMask 55 12)) 5 1 8 20

/-- The value of `CHK_CTL` after a write (06 R190). -/
def chkCtlWrite (old v : Word) : Word := keepRange old v (mergeReg 0 v (fieldMask 14 0 + fieldMask 20 16)) 14 0 256 16384

/-- A write by a CT to a CSR that it can access; a register whose fields are all RO ignores it (00 R5). -/
def State.csrwCt (s : State) (n : Nat) (v : Word) : State :=
  let c := s.cur.core
  let a := s.arch c
  match n with
  | 2 => s.upThr (fun t => { t with srnd := v })
  | 4 => s.setArch c { a with scaleBase := v &&& BitVec.ofNat 64 (fieldMask 20 6) }
  | 0x68 => s.setArch c { a with chkCtl := chkCtlWrite a.chkCtl v }
  | 0x6A => s.setArch c { a with chkExt := v &&& BitVec.ofNat 64 (1 + fieldMask 55 20) }
  | 0x100 => s.setArch c { a with cpyAp := v &&& BitVec.ofNat 64 (1 + fieldMask 55 12) }
  | 0x180 => s.setArch c { a with shardBase := v &&& BitVec.ofNat 64 (fieldMask 55 14) }
  | 0x332 => s
  | 0x342 => s
  | n =>
    if 0x60 ≤ n && n ≤ 0x67 then s.setArch c { a with trap := a.trap.write n v }
    else if 0x200 ≤ n && n < 0x300 then s.dieWrite (dieOf c) (8 * (n - 0x200)) v
    else if dbgCsr n then
      let s := if n = 0x330 && fld (a.dbg.get n 0) 0 0 = 0 then s.upCx c (fun x => { x with pcsAt := s.cycle }) else s
      s.setArch c { a with dbg := a.dbg.set n (s.dbgWrite n (a.dbg.get n 0) v) 0 }
    else s

/-! ## The instructions (03 R107) -/

/-- CSR number: the immediate of 6 or 17 bits. -/
def csrNo (p : Pfx) (f : FI) : Nat := uimm p 6 f.i.toNat

/-- The checks of both instructions. R107 says that w is 6 or 17 bits: with two to four IMM prefixes, for which it gives no cause, the
model takes the immediate of every width and applies the range check (DESIGN CHOICE, log 115). -/
def csrRules (p : Pfx) (f : FI) : Rules := { imm := true, range := decide (0x3FF < csrNo p f), named := [f.d.toNat] }

/-- Both instructions wait for every earlier instruction of the thread. -/
def State.csrWait (s : State) (body : State → Res) : Res :=
  if s.thr.far.isEmpty then body s else .error (.wait .results)

/-- `csrr`. -/
def execCsrr (p : Pfx) (f : FI) (s : State) : Ans :=
  s.instr p (fun _ => csrRules p f) (fun s =>
    match s.csr (csrNo p f) with
    | none => .error (.cause 0x13 0)
    | some _ => s.csrWait (fun s => next (s.setX f.d.toNat ((s.csr (csrNo p f)).getD 0))))

/-- `csrw`. -/
def execCsrw (p : Pfx) (f : FI) (s : State) : Ans :=
  s.instr p (fun _ => csrRules p f) (fun s =>
    let n := csrNo p f
    let v := s.x f.d.toNat
    match s.csr n with
    | none => .error (.cause 0x13 0)
    | some _ =>
      if s.isCt then
        if csrPriv n && !s.isSup s.cur.core then .error (.cause 0x0F 0) else s.csrWait (fun s => next (s.csrwCt n v))
      else match s.csrwMt n v with
        | none => .error (.cause 0x13 0)
        | some s' => s.csrWait (fun _ => next s'))

end Sys2Proof.Machine
end

