-- ==== Sys2Proof/Machine/Hbm.lean ====
section
/-! DEFINITION. The HBM controllers: patrol scrubbing and refresh (10 R329–R332). The channel or stack of the acting die that an
event concerns is `State.cur.unit`: channel 32 × stack + number in the stack. -/
namespace Sys2Proof.Machine

/-! ## Scrubbing (R329, R330) -/

/-- SCRUB_PASS: the channel's scrubber reads a granule; the event's number says what the code finds (log 18): arg[1:0] 0 no error, 1 an
error that is corrected, 2 an uncorrectable one; arg[3:2] the granule's class; arg[55:4] its PA. -/
def execScrubPass (s : State) : Ans :=
  let die := dieOf s.cur.core
  let v := s.cur.arg
  let pa := bits v 55 4
  let r : ErrRec := { die := die, cause := 0xD0, outcome := 3, pkgu := true, loc := pa }
  if fld (s.dieReg die 0x038) 0 0 = 0 then .next s
  else match bits v 1 0 with
    | 1 => .next ((s.schedScrub (die * 256 + s.cur.unit) pa (bits v 3 2)).logErr r)
    | 2 => .next ((s.poisonGranule pa (bits v 3 2)).logErr { r with cause := 0xD2 })
    | _ => .next s

/-- SCRUB_WRITE: the channel's oldest scheduled write leaves its table. With tag 0 the corrected data is written, which the granule
already reads as; any other tag drops it. Both leave every byte as it is. -/
def execScrubWrite (s : State) : Ans :=
  match s.scrubs.findIdx? (fun e => e.chan == dieOf s.cur.core * 256 + s.cur.unit) with
  | some i => .next { s with scrubs := s.scrubs.eraseIdx i }
  | none => .next s

/-! ## Refresh (R331, R332) -/

/-- The credit K of a channel of a die, 2 at the start (log 31). -/
def State.credit (s : State) (die chan : Nat) : Nat := s.credits.get (die * 2 ^ 16 + chan) 2

/-- The cycle of the last heartbeat of a stack. -/
def State.lastBeat (s : State) (die stack : Nat) : Nat := s.beats.get (die * 8 + stack) 0

/-- The memory controller refreshes a stack: it has taken over, or MGMT = 0. -/
def State.ctlRefresh (s : State) (die stack : Nat) : Bool :=
  fld (s.dieReg die 0x040) 0 0 == 0 || s.refTaken.contains (die * 8 + stack)

/-- K after a tREFI in which the management core issued the refresh of `n` intervals: it keeps K between 2 and 8, a controller that
has taken over issues refresh while K is below 2 and then holds it between 2 and 3 (R332): one interval at a time brings K down, and
none is issued above 2; while neither does, K falls. -/
def State.creditNext (s : State) (die chan n : Nat) : Nat :=
  let k := s.credit die chan
  if s.ctlRefresh die (chan / 32) then max 2 (k - 1)
  else if s.cycle < s.lastBeat die (chan / 32) + 2 * usCycles then min 8 (max 2 (k - 1 + n))
  else k - 1

/-- REFRESH_INTERVAL: a tREFI of a channel is over. -/
def execRefreshInterval (s : State) : Ans :=
  let die := dieOf s.cur.core
  let ch := s.cur.unit
  .next { s with credits := s.credits.put (die * 2 ^ 16 + ch) (s.creditNext die ch s.cur.arg) }

/-- HEARTBEAT of the management core of a stack. -/
def execHeartbeat (s : State) : Ans :=
  .next { s with beats := s.beats.put (dieOf s.cur.core * 8 + s.cur.unit) s.cycle }

/-- REFRESH_TAKEOVER: two consecutive heartbeats of a stack are missed: the controller takes over its refresh, and logs it. -/
def execRefreshTakeover (s : State) : Ans :=
  let die := dieOf s.cur.core
  let st := s.cur.unit
  if s.ctlRefresh die st || s.cycle < s.lastBeat die st + 2 * usCycles then .next s
  else
    let s := { s with refTaken := (die * 8 + st) :: s.refTaken }
    let s := s.setDieReg die 0x040 (setFld (setFld (s.dieReg die 0x040) 1 1 1) 4 2 st)
    .next (s.logErr { die := die, cause := 0xD0, outcome := 3, pkgu := true, loc := st })

end Sys2Proof.Machine
end

