-- ==== Sys2Proof/Machine/Integer.lean ====
section
/-! DEFINITION. Integer arithmetic on scalar registers (03 R79–R83). -/
namespace Sys2Proof.Machine

/-- A binary integer instruction: xd := op a b (03 R79). -/
def State.binary (s : State) (p : Pfx) (f : FA) (op : Word → Word → Word) : Ans :=
  s.instr p (fun _ => binRules p f) (fun s => next (s.setX f.d.toNat (op (s.opA p f) (s.opB p f))))

/-- A unary instruction without prefixes: xd := op xs (03 R79, R81). -/
def State.unary (s : State) (p : Pfx) (f : FA) (op : Word → Word) : Ans :=
  s.instr p (fun _ => { named := [f.d.toNat, f.s.toNat] }) (fun s => next (s.setX f.d.toNat (op (s.x f.s.toNat))))

/-! ## The results (03 R80) -/

/-- Shift amount: b[5:0]. -/
def shAmt (b : Word) : Nat := b.toNat % 64
def opShl (a b : Word) : Word := a <<< shAmt b
def opShr (a b : Word) : Word := a >>> shAmt b
def opSar (a b : Word) : Word := a.sshiftRight (shAmt b)
/-- Bits 127:64 of the signed product. -/
def opMulh (a b : Word) : Word := wordOfInt (a.toInt * b.toInt / (2 ^ 64 : Nat))
/-- Bits 127:64 of the unsigned product. -/
def opMulhn (a b : Word) : Word := BitVec.ofNat 64 (a.toNat * b.toNat / 2 ^ 64)
/-- Signed quotient, truncated toward zero; all ones for a divisor of 0. -/
def opDiv (a b : Word) : Word := if b = 0 then BitVec.allOnes 64 else wordOfInt (a.toInt.tdiv b.toInt)
/-- Unsigned quotient. -/
def opDivn (a b : Word) : Word := if b = 0 then BitVec.allOnes 64 else BitVec.ofNat 64 (a.toNat / b.toNat)
/-- Signed remainder, with the dividend's sign; the dividend for a divisor of 0. -/
def opRem (a b : Word) : Word := if b = 0 then a else wordOfInt (a.toInt.tmod b.toInt)
/-- Unsigned remainder. -/
def opRemn (a b : Word) : Word := if b = 0 then a else BitVec.ofNat 64 (a.toNat % b.toNat)
def opMin (a b : Word) : Word := if a.toInt ≤ b.toInt then a else b
def opMinn (a b : Word) : Word := if a.toNat ≤ b.toNat then a else b
def opMax (a b : Word) : Word := if b.toInt ≤ a.toInt then a else b
def opMaxn (a b : Word) : Word := if b.toNat ≤ a.toNat then a else b

/-- `add` (03 R80). -/
def execAdd (p : Pfx) (f : FA) (s : State) : Ans := s.binary p f (fun a b => a + b)
/-- `sub` (03 R80). -/
def execSub (p : Pfx) (f : FA) (s : State) : Ans := s.binary p f (fun a b => a - b)
/-- `and` (03 R80). -/
def execAnd (p : Pfx) (f : FA) (s : State) : Ans := s.binary p f (fun a b => a &&& b)
/-- `or` (03 R80). -/
def execOr (p : Pfx) (f : FA) (s : State) : Ans := s.binary p f (fun a b => a ||| b)
/-- `xor` (03 R80). -/
def execXor (p : Pfx) (f : FA) (s : State) : Ans := s.binary p f (fun a b => a ^^^ b)
/-- `andn` (03 R80). -/
def execAndn (p : Pfx) (f : FA) (s : State) : Ans := s.binary p f (fun a b => a &&& ~~~b)
/-- `mov` (03 R79). -/
def execMov (p : Pfx) (f : FA) (s : State) : Ans := s.unary p f (fun a => a)
/-- `shl` (03 R80). -/
def execShl (p : Pfx) (f : FA) (s : State) : Ans := s.binary p f opShl
/-- `shr` (03 R80). -/
def execShr (p : Pfx) (f : FA) (s : State) : Ans := s.binary p f opShr
/-- `sar` (03 R80). -/
def execSar (p : Pfx) (f : FA) (s : State) : Ans := s.binary p f opSar
/-- `mul` (03 R80). -/
def execMul (p : Pfx) (f : FA) (s : State) : Ans := s.binary p f (fun a b => a * b)
/-- `mulh` (03 R80). -/
def execMulh (p : Pfx) (f : FA) (s : State) : Ans := s.binary p f opMulh
/-- `mulhn` (03 R80). -/
def execMulhn (p : Pfx) (f : FA) (s : State) : Ans := s.binary p f opMulhn
/-- `div` (03 R80). -/
def execDiv (p : Pfx) (f : FA) (s : State) : Ans := s.binary p f opDiv
/-- `divn` (03 R80). -/
def execDivn (p : Pfx) (f : FA) (s : State) : Ans := s.binary p f opDivn
/-- `rem` (03 R80). -/
def execRem (p : Pfx) (f : FA) (s : State) : Ans := s.binary p f opRem
/-- `remn` (03 R80). -/
def execRemn (p : Pfx) (f : FA) (s : State) : Ans := s.binary p f opRemn
/-- `min` (03 R80). -/
def execMin (p : Pfx) (f : FA) (s : State) : Ans := s.binary p f opMin
/-- `minn` (03 R80). -/
def execMinn (p : Pfx) (f : FA) (s : State) : Ans := s.binary p f opMinn
/-- `max` (03 R80). -/
def execMax (p : Pfx) (f : FA) (s : State) : Ans := s.binary p f opMax
/-- `maxn` (03 R80). -/
def execMaxn (p : Pfx) (f : FA) (s : State) : Ans := s.binary p f opMaxn
/-- `clz` (03 R81). -/
def execClz (p : Pfx) (f : FA) (s : State) : Ans := s.unary p f (fun a => BitVec.ofNat 64 (clz64 a.toNat))
/-- `ctz` (03 R81). -/
def execCtz (p : Pfx) (f : FA) (s : State) : Ans := s.unary p f (fun a => BitVec.ofNat 64 (ctz64 a.toNat))
/-- `popc` (03 R81). -/
def execPopc (p : Pfx) (f : FA) (s : State) : Ans := s.unary p f (fun a => BitVec.ofNat 64 (popcN a.toNat 64))

/-- Position and length of a bit field (03 R82). -/
def fieldPos (p : Pfx) : Nat := bits (uimm p 0 0) 5 0
def fieldLen (p : Pfx) : Nat := bits (uimm p 0 0) 12 6
/-- The checks of `bext` and `bins` (03 R82). -/
def fieldRules (p : Pfx) (f : FA) : Rules :=
  { imm := true, lack := !hasImm p
    range := decide (8192 ≤ uimm p 0 0) || fieldLen p == 0 || decide (64 < fieldPos p + fieldLen p)
    named := [f.d.toNat, f.s.toNat] }

/-- `bext` (03 R82). -/
def execBext (p : Pfx) (f : FA) (s : State) : Ans :=
  s.instr p (fun _ => fieldRules p f) (fun s =>
    next (s.setX f.d.toNat (zextW ((s.x f.s.toNat).toNat >>> fieldPos p) (fieldLen p))))
/-- `bins` (03 R82). -/
def execBins (p : Pfx) (f : FA) (s : State) : Ans :=
  s.instr p (fun _ => fieldRules p f) (fun s =>
    next (s.setX f.d.toNat (setFld (s.x f.d.toNat) (fieldPos p + fieldLen p - 1) (fieldPos p) (s.x f.s.toNat).toNat)))

/-- `li` (03 R83). -/
def execLi (p : Pfx) (f : FI) (s : State) : Ans :=
  s.instr p (fun _ => { imm := true, named := [f.d.toNat] }) (fun s =>
    next (s.setX f.d.toNat (wordOfInt (simm p 6 f.i.toNat))))
/-- `addi` (03 R83). -/
def execAddi (p : Pfx) (f : FI) (s : State) : Ans :=
  s.instr p (fun _ => { imm := true, named := [f.d.toNat] }) (fun s =>
    next (s.setX f.d.toNat (s.x f.d.toNat + wordOfInt (simm p 6 f.i.toNat))))

end Sys2Proof.Machine
end

