-- ==== Sys2Proof/Machine/VecMove.lean ====
section
/-! DEFINITION. Movement of elements, lines, address registers and masks (04 R148–R154). -/
namespace Sys2Proof.Machine

/-- Types that `vmov` accepts (R127). -/
def vmovType (t : Nat) : Bool := tagIsPlain t || tagIsMx t || t == tagE8m0 || tagIsBx t

/-- The blocks that an operand's elements lie in, as scale-byte indices of its group. -/
def Opnd.blocks (o : Opnd) : List Nat :=
  let b := blockElems o.ty
  (List.range ((o.first + o.n - 1) / b + 1 - o.first / b)).map (fun k => o.first / b + k)

/-- `vmov` (R148). -/
def execVmov (p : Pfx) (f : FV) (s : State) : Ans :=
  s.vinstr p f (vRules p f true (f.b != 0) true false false false)
    { srcs := [⟨f.a.toNat, none⟩], dst := some f.d.toNat, accept := vmovType, copies := true } (fun s q =>
      match q.srcs, q.dst with
      | [a], some o =>
        let sp := s.paired a
        let cs := s.masked p (s.codes a)
        let scs := a.blocks.map (fun k => (s.vault.read (a.spot.core * 2 ^ 21 + (s.unitSpot a).phys + k)).toNat)
        let s' := if sp then (o.blocks.zip scs).foldl (fun q e => q.putScale o e.1 e.2) s else s
        (s', cs, 0, sp)
      | _, _ => (s, [], 0, false))

/-- `vbcast` (R149). -/
def execVbcast (p : Pfx) (f : FAZ) (r : BitVec 3) (t : BitVec 6) (s : State) : Ans :=
  s.instr p (fun _ => { undef := decide (1 < f.z.toNat), who := .mt
                        bad := decide (7 < f.d.toNat) || r != 7 || decide (32 ≤ t.toNat), named := [f.s.toNat] })
    (fun s =>
      let k := t.toNat
      let n := if f.z = 0 then 32 else 16
      let a := s.adr f.d.toNat
      if tagIsBx k && !s.feature 1 then .error (.cause 0x1F 0)
      else if k = 0 then .error (.cause 0x25 0)
      else if tagReserved k then .error (.cause 0x22 0)
      else if !tagIsPlain k then .error (.cause 0x24 0)
      else match s.baseSpot a 1 with
        | .error e => .error e
        | .ok q =>
          match s.geometry q a k n 1 false with
          | .error e => .error e
          | .ok o =>
            match s.openOpnd o false false true with
            | .error e => .error e
            | .ok s =>
              let c := (s.x f.s.toNat).toNat % 2 ^ elemBits k
              next ((s.putCodes o (List.replicate n (some c))).tagLines o false))

/-- `vperm` (R150). -/
def execVperm (p : Pfx) (f : FV) (s : State) : Ans :=
  s.vinstr p f (vRules p f true false true false false false)
    { srcs := [⟨f.a.toNat, none⟩, ⟨f.b.toNat, some tagI8⟩], dst := some f.d.toNat, accept := tagIsPlain } (fun s q =>
      let c := fun i => (q.srcs[i]?.map s.codes).getD []
      let a := c 0
      (s, s.masked p ((c 1).map (fun i => if i < vLen f then a.getD i 0 else 0)), 0, false))

/-- Element `i` of the result of `vshuf` with sub-operation `o` (R151). -/
def shufAt (o : Nat) (a b : List Nat) (i : Nat) : Nat :=
  match o with
  | 0 => (if i % 2 = 0 then a else b).getD (i / 2) 0
  | 1 => (if i % 2 = 0 then a else b).getD (16 + i / 2) 0
  | 2 => (if i < 16 then a else b).getD (2 * (i % 16)) 0
  | _ => (if i < 16 then a else b).getD (2 * (i % 16) + 1) 0

/-- `vshuf` (R151). -/
def execVshuf (p : Pfx) (f : FV) (o : BitVec 2) (s : State) : Ans :=
  s.vinstr p f (vRules p f false false true false false false)
    { srcs := [⟨f.a.toNat, none⟩, ⟨f.b.toNat, none⟩], dst := some f.d.toNat, accept := tagIsPlain } (fun s q =>
      let c := fun i => (q.srcs[i]?.map s.codes).getD []
      (s, s.masked p ((List.range 32).map (shufAt o.toNat (c 0) (c 1))), 0, false))

/-! ## Single elements (R152) -/

/-- The checks of `vext` and `vins` on the operand at address register `r`: the state in which both source lines, the first one and that
of element `j`, are open for reading, the place of element `j`, and the type. A reserved code of the
expected type, for which R152 names neither cause nor place, raises 0x22 before the address is checked (DESIGN CHOICE, log 118). -/
def State.elemSpot (s : State) (r t j kind : Nat) : Except Stop (State × Spot × Nat) :=
  let a := s.adr r
  if tagIsBx t && !s.feature 1 then .error (.cause 0x1F 0)
  else if tagReserved t then .error (.cause 0x22 0)
  else match s.baseSpot a kind with
    | .error e => .error e
    | .ok q => match s.openLine s.cur.core q 1 true false with
    | .error e => .error e
    | .ok s =>
      let l0 := (s.lineTag q.core (q.phys / 64)).tag
      let k := if t = 0 then l0 else t
      if k = 0 then .error (.cause 0x25 0)
      else if tagIsBx k && !s.feature 1 then .error (.cause 0x1F 0)
      else if !opAligned k 32 q.off then .error (accessFault kind 0 a)
      else
        let e := q.off + j * elemBits k / 8
        match s.inside (e / 64 * 64) (e / 64 * 64 + 64) a kind with
        | .error x => .error x
        | .ok _ => match s.openLine s.cur.core (q.at e) 1 true false with
        | .error x => .error x
        | .ok s =>
          let q' := q.at e
          let l1 := (s.lineTag q'.core (q'.phys / 64)).tag
          let own := [l0, l1].filter (· != 0)
          let common := own.headD k
          if own.any (· != common) then .error (.cause 0x20 0)
          else if common ≠ k then .error (.cause 0x21 0)
          else if !tagIsPlain k then .error (.cause 0x24 0)
          else .ok (s, q', k)

/-- `vext` (R152). -/
def execVext (p : Pfx) (f : FAZ) (r : BitVec 3) (t : BitVec 6) (s : State) : Ans :=
  s.instr p (fun _ => { undef := decide (1 < f.z.toNat), who := .mt, imm := true
                        bad := decide (7 < f.s.toNat) || r != 7 || decide (32 ≤ t.toNat), range := decide (31 < immBits p)
                        named := [f.d.toNat] })
    (fun s =>
      match s.elemSpot f.s.toNat t.toNat (immBits p) 0 with
      | .error e => .error e
      | .ok (s, q, k) =>
        match s.spRead s.cur.core q (elemBits k / 8) with
        | .error e => .error e
        | .ok (s, bs) => next (s.setX f.d.toNat (extend (f.z == 0) (elemBits k / 8) bs)))

/-- `vins` (R152): the line takes the type's tag. -/
def execVins (p : Pfx) (f : FAZ) (r : BitVec 3) (t : BitVec 6) (s : State) : Ans :=
  s.instr p (fun _ => { undef := f.z != 0, who := .mt, imm := true
                        bad := decide (7 < f.d.toNat) || r != 7 || decide (32 ≤ t.toNat), range := decide (31 < immBits p)
                        named := [f.s.toNat] })
    (fun s =>
      match s.elemSpot f.d.toNat t.toNat (immBits p) 1 with
      | .error e => .error e
      | .ok (s, q, k) =>
        match s.spWrite s.cur.core q (toBytes (elemBits k / 8) (s.x f.s.toNat).toNat) with
        | .error e => .error e
        | .ok s => next (s.setLineTag q.core (q.phys / 64) ⟨k, false⟩))

/-! ## Lines (R153) -/

/-- Tags that `vld` may name. -/
def vldType (t : Nat) : Bool := tagIsPlain t || t == tagE4m3 || t == tagE5m2 || t == tagE2m1 || t == tagMxi8 || t == tagE8m0

/-- The address of `vld` and `vst`, formed without an index. -/
def State.vlva (s : State) (p : Pfx) (f : FAZ) : Nat := (s.x f.s.toNat + wordOfInt (simm p 0 0)).toNat

/-- The checks that stand before the effect of both. -/
def vlRules (f : FAZ) (r : BitVec 3) (bad : Bool) : Rules :=
  { undef := f.z != 0, who := .mt, imm := true, bad := decide (7 < f.d.toNat) || r != 7 || bad
    named := [f.s.toNat] }

/-- The VA of `vld` or `vst` lies in a region whose feature is not enabled: 0x1F, first among its own faults (13 R395). -/
def State.vlOff (s : State) (p : Pfx) (f : FAZ) : Bool := decide (s.vlva p f < 2 ^ 56) && s.regionOff (s.vlva p f)

/-- The scratchpad line of `vld` and `vst`. -/
def State.vlLine (s : State) (f : FAZ) (kind : Nat) : Except Stop Spot :=
  let a := s.adr f.d.toNat
  match s.baseSpot a kind with
  | .error e => .error e
  | .ok q => if a % 64 ≠ 0 then .error (accessFault kind 0 a) else .ok q

/-- `vld` (R153). -/
def execVld (p : Pfx) (f : FAZ) (r : BitVec 3) (t : BitVec 6) (s : State) : Ans :=
  s.instr p (fun _ => vlRules f r (decide (32 ≤ t.toNat))) (fun s =>
    let k := t.toNat
    if (tagIsBx k && !s.feature 1) || s.vlOff p f then .error (.cause 0x1F 0)
    else if tagReserved k then .error (.cause 0x22 0)
    else if !vldType k then .error (.cause 0x24 0)
    else match s.vlLine f 1 with
      | .error e => .error e
      | .ok q =>
        match s.memLoad (s.vlva p f) 64 64 with
        | .error e => .error e
        | .ok (s, bs) =>
          match s.spWrite s.cur.core q bs with
          | .error e => .error e
          | .ok s => next (s.setLineTag q.core (q.phys / 64) ⟨k, false⟩))

/-- `vst` (R153). -/
def execVst (p : Pfx) (f : FAZ) (r : BitVec 3) (t : BitVec 6) (s : State) : Ans :=
  s.instr p (fun _ => vlRules f r (t != 0)) (fun s =>
    if s.vlOff p f then .error (.cause 0x1F 0)
    else match s.vlLine f 0 with
    | .error e => .error e
    | .ok q =>
      match s.spRead s.cur.core q 64 with
      | .error e => .error e
      | .ok (s, bs) =>
        match s.memStore (s.vlva p f) 64 bs with
        | .error e => .error e
        | .ok s => next s)

/-! ## Address registers and masks (R154) -/

/-- The checks of `aadd`, `ali` and `amov`. -/
def amRules (r : BitVec 3) (imm bad : Bool) (named : List Nat) : Rules :=
  { who := .mt, imm := imm, bad := bad || r != 7, named := named }

/-- The low 32 bits of an integer. -/
def a32 (i : Int) : BitVec 32 := BitVec.ofInt 32 i
/-- Sets an address register of the acting MT. -/
def State.setAr (s : State) (n : Nat) (v : BitVec 32) : State := s.setMt (s.mt.setA n v)

/-- `aadd ad, xs` (R154). -/
def execAaddX (p : Pfx) (f : FA) (r : BitVec 3) (s : State) : Ans :=
  s.instr p (fun _ => amRules r true (decide (7 < f.d.toNat)) [f.s.toNat]) (fun s =>
    next (s.setAr f.d.toNat (s.mt.getA f.d.toNat + (s.x f.s.toNat).setWidth 32 + a32 (simm p 0 0))))
/-- `aadd ad, as` (R154). -/
def execAaddA (p : Pfx) (f : FA) (r : BitVec 3) (s : State) : Ans :=
  s.instr p (fun _ => amRules r true (decide (7 < f.d.toNat) || decide (7 < f.s.toNat)) []) (fun s =>
    next (s.setAr f.d.toNat (s.mt.getA f.d.toNat + s.mt.getA f.s.toNat + a32 (simm p 0 0))))
/-- `ali` (R154): at most three IMM prefixes. -/
def execAli (p : Pfx) (f : FI) (r : BitVec 3) (s : State) : Ans :=
  s.instr p (fun _ => { amRules r true (decide (7 < f.d.toNat)) [] with range := decide (3 < p.imms.length) }) (fun s =>
    next (s.setAr f.d.toNat (a32 (simm p 6 f.i.toNat))))
/-- `amov ad, xs` (R154). -/
def execAmovAx (p : Pfx) (f : FA) (r : BitVec 3) (s : State) : Ans :=
  s.instr p (fun _ => amRules r false (decide (7 < f.d.toNat)) [f.s.toNat]) (fun s =>
    next (s.setAr f.d.toNat ((s.x f.s.toNat).setWidth 32)))
/-- `amov xd, as` (R154). -/
def execAmovXa (p : Pfx) (f : FA) (r : BitVec 3) (s : State) : Ans :=
  s.instr p (fun _ => amRules r false (decide (7 < f.s.toNat)) [f.d.toNat]) (fun s =>
    next (s.setX f.d.toNat ((s.mt.getA f.s.toNat).setWidth 64)))
/-- `amov md, xs` (R154). -/
def execAmovMx (p : Pfx) (f : FA) (r : BitVec 3) (s : State) : Ans :=
  s.instr p (fun _ => amRules r false (decide (3 < f.d.toNat)) [f.s.toNat]) (fun s =>
    next (s.setMt (s.mt.setM f.d.toNat ((s.x f.s.toNat).setWidth 32))))
/-- `amov xd, ms` (R154). -/
def execAmovXm (p : Pfx) (f : FA) (r : BitVec 3) (s : State) : Ans :=
  s.instr p (fun _ => amRules r false (decide (3 < f.s.toNat)) [f.d.toNat]) (fun s =>
    next (s.setX f.d.toNat ((s.mt.getM f.s.toNat).setWidth 64)))

end Sys2Proof.Machine
end

