-- ==== Sys2Proof/Machine/Special.lean ====
section
/-! DEFINITION. The special functions (04 R139, R140): exact or to more than 100 bits, then rounded to 48 significant
bits. -/
namespace Sys2Proof.Machine

/-- Working precision: fixed point with 400 fraction bits. -/
abbrev fxP : Nat := 400
/-- floor(π × 2^640). -/
def fxPi : Nat := 0x3243f6a8885a308d313198a2e03707344a4093822299f31d0082efa98ec4e6c89452821e638d01377be5466cf34e90c6cc0ac29b7c97c50dd3f84d5b5b54709179216d5d98979fb1bd1310ba698dfb5ac
/-- floor(ln 2 × 2^640). -/
def fxLn2 : Nat := 0xb17217f7d1cf79abc9e3b39803f2f6af40f343267298b62d8a0d175b8baafa2be7b876206debac98559552fb4afa1b10ed2eae35c138214427573b291169b8253e96ca16224ae8c51acbda11317c387e

/-- A result of a special function: the value A, its flags, and whether A differs from the exact value. -/
structure Fn where
  a : Num
  fl : Flags := 0
  more : Bool := false
deriving DecidableEq, Repr

/-- N × 2^q rounded to nearest to 48 significant bits. N is f(x) to within 2^16 of its last places, of which there are more than 200:
only where a tie stands nearer than that is the rounding free (log 14). No f(x) is itself a tie. -/
def near48 (key : Nat) (neg : Bool) (n : Nat) (q : Int) : Num :=
  if n.log2 < 48 then .fin neg n q false
  else
    let sh := n.log2 - 47
    let rem := n % 2 ^ sh
    let half := 2 ^ (sh - 1)
    let gap := if half ≤ rem then rem - half else half - rem
    let up := if gap < 2 ^ 16 then Config.freeRound key n else decide (half < rem)
    .fin neg (n / 2 ^ sh + b2n up) (q + sh) false

/-- Σ of e^r for 0 ≤ r < 1 in fixed point. -/
def expSum (r : Nat) : Nat → Nat → Nat → Nat
  | 0, _, _ => 0
  | n + 1, k, t => t + expSum r n (k + 1) (t * r / 2 ^ fxP / (k + 1))
/-- e^r. -/
def expFix (r : Nat) : Nat := expSum r 120 0 (2 ^ fxP)

/-- A magnitude m × 2^e in fixed point with `p` fraction bits. -/
def toFix (p m : Nat) (e : Int) : Nat :=
  if 0 ≤ e + p then m * 2 ^ (e + p).toNat else m / 2 ^ (-(e + p)).toNat

/-- e^x = M × 2^(n − 400) for x = ± m × 2^e. -/
def expNum (neg : Bool) (m : Nat) (e : Int) : Nat × Int :=
  if 12 ≤ e + (m.log2 : Int) then (2 ^ fxP, if neg then -8192 else 8192)
  else
    let x : Int := if neg then -(toFix fxP m e : Int) else (toFix fxP m e : Int)
    let n := (x * (2 ^ 240 : Nat)).fdiv (fxLn2 : Int)
    let r := x - (n * (fxLn2 : Int)).fdiv ((2 ^ 240 : Nat) : Int)
    (expFix r.toNat, n)

/-- 2^x (04 R140). -/
def fnExp2 (neg : Bool) (m : Nat) (e : Int) : Fn :=
  if m = 0 then ⟨.fin false 1 0 false, 0, false⟩
  else if 12 ≤ e + (m.log2 : Int) then ⟨.fin false 1 (if neg then -8192 else 8192) false, 0, false⟩
  else
    let x : Int := if neg then -(toFix fxP m e : Int) else (toFix fxP m e : Int)
    let n := x.fdiv ((2 ^ fxP : Nat) : Int)
    let fr := (x - n * (2 ^ fxP : Nat)).toNat
    if fr = 0 then ⟨.fin false 1 n false, 0, false⟩
    else ⟨near48 0x14 false (expFix (fr * fxLn2 / 2 ^ 640)) (n - fxP), 0, true⟩

/-- Σ of atanh z in fixed point, from power t of z on. -/
def atanhSum (z2 : Nat) : Nat → Nat → Nat → Nat
  | 0, _, _ => 0
  | n + 1, k, t => t / (2 * k + 1) + atanhSum z2 n (k + 1) (t * z2 / 2 ^ fxP)

/-- log2 of a positive m × 2^e (04 R140). -/
def fnLog2 (m : Nat) (e : Int) : Fn :=
  let l := m.log2
  let k := e + (l : Int)
  if m = 2 ^ l then ⟨if k = 0 then .zero false else .ofInt k, 0, false⟩
  else
    let y := toFix fxP m (-(l : Int))
    let z := (y - 2 ^ fxP) * 2 ^ fxP / (y + 2 ^ fxP)
    let fr : Nat := 2 * atanhSum (z * z / 2 ^ fxP) 140 0 z * 2 ^ 640 / fxLn2
    let v : Int := k * ((2 ^ fxP : Nat) : Int) + (fr : Int)
    ⟨near48 0x15 (decide (v < 0)) v.natAbs (-(fxP : Int)), 0, true⟩

/-- 1/x (04 R140). -/
def fnRcp (neg : Bool) (m : Nat) (e : Int) : Fn :=
  let s := m.log2 + 200
  ⟨near48 0x16 neg (2 ^ s / m) (-(s : Int) - e), 0, 2 ^ s % m != 0⟩

/-- m × 2^e with an even exponent. -/
def evenExp (m : Nat) (e : Int) : Nat × Int := if e % 2 = 0 then (m, e) else (2 * m, e - 1)

/-- 1/√x (04 R140). -/
def fnRsqrt (m : Nat) (e : Int) : Fn :=
  let v := evenExp m e
  ⟨near48 0x17 false (isqrt (2 ^ 600 / v.1)) (-300 - v.2 / 2), 0, !(v.1 == 2 ^ v.1.log2 && v.1.log2 % 2 == 0)⟩

/-- √x, exact (04 R140). -/
def fnSqrt (m : Nat) (e : Int) : Fn :=
  let v := evenExp m e
  let n := isqrt (v.1 * 2 ^ 160)
  ⟨.fin false n (v.2 / 2 - 80) (n * n != v.1 * 2 ^ 160), 0, false⟩

/-- tanh x (04 R140). -/
def fnTanh (neg : Bool) (m : Nat) (e : Int) : Fn :=
  let q := expNum true m (e + 1)
  let one := 2 ^ ((fxP : Int) - q.2).toNat
  ⟨near48 0x19 neg ((one - q.1) * 2 ^ fxP / (one + q.1)) (-(fxP : Int)), 0, true⟩

/-- 1/(1 + e^−x) (04 R140). -/
def fnSig (neg : Bool) (m : Nat) (e : Int) : Fn :=
  let q := expNum true m e
  let s := ((fxP : Int) - q.2).toNat
  let one := 2 ^ s
  if neg then ⟨near48 0x1A false (q.1 * 2 ^ s / (one + q.1)) (-(s : Int)), 0, true⟩
  else ⟨near48 0x1A false (one * 2 ^ fxP / (one + q.1)) (-(fxP : Int)), 0, true⟩

/-- Alternating Σ of r^k/k! in steps of two from term t of index k. -/
def trigSum (r2 : Nat) : Nat → Nat → Int → Int
  | 0, _, _ => 0
  | n + 1, k, t => t + trigSum r2 n (k + 2) (-((t * (r2 : Int)).tdiv ((2 ^ fxP : Nat) : Int)).tdiv (((k + 1) * (k + 2) : Nat) : Int))
/-- sin and cos of 0 ≤ r < 2. -/
def sinFix (r : Nat) : Nat := (trigSum (r * r / 2 ^ fxP) 70 1 (r : Int)).toNat
def cosFix (r : Nat) : Nat := (trigSum (r * r / 2 ^ fxP) 70 0 ((2 ^ fxP : Nat) : Int)).toNat

/-- The quadrant and the rest of a magnitude. -/
def reduceTrig (m : Nat) (e : Int) : Nat × Nat :=
  let x := toFix 640 m e * 2
  (x / fxPi, x % fxPi / 2 / 2 ^ 240)

/-- sin x (04 R140). -/
def fnSin (neg : Bool) (m : Nat) (e : Int) : Fn :=
  let q := reduceTrig m e
  let v := if q.1 % 2 = 0 then sinFix q.2 else cosFix q.2
  ⟨near48 0x1B (neg ^^ decide (2 ≤ q.1 % 4)) v (-(fxP : Int)), 0, true⟩
/-- cos x (04 R140). -/
def fnCos (m : Nat) (e : Int) : Fn :=
  let q := reduceTrig m e
  let v := if q.1 % 2 = 0 then cosFix q.2 else sinFix q.2
  ⟨near48 0x1C (q.1 % 4 == 1 || q.1 % 4 == 2) v (-(fxP : Int)), 0, true⟩

/-- The special functions by major opcode. -/
inductive SpFn where
  | exp2 | log2 | rcp | rsqrt | sqrt | tanh | sig | sin | cos
deriving DecidableEq, Repr

/-- An exact result. -/
def fnExact (v : Num) : Fn := ⟨v, 0, false⟩
/-- An invalid operation. -/
def fnInvalid : Fn := ⟨.dflt, fNV, false⟩

/-- The value of a function with its special cases (04 R140). -/
def SpFn.eval (k : SpFn) (v : Num) : Fn :=
  match v with
  | .nan .. => ⟨v.quiet, flagIf v.isSnan fNV, false⟩
  | .inf n =>
    match k with
    | .exp2 => fnExact (if n then .zero false else .inf false)
    | .log2 => if n then fnInvalid else fnExact (.inf false)
    | .rcp => fnExact (.zero n)
    | .rsqrt => if n then fnInvalid else fnExact (.zero false)
    | .sqrt => if n then fnInvalid else fnExact (.inf false)
    | .tanh => fnExact (.fin n 1 0 false)
    | .sig => fnExact (if n then .zero false else .fin false 1 0 false)
    | .sin | .cos => fnInvalid
  | .fin n m e _ =>
    if m = 0 then
      match k with
      | .exp2 | .cos => fnExact (.fin false 1 0 false)
      | .log2 => ⟨.inf true, fDZ, false⟩
      | .rcp | .rsqrt => ⟨.inf n, fDZ, false⟩
      | .sqrt | .tanh | .sin => fnExact (.zero n)
      | .sig => fnExact (.fin false 1 (-1) false)
    else match k with
      | .exp2 => fnExp2 n m e
      | .log2 => if n then fnInvalid else fnLog2 m e
      | .rcp => fnRcp n m e
      | .rsqrt => if n then fnInvalid else fnRsqrt m e
      | .sqrt => if n then fnInvalid else fnSqrt m e
      | .tanh => fnTanh n m e
      | .sig => fnSig n m e
      | .sin => fnSin n m e
      | .cos => fnCos m e

end Sys2Proof.Machine
end

