-- ==== Sys2Proof/Machine/Vector.lean ====
section
/-! DEFINITION. Elementwise vector arithmetic, comparison, selection, reductions and special functions (04 R132–R140). -/
namespace Sys2Proof.Machine

/-- How a result of the acting MT is rounded, with draw `z` (04 R128). -/
def State.vRnd (s : State) (f : FV) (z : Nat) : Rnd := ⟨s.vMode f, z, false, s.mt.fmtCtl.getLsbD 3⟩

/-- The floating format of a type; FP32 for a type that has none. -/
def fmtOr (t : Nat) : Fmt := (fmtOf t).getD fp32

/-! ## Elementwise (R132–R134) -/

/-- One elementwise operation on the integers, and on the values, of a, b and d. -/
structure EwOp where
  int : Nat → Int → Int → Int → Int
  num : RMode → Num → Num → Num → Num × Flags

/-- The wide type W(T) (R134). -/
def wideOf (t : Nat) : Nat :=
  if t = tagI8 || t = tagI16 then tagI32 else if t = tagF16 || t = tagBf16 then tagF32 else t

/-- The results of an elementwise operation: `dc` are the codes of the destination read as a source. -/
def State.ewCodes (s : State) (p : Pfx) (f : FV) (op : EwOp) (shift : Bool) (t dt : Nat) (zs ac bc dc : List Nat) :
    List (Nat × Flags) :=
  (List.range ac.length).map (fun j =>
    let a := ac.getD j 0
    let b := bc.getD j 0
    let d := dc.getD j 0
    if tagIsInt t then
      ((modOf p).int (elemBits dt) (vU p)
        (op.int (elemBits t) (intOf t (vU p) a) (if shift then (b : Int) else intOf t (vU p) b) (intOf dt (vU p) d)), 0)
    else
      (modOf p).apply (fmtOr dt) (s.vRnd f (zs.getD j 0))
        (op.num (s.vMode f) (elemNum t false 0x7F a) (elemNum t false 0x7F b) (elemNum dt false 0x7F d)))

/-- An elementwise instruction. -/
def State.ew (s : State) (p : Pfx) (f : FV) (r : Rules) (v : VForm) (op : EwOp) (shift : Bool) : Ans :=
  s.vinstr p f r v (fun s q =>
    match q.dst with
    | none => (s, [], 0, false)
    | some o =>
      let z := s.vdraws (v.rounds && !tagIsInt q.ty && s.vMode f == .sr) (vLen f)
      let c := fun i => (q.srcs[i]?.map s.codes).getD []
      let dc := if v.back then s.codes o else c 2
      let es := s.ewCodes p f op shift q.ty o.ty z.1 (c 0) (c 1) dc
      (z.2, s.masked p (es.map (·.1)), s.activeFlags p (es.map (·.2)), false))

/-- The form d := a op b. -/
def ewForm (f : FV) (accept : Nat → Bool) (rounds : Bool) : VForm :=
  { srcs := [⟨f.a.toNat, none⟩, ⟨f.b.toNat, none⟩], dst := some f.d.toNat, accept := accept, rounds := rounds }

/-- The arithmetic of a plain operation that admits a MOD prefix. -/
def State.ewArith (s : State) (p : Pfx) (f : FV) (op : EwOp) : Ans :=
  s.ew p f (vRules p f true false false true false false) (ewForm f tagIsPlain true) op false

/-- `vadd` (R132). -/
def execVadd (p : Pfx) (f : FV) (s : State) : Ans :=
  s.ewArith p f ⟨fun _ a b _ => a + b, fun m a b _ => fadd m a b⟩
/-- `vsub` (R132). -/
def execVsub (p : Pfx) (f : FV) (s : State) : Ans :=
  s.ewArith p f ⟨fun _ a b _ => a - b, fun m a b _ => fsub m a b⟩
/-- `vmul` (R132). -/
def execVmul (p : Pfx) (f : FV) (s : State) : Ans :=
  s.ewArith p f ⟨fun _ a b _ => a * b, fun _ a b _ => fmul a b⟩

/-- `vfma` and `vfms`: `ad` is a source of the element type and the destination. -/
def State.ewFma (s : State) (p : Pfx) (f : FV) (op : EwOp) : Ans :=
  s.ew p f (vRules p f true false false true false false)
    { srcs := [⟨f.a.toNat, none⟩, ⟨f.b.toNat, none⟩, ⟨f.d.toNat, none⟩], dst := some f.d.toNat
      accept := tagIsFloat, rounds := true } op false
/-- `vfma` (R132). -/
def execVfma (p : Pfx) (f : FV) (s : State) : Ans :=
  s.ewFma p f ⟨fun _ a b d => a * b + d, fun m a b d => ffma m a b d false [d, a, b]⟩
/-- a × b − d: the addend is negated unless it is a NaN. -/
def fms (m : RMode) (a b d : Num) : Num × Flags :=
  ffma m a b (if d.isNan then d else d.withSign (!d.sign)) false [d, a, b]
/-- `vfms` (R132). -/
def execVfms (p : Pfx) (f : FV) (s : State) : Ans := s.ewFma p f ⟨fun _ a b d => a * b - d, fms⟩

/-- Operations that do not round and admit no MOD prefix. -/
def State.ewExact (s : State) (p : Pfx) (f : FV) (accept : Nat → Bool) (op : EwOp) (shift : Bool) : Ans :=
  s.ew p f (vRules p f true false true false false false) (ewForm f accept false) op shift
/-- `vmax` (R132). -/
def execVmax (p : Pfx) (f : FV) (s : State) : Ans :=
  s.ewExact p f tagIsPlain ⟨fun _ a b _ => max a b, fun _ a b _ => fmaxmin true a b⟩ false
/-- `vmin` (R132). -/
def execVmin (p : Pfx) (f : FV) (s : State) : Ans :=
  s.ewExact p f tagIsPlain ⟨fun _ a b _ => min a b, fun _ a b _ => fmaxmin false a b⟩ false
/-- `vshl` (R132). -/
def execVshl (p : Pfx) (f : FV) (s : State) : Ans :=
  s.ewExact p f tagIsInt ⟨fun w a b _ => a * ((2 ^ (b.toNat % w) : Nat) : Int), fun _ a _ _ => (a, 0)⟩ true
/-- `vshr` (R132): logical if U = 1, arithmetic if U = 0. -/
def execVshr (p : Pfx) (f : FV) (s : State) : Ans :=
  s.ewExact p f tagIsInt ⟨fun w a b _ => a.fdiv ((2 ^ (b.toNat % w) : Nat) : Int), fun _ a _ _ => (a, 0)⟩ true

/-- The bitwise instructions: any plain type, as bit patterns, without flags (R132). -/
def State.ewBits (s : State) (p : Pfx) (f : FV) (op : Nat → Nat → Nat) : Ans :=
  s.vinstr p f (vRules p f true false true false false false) (ewForm f tagIsPlain false) (fun s q =>
    let c := fun i => (q.srcs[i]?.map s.codes).getD []
    (s, s.masked p ((c 0).zipWith op (c 1)), 0, false))
/-- `vand` (R132). -/
def execVand (p : Pfx) (f : FV) (s : State) : Ans := s.ewBits p f (· &&& ·)
/-- `vor` (R132). -/
def execVor (p : Pfx) (f : FV) (s : State) : Ans := s.ewBits p f (· ||| ·)
/-- `vxor` (R132). -/
def execVxor (p : Pfx) (f : FV) (s : State) : Ans := s.ewBits p f (· ^^^ ·)

/-- `vmac` accepts `i8`, `i16`, `f16` and `bf16` (R127). -/
def vmacType (t : Nat) : Bool := t == tagI8 || t == tagI16 || t == tagF16 || t == tagBf16
/-- `vmac` (R134). -/
def execVmac (p : Pfx) (f : FV) (s : State) : Ans :=
  s.ew p f (vRules p f true false false true false false)
    { ewForm f vmacType true with back := true, dstTy := wideOf }
    ⟨fun _ a b d => d + a * b, fun m a b d => ffma m a b d false [d, a, b]⟩ false

/-! ## Comparison and selection (R135, R136) -/

/-- A condition of `vcmp` on integers. -/
def cmpInt (t : Nat) (a b : Int) : Bool :=
  match t with
  | 0 => a == b
  | 1 => a != b
  | 2 => decide (a < b)
  | 3 => decide (a ≤ b)
  | 4 => decide (b < a)
  | 5 => decide (b ≤ a)
  | _ => false
/-- A condition on values; with a NaN only `.ne` and `.un` hold. -/
def cmpNum (t : Nat) (a b : Num) : Bool :=
  if a.isNan || b.isNan then t == 1 || t == 6
  else match t with
    | 0 => numEq a b
    | 1 => !numEq a b
    | 2 => numLt a b
    | 3 => !numLt b a
    | 4 => numLt b a
    | 5 => !numLt a b
    | _ => false

/-- A mask from its bits. -/
def maskOf (bs : List Bool) : BitVec 32 :=
  BitVec.ofNat 32 ((bs.zipIdx).foldl (fun a e => a + b2n e.1 * 2 ^ e.2) 0)

/-- `vcmp` (R135). -/
def execVcmp (p : Pfx) (f : FV) (t : BitVec 6) (s : State) : Ans :=
  let v : VForm := { srcs := [⟨f.a.toNat, none⟩, ⟨f.b.toNat, none⟩]
                     accept := fun k => tagIsPlain k && !(t == 6 && tagIsInt k) }
  s.instr p (fun _ => { vRules p f true false true false (decide (3 < f.d.toNat)) false with undef := decide (6 < t.toNat) })
    (fun s =>
      match s.vset p f v with
      | .error e => .error e
      | .ok (s, q) =>
        let clash := s.clashes q
        match s.vopen v q with
        | .error e => .error e
        | .ok s =>
          let c := fun i => (q.srcs[i]?.map s.codes).getD []
          let prs := (c 0).zip (c 1)
          let num := fun k => elemNum q.ty false 0x7F k
          let old := s.mt.getM f.d.toNat
          let bs := prs.zipIdx.map (fun e =>
            if s.active p e.2 then
              (if tagIsInt q.ty then cmpInt t.toNat (intOf q.ty (vU p) e.1.1) (intOf q.ty (vU p) e.1.2)
               else cmpNum t.toNat (num e.1.1) (num e.1.2))
            else if vZ p then false else old.getLsbD e.2)
          let fl := s.activeFlags p (prs.map (fun e => if tagIsInt q.ty then 0 else snanFlag [num e.1, num e.2]))
          let s := s.vdone p v q clash fl
          next (s.setMt (s.mt.setM f.d.toNat (maskOf bs))))

/-- `vsel` (R136): the mask selects, and every element is written. -/
def execVsel (p : Pfx) (f : FV) (s : State) : Ans :=
  s.vinstr p f (vRules p f true false true false (hasReg p && (vMsel p == 0 || vZ p)) (!hasReg p))
    (ewForm f tagIsPlain false) (fun s q =>
      let c := fun i => (q.srcs[i]?.map s.codes).getD []
      (s, ((c 0).zip (c 1)).zipIdx.map (fun e => some (if s.active p e.2 then e.1.1 else e.1.2)), 0, false))

/-! ## Reductions (R137, R138) -/

/-- A value of the tree with the flags of its computation. -/
abbrev Node := Num × Flags

/-- One level of the tree. -/
def treeLevel (node : Node → Node → Node) : List Node → List Node
  | a :: b :: r => node a b :: treeLevel node r
  | l => l
/-- The levels of the tree. -/
def treeOf (node : Node → Node → Node) : Nat → List Node → List Node
  | 0, l => l
  | n + 1, l => treeOf node n (treeLevel node l)

/-- A floating node before its rounding: exact sum, or the greater or lesser. -/
def redNum (k : Nat) (x y : Num) : Num × Flags :=
  if k = 0 then fadd .rne x y else fmaxmin (k == 1) x y
/-- An integer node. -/
def redInt (k : Nat) (x y : Int) : Int := if k = 0 then x + y else if k = 1 then max x y else min x y

/-- Rounds a floating node of type `t` (RNE). -/
def redRound (t : Nat) (v : Num × Flags) : Node :=
  let e := (fmtOr t).encode ⟨.rne, 0, false, false⟩ v.1
  ((fmtOr t).decode e.1, v.2 ||| e.2)

/-- The identity of an inactive element: sums −0, greatest −∞, least +∞. -/
def redIdent (k : Nat) : Num := if k = 0 then .zero true else .inf (k == 1)
/-- The integer identities. -/
def redIdentInt (k t : Nat) (u : Bool) : Int :=
  if k = 0 then 0
  else if k = 1 then (if u then 0 else -((2 ^ (elemBits t - 1) : Nat) : Int))
  else (if u then (2 ^ elemBits t : Nat) - 1 else (2 ^ (elemBits t - 1) : Nat) - 1)

/-- Exact pairs of one level of an integer tree. -/
def intLevel (k : Nat) : List Int → List Int
  | a :: b :: r => redInt k a b :: intLevel k r
  | l => l
def intTree (k : Nat) : Nat → List Int → List Int
  | 0, l => l
  | n + 1, l => intTree k n (intLevel k l)

/-- The value of an integer taken modulo 2^w, as U reads it. -/
def wrapInt (w : Nat) (u : Bool) (v : Int) : Int := if u then (lowBits v w : Int) else sextI (lowBits v w) w

/-- The result code and flags of an integer reduction. -/
def redIntCode (p : Pfx) (k rt : Nat) (vs : List Int) (d : Option Int) : Nat × Flags :=
  let w := elemBits rt
  let fin := fun (a b : Int) => ((modOf p).int w (vU p) (redInt k a b), (0 : Flags))
  match intTree k 7 vs, d with
  | [a, b], none => fin (wrapInt w (vU p) a) (wrapInt w (vU p) b)
  | [a, b], some d => fin d (wrapInt w (vU p) (redInt k a b))
  | _, _ => (0, 0)

/-- The result code and flags of a floating reduction. -/
def redNumCode (p : Pfx) (k rt : Nat) (vs : List Node) (d : Option Num) : Nat × Flags :=
  let node := fun (x y : Node) =>
    let r := redRound rt (redNum k x.1 y.1)
    (r.1, x.2 ||| y.2 ||| r.2)
  let fin := fun (x y : Node) =>
    let v := redNum k x.1 y.1
    (modOf p).apply (fmtOr rt) ⟨.rne, 0, false, false⟩ (v.1, v.2 ||| x.2 ||| y.2)
  match treeOf node 7 vs, d with
  | [a, b], none => fin a b
  | [a, b], some d => fin (d, 0) (node a b)
  | _, _ => (0, 0)

/-- A reduction: k = 0 sum or dot, 1 greatest, 2 least; `o` reads the destination (R137). -/
def State.reduce (s : State) (p : Pfx) (f : FV) (o : BitVec 1) (k : Nat) (dot : Bool) : Ans :=
  let rt := fun t => if k != 0 then t else if tagIsInt t then tagI64 else tagF32
  s.vinstr p f (vRules p f false (!dot && f.b != 0) (k != 0) (k == 0) (k == 0 && f.r != 0 && f.r != 7) false)
    { srcs := ⟨f.a.toNat, none⟩ :: (if dot then [⟨f.b.toNat, none⟩] else []), dst := some f.d.toNat
      back := o == 1, dstTy := rt, chunk := true, accept := tagIsPlain }
    (fun s q =>
      let t := q.ty
      let c := fun i => (q.srcs[i]?.map s.codes).getD []
      let old := if o = 1 then (q.dst.bind (fun o => (s.codes o).head?)) else none
      let r := if tagIsInt t then
          let vs := (c 0).zipIdx.map (fun e =>
            if !s.active p e.2 then redIdentInt k t (vU p)
            else if dot then wrapInt 64 (vU p) (intOf t (vU p) e.1 * intOf t (vU p) ((c 1).getD e.2 0))
            else intOf t (vU p) e.1)
          redIntCode p k (rt t) vs (old.map (intOf (rt t) (vU p)))
        else
          let num := fun k => elemNum t false 0x7F k
          let vs : List Node := (c 0).zipIdx.map (fun e =>
            if !s.active p e.2 then (redIdent k, 0)
            else if dot then redRound tagF32 (fmul (num e.1) (num ((c 1).getD e.2 0)))
            else (num e.1, 0))
          redNumCode p k (rt t) vs (old.map (elemNum (rt t) false 0x7F))
      (s, [some r.1], r.2, false))

/-- `vredsum` (R137). -/
def execVredsum (p : Pfx) (f : FV) (o : BitVec 1) (s : State) : Ans := s.reduce p f o 0 false
/-- `vredmax` (R137). -/
def execVredmax (p : Pfx) (f : FV) (o : BitVec 1) (s : State) : Ans := s.reduce p f o 1 false
/-- `vredmin` (R137). -/
def execVredmin (p : Pfx) (f : FV) (o : BitVec 1) (s : State) : Ans := s.reduce p f o 2 false
/-- `vdot` (R137). -/
def execVdot (p : Pfx) (f : FV) (o : BitVec 1) (s : State) : Ans := s.reduce p f o 0 true

/-! ## Special functions (R139, R140) -/

/-- A special function on each active element. -/
def State.special (s : State) (p : Pfx) (f : FV) (k : SpFn) : Ans :=
  s.vinstr p f (vRules p f true (f.b != 0) false true false false)
    { srcs := [⟨f.a.toNat, none⟩], dst := some f.d.toNat, accept := tagIsFloat, rounds := true }
    (fun s q =>
      let t := q.ty
      let z := s.vdraws (s.vMode f == .sr) (vLen f)
      let es := ((q.srcs.head?.map s.codes).getD []).zipIdx.map (fun e =>
        if s.active p e.2 then
          let r := k.eval (elemNum t false 0x7F e.1)
          (modOf p).applyMore (fmtOr t) (s.vRnd f (z.1.getD e.2 0)) (r.a, r.fl) r.more
        else (0, 0))
      (z.2, s.masked p (es.map (·.1)), s.activeFlags p (es.map (·.2)), false))

/-- `vexp2` (R140). -/
def execVexp2 (p : Pfx) (f : FV) (s : State) : Ans := s.special p f .exp2
/-- `vlog2` (R140). -/
def execVlog2 (p : Pfx) (f : FV) (s : State) : Ans := s.special p f .log2
/-- `vrcp` (R140). -/
def execVrcp (p : Pfx) (f : FV) (s : State) : Ans := s.special p f .rcp
/-- `vrsqrt` (R140). -/
def execVrsqrt (p : Pfx) (f : FV) (s : State) : Ans := s.special p f .rsqrt
/-- `vsqrt` (R140). -/
def execVsqrt (p : Pfx) (f : FV) (s : State) : Ans := s.special p f .sqrt
/-- `vtanh` (R140). -/
def execVtanh (p : Pfx) (f : FV) (s : State) : Ans := s.special p f .tanh
/-- `vsig` (R140). -/
def execVsig (p : Pfx) (f : FV) (s : State) : Ans := s.special p f .sig
/-- `vsin` (R140). -/
def execVsin (p : Pfx) (f : FV) (s : State) : Ans := s.special p f .sin
/-- `vcos` (R140). -/
def execVcos (p : Pfx) (f : FV) (s : State) : Ans := s.special p f .cos

end Sys2Proof.Machine
end

