-- ==== Sys2Proof/Machine/Dispatch.lean ====
section
/-! DEFINITION. One arm per constructor of `Instr`, each a direct call of its meaning. -/
namespace Sys2Proof.Machine

def exec (i : Instr) (s : State) : Host.Outcome State Fault Refusal :=
  match i with
  | .add p f => Sys2Proof.Machine.execAdd p f s
  | .sub p f => Sys2Proof.Machine.execSub p f s
  | .and p f => Sys2Proof.Machine.execAnd p f s
  | .or p f => Sys2Proof.Machine.execOr p f s
  | .xor p f => Sys2Proof.Machine.execXor p f s
  | .andn p f => Sys2Proof.Machine.execAndn p f s
  | .mov p f => Sys2Proof.Machine.execMov p f s
  | .shl p f => Sys2Proof.Machine.execShl p f s
  | .shr p f => Sys2Proof.Machine.execShr p f s
  | .sar p f => Sys2Proof.Machine.execSar p f s
  | .mul p f => Sys2Proof.Machine.execMul p f s
  | .mulh p f => Sys2Proof.Machine.execMulh p f s
  | .mulhn p f => Sys2Proof.Machine.execMulhn p f s
  | .div p f => Sys2Proof.Machine.execDiv p f s
  | .divn p f => Sys2Proof.Machine.execDivn p f s
  | .rem p f => Sys2Proof.Machine.execRem p f s
  | .remn p f => Sys2Proof.Machine.execRemn p f s
  | .min p f => Sys2Proof.Machine.execMin p f s
  | .minn p f => Sys2Proof.Machine.execMinn p f s
  | .max p f => Sys2Proof.Machine.execMax p f s
  | .maxn p f => Sys2Proof.Machine.execMaxn p f s
  | .clz p f => Sys2Proof.Machine.execClz p f s
  | .ctz p f => Sys2Proof.Machine.execCtz p f s
  | .popc p f => Sys2Proof.Machine.execPopc p f s
  | .bext p f => Sys2Proof.Machine.execBext p f s
  | .bins p f => Sys2Proof.Machine.execBins p f s
  | .cmpEq p f => Sys2Proof.Machine.execCmpEq p f s
  | .cmpNe p f => Sys2Proof.Machine.execCmpNe p f s
  | .cmpLt p f => Sys2Proof.Machine.execCmpLt p f s
  | .cmpGe p f => Sys2Proof.Machine.execCmpGe p f s
  | .cmpLtn p f => Sys2Proof.Machine.execCmpLtn p f s
  | .cmpGen p f => Sys2Proof.Machine.execCmpGen p f s
  | .li p f => Sys2Proof.Machine.execLi p f s
  | .addi p f => Sys2Proof.Machine.execAddi p f s
  | .sel p f => Sys2Proof.Machine.execSel p f s
  | .br p o => Sys2Proof.Machine.execBr p o s
  | .brc p f => Sys2Proof.Machine.execBrc p f s
  | .call p o => Sys2Proof.Machine.execCall p o s
  | .loop p f => Sys2Proof.Machine.execLoop p f s
  | .jmp p f => Sys2Proof.Machine.execJmp p f s
  | .ret p f => Sys2Proof.Machine.execRet p f s
  | .stop p f => Sys2Proof.Machine.execStop p f s
  | .nop p f => Sys2Proof.Machine.execNop p f s
  | .ldSigned p f => Sys2Proof.Machine.execLdSigned p f s
  | .ldUnsigned p f => Sys2Proof.Machine.execLdUnsigned p f s
  | .st p f => Sys2Proof.Machine.execSt p f s
  | .spldSigned p f => Sys2Proof.Machine.execSpldSigned p f s
  | .spldUnsigned p f => Sys2Proof.Machine.execSpldUnsigned p f s
  | .spst p f => Sys2Proof.Machine.execSpst p f s
  | .amo p f => Sys2Proof.Machine.execAmo p f s
  | .cas p f => Sys2Proof.Machine.execCas p f s
  | .famo p f => Sys2Proof.Machine.execFamo p f s
  | .fencePkg p f => Sys2Proof.Machine.execFencePkg p f s
  | .fenceSys p f => Sys2Proof.Machine.execFenceSys p f s
  | .qpop p f => Sys2Proof.Machine.execQpop p f s
  | .qpush p f => Sys2Proof.Machine.execQpush p f s
  | .lsend p f => Sys2Proof.Machine.execLsend p f s
  | .lrecv p f => Sys2Proof.Machine.execLrecv p f s
  | .rng p f => Sys2Proof.Machine.execRng p f s
  | .rdid p f => Sys2Proof.Machine.execRdid p f s
  | .csrr p f => Sys2Proof.Machine.execCsrr p f s
  | .csrw p f => Sys2Proof.Machine.execCsrw p f s
  | .trap p f => Sys2Proof.Machine.execTrap p f s
  | .brk p f => Sys2Proof.Machine.execBrk p f s
  | .eret p f => Sys2Proof.Machine.execEret p f s
  | .cut p f => Sys2Proof.Machine.execCut p f s
  | .vadd p f => Sys2Proof.Machine.execVadd p f s
  | .vsub p f => Sys2Proof.Machine.execVsub p f s
  | .vmul p f => Sys2Proof.Machine.execVmul p f s
  | .vfma p f => Sys2Proof.Machine.execVfma p f s
  | .vfms p f => Sys2Proof.Machine.execVfms p f s
  | .vmax p f => Sys2Proof.Machine.execVmax p f s
  | .vmin p f => Sys2Proof.Machine.execVmin p f s
  | .vand p f => Sys2Proof.Machine.execVand p f s
  | .vor p f => Sys2Proof.Machine.execVor p f s
  | .vxor p f => Sys2Proof.Machine.execVxor p f s
  | .vshl p f => Sys2Proof.Machine.execVshl p f s
  | .vshr p f => Sys2Proof.Machine.execVshr p f s
  | .vmac p f => Sys2Proof.Machine.execVmac p f s
  | .vcmp p f t => Sys2Proof.Machine.execVcmp p f t s
  | .vsel p f => Sys2Proof.Machine.execVsel p f s
  | .vredsum p f o => Sys2Proof.Machine.execVredsum p f o s
  | .vredmax p f o => Sys2Proof.Machine.execVredmax p f o s
  | .vredmin p f o => Sys2Proof.Machine.execVredmin p f o s
  | .vdot p f o => Sys2Proof.Machine.execVdot p f o s
  | .vexp2 p f => Sys2Proof.Machine.execVexp2 p f s
  | .vlog2 p f => Sys2Proof.Machine.execVlog2 p f s
  | .vrcp p f => Sys2Proof.Machine.execVrcp p f s
  | .vrsqrt p f => Sys2Proof.Machine.execVrsqrt p f s
  | .vsqrt p f => Sys2Proof.Machine.execVsqrt p f s
  | .vtanh p f => Sys2Proof.Machine.execVtanh p f s
  | .vsig p f => Sys2Proof.Machine.execVsig p f s
  | .vsin p f => Sys2Proof.Machine.execVsin p f s
  | .vcos p f => Sys2Proof.Machine.execVcos p f s
  | .vcvt p f o => Sys2Proof.Machine.execVcvt p f o s
  | .vqmx p f o => Sys2Proof.Machine.execVqmx p f o s
  | .vdqmx p f => Sys2Proof.Machine.execVdqmx p f s
  | .vqbx p f o => Sys2Proof.Machine.execVqbx p f o s
  | .vdqbx p f => Sys2Proof.Machine.execVdqbx p f s
  | .vtag p f t => Sys2Proof.Machine.execVtag p f t s
  | .vgtag p f r => Sys2Proof.Machine.execVgtag p f r s
  | .vmov p f => Sys2Proof.Machine.execVmov p f s
  | .vbcast p f r t => Sys2Proof.Machine.execVbcast p f r t s
  | .vperm p f => Sys2Proof.Machine.execVperm p f s
  | .vshuf p f o => Sys2Proof.Machine.execVshuf p f o s
  | .vext p f r t => Sys2Proof.Machine.execVext p f r t s
  | .vins p f r t => Sys2Proof.Machine.execVins p f r t s
  | .vld p f r t => Sys2Proof.Machine.execVld p f r t s
  | .vst p f r t => Sys2Proof.Machine.execVst p f r t s
  | .aaddX p f r => Sys2Proof.Machine.execAaddX p f r s
  | .aaddA p f r => Sys2Proof.Machine.execAaddA p f r s
  | .ali p f r => Sys2Proof.Machine.execAli p f r s
  | .amovAx p f r => Sys2Proof.Machine.execAmovAx p f r s
  | .amovXa p f r => Sys2Proof.Machine.execAmovXa p f r s
  | .amovMx p f r => Sys2Proof.Machine.execAmovMx p f r s
  | .amovXm p f r => Sys2Proof.Machine.execAmovXm p f r s
  | .bcast p f => Sys2Proof.Machine.execBcast p f s
  | .mtgo p f => Sys2Proof.Machine.execMtgo p f s
  | .mtjoin p f => Sys2Proof.Machine.execMtjoin p f s
  | .mtstat p f o => Sys2Proof.Machine.execMtstat p f o s
  | .mtres p f o => Sys2Proof.Machine.execMtres p f o s
  | .mtkill p f => Sys2Proof.Machine.execMtkill p f s
  | .qwr p f => Sys2Proof.Machine.execQwr p f s
  | .qrd p f => Sys2Proof.Machine.execQrd p f s
  | .gang p f => Sys2Proof.Machine.execGang p f s
  | .split p f => Sys2Proof.Machine.execSplit p f s
  | .ctpl p f o => Sys2Proof.Machine.execCtpl p f o s
  | .cwait p f => Sys2Proof.Machine.execCwait p f s
  | .cread p f o => Sys2Proof.Machine.execCread p f o s
  | .cset p f => Sys2Proof.Machine.execCset p f s
  | .wmrd p f => Sys2Proof.Machine.execWmrd p f s
  | .epush p f => Sys2Proof.Machine.execEpush p f s
  | .epop p f => Sys2Proof.Machine.execEpop p f s
  | .msetA p f => Sys2Proof.Machine.execMsetA p f s
  | .msetB p f => Sys2Proof.Machine.execMsetB p f s
  | .msetOp p f => Sys2Proof.Machine.execMsetOp p f s
  | .mgo p f => Sys2Proof.Machine.execMgo p f s
  | .mzero p f => Sys2Proof.Machine.execMzero p f s
  | .mrd p f => Sys2Proof.Machine.execMrd p f s
  | .mwr p f => Sys2Proof.Machine.execMwr p f s
  | .msclSet p f => Sys2Proof.Machine.execMsclSet p f s
  | .msclRd p f => Sys2Proof.Machine.execMsclRd p f s
  | .msclClr p f => Sys2Proof.Machine.execMsclClr p f s
  | .gemvh p f => Sys2Proof.Machine.execGemvh p f s
  | .barinit p f => Sys2Proof.Machine.execBarinit p f s
  | .barv p f => Sys2Proof.Machine.execBarv p f s
  | .barw p f => Sys2Proof.Machine.execBarw p f s
  | .dsync p f => Sys2Proof.Machine.execDsync p f s
  | .dmemCl p f => Sys2Proof.Machine.execDmemCl p f s
  | .dmemDie p f => Sys2Proof.Machine.execDmemDie p f s
  | .dmemPkg p f => Sys2Proof.Machine.execDmemPkg p f s
  | .ldsh p f x h => Sys2Proof.Machine.execLdsh p f x h s
  | .stsh p f h => Sys2Proof.Machine.execStsh p f h s
  | .shfence p f => Sys2Proof.Machine.execShfence p f s
  | .feld p f m => Sys2Proof.Machine.execFeld p f m s
  | .fest p f m => Sys2Proof.Machine.execFest p f m s
  | .netpost p f => Sys2Proof.Machine.execNetpost p f s
  | .netpostM p f => Sys2Proof.Machine.execNetpostM p f s
  | .tlbiPage p f => Sys2Proof.Machine.execTlbiPage p f s
  | .tlbiAsid p f => Sys2Proof.Machine.execTlbiAsid p f s
  | .tlbiAll p f => Sys2Proof.Machine.execTlbiAll p f s
  | .tlbiWbinv p f => Sys2Proof.Machine.execTlbiWbinv p f s
  | .chkcfgLen p f => Sys2Proof.Machine.execChkcfgLen p f s
  | .chkcfgStat p f => Sys2Proof.Machine.execChkcfgStat p f s
  | .chkcfgOrder p f => Sys2Proof.Machine.execChkcfgOrder p f s
  | .seedrd p f => Sys2Proof.Machine.execSeedrd p f s
  | .seedrdDepth p f => Sys2Proof.Machine.execSeedrdDepth p f s
  | .digrd p f => Sys2Proof.Machine.execDigrd p f s
  | .digrdQ p f => Sys2Proof.Machine.execDigrdQ p f s
  | .fqRplReady v => Sys2Proof.Machine.execFqRplReady v s
  | .fqRplDecline v => Sys2Proof.Machine.execFqRplDecline v s
  | .stwSend1 v => Sys2Proof.Machine.execStwSend1 v s
  | .stwFwd v => Sys2Proof.Machine.execStwFwd v s
  | .stwRun v => Sys2Proof.Machine.execStwRun v s
  | .cqTailWrite v => Sys2Proof.Machine.execCqTailWrite v s
  | .featureNegotiation => Sys2Proof.Machine.execFeatureNegotiation s
  | .powerAverageCheck avg => Sys2Proof.Machine.execPowerAverageCheck avg s
  | .torusMessageDeliver v => Sys2Proof.Machine.execTorusMessageDeliver v s
  | .errorDetect v => Sys2Proof.Machine.execErrorDetect v s
  | .selfTestEnd v => Sys2Proof.Machine.execSelfTestEnd v s
  | .coreMapWrite v => Sys2Proof.Machine.execCoreMapWrite v s
  | .bootCtlClr v => Sys2Proof.Machine.execBootCtlClr v s
  | .packageReset v => Sys2Proof.Machine.execPackageReset v s
  | .dbgCmdResume v => Sys2Proof.Machine.execDbgCmdResume v s
  | .dbgCmdHalt v => Sys2Proof.Machine.execDbgCmdHalt v s
  | .dbgCmdStep v => Sys2Proof.Machine.execDbgCmdStep v s
  | .attn v => Sys2Proof.Machine.execAttn v s
  | .hostWrite a n v => Sys2Proof.Machine.execHostWrite a n v s
  | .peerLoad v => Sys2Proof.Machine.execPeerLoad v s
  | .bundleRequest v => Sys2Proof.Machine.execBundleRequest v s
  | .bundleAck v => Sys2Proof.Machine.execBundleAck v s
  | .leaseWrite v => Sys2Proof.Machine.execLeaseWrite v s
  | .grantRevoke v => Sys2Proof.Machine.execGrantRevoke v s
  | .leaseNotice v => Sys2Proof.Machine.execLeaseNotice v s
  | .leaseClose v => Sys2Proof.Machine.execLeaseClose v s
  | .netPacketArrive v => Sys2Proof.Machine.execNetPacketArrive v s
  | .netAck v => Sys2Proof.Machine.execNetAck v s
  | .registerWrite a v => Sys2Proof.Machine.execRegisterWrite a v s
  | .illegalEncoding c => Sys2Proof.Machine.execIllegalEncoding c s
  | .thermalThrottling on => Sys2Proof.Machine.execThermalThrottling on s
  | .dynamicCapacityEvent v => Sys2Proof.Machine.execDynamicCapacityEvent v s
  | .errorResponse v => Sys2Proof.Machine.execErrorResponse v s
  | .shfenceMessage v => Sys2Proof.Machine.execShfenceMessage v s
  | .shfenceAck v => Sys2Proof.Machine.execShfenceAck v s
  | .farResultArrive => Sys2Proof.Machine.execFarResultArrive s
  | .admitEntry => Sys2Proof.Machine.execAdmitEntry s
  | .mtBeginEntry => Sys2Proof.Machine.execMtBeginEntry s
  | .mtjoinComplete => Sys2Proof.Machine.execMtjoinComplete s
  | .queueStallRelease => Sys2Proof.Machine.execQueueStallRelease s
  | .taskInstanceEnd => Sys2Proof.Machine.execTaskInstanceEnd s
  | .chunkCut => Sys2Proof.Machine.execChunkCut s
  | .commitRequest => Sys2Proof.Machine.execCommitRequest s
  | .writeSignatureArrive => Sys2Proof.Machine.execWriteSignatureArrive s
  | .commitFinish => Sys2Proof.Machine.execCommitFinish s
  | .reservationRequest => Sys2Proof.Machine.execReservationRequest s
  | .reservationGrant => Sys2Proof.Machine.execReservationGrant s
  | .lateralWaitTimeout => Sys2Proof.Machine.execLateralWaitTimeout s
  | .lateralWaitRelease => Sys2Proof.Machine.execLateralWaitRelease s
  | .steppedTrap => Sys2Proof.Machine.execSteppedTrap s
  | .cutWatchdog => Sys2Proof.Machine.execCutWatchdog s
  | .gangForm => Sys2Proof.Machine.execGangForm s
  | .contextSwitch => Sys2Proof.Machine.execContextSwitch s
  | .streaminComplete => Sys2Proof.Machine.execStreaminComplete s
  | .drainComplete => Sys2Proof.Machine.execDrainComplete s
  | .streamoutComplete => Sys2Proof.Machine.execStreamoutComplete s
  | .quantumExpiry => Sys2Proof.Machine.execQuantumExpiry s
  | .pageFaultPark => Sys2Proof.Machine.execPageFaultPark s
  | .faultRecordPost => Sys2Proof.Machine.execFaultRecordPost s
  | .l2MissTranslate => Sys2Proof.Machine.execL2MissTranslate s
  | .tlbiComplete => Sys2Proof.Machine.execTlbiComplete s
  | .farAtomicApply => Sys2Proof.Machine.execFarAtomicApply s
  | .detUpdateArrive => Sys2Proof.Machine.execDetUpdateArrive s
  | .detPhaseApply => Sys2Proof.Machine.execDetPhaseApply s
  | .copyLineWrite => Sys2Proof.Machine.execCopyLineWrite s
  | .copyComplete => Sys2Proof.Machine.execCopyComplete s
  | .engineFault => Sys2Proof.Machine.execEngineFault s
  | .resumePacket => Sys2Proof.Machine.execResumePacket s
  | .abandonPacket => Sys2Proof.Machine.execAbandonPacket s
  | .stewardHalt => Sys2Proof.Machine.execStewardHalt s
  | .gatherElement => Sys2Proof.Machine.execGatherElement s
  | .rowBarrierClose => Sys2Proof.Machine.execRowBarrierClose s
  | .rowBarrierTimeout => Sys2Proof.Machine.execRowBarrierTimeout s
  | .exponentRecord => Sys2Proof.Machine.execExponentRecord s
  | .mgoComplete => Sys2Proof.Machine.execMgoComplete s
  | .mzeroExecute => Sys2Proof.Machine.execMzeroExecute s
  | .mrdExecute => Sys2Proof.Machine.execMrdExecute s
  | .mwrExecute => Sys2Proof.Machine.execMwrExecute s
  | .msclClrExecute => Sys2Proof.Machine.execMsclClrExecute s
  | .gemvhExecute => Sys2Proof.Machine.execGemvhExecute s
  | .barrierWake => Sys2Proof.Machine.execBarrierWake s
  | .barwTimeout => Sys2Proof.Machine.execBarwTimeout s
  | .dsyncArrival => Sys2Proof.Machine.execDsyncArrival s
  | .phaseEndReceive => Sys2Proof.Machine.execPhaseEndReceive s
  | .dmemRelease => Sys2Proof.Machine.execDmemRelease s
  | .scrubPass => Sys2Proof.Machine.execScrubPass s
  | .scrubWrite => Sys2Proof.Machine.execScrubWrite s
  | .refreshInterval => Sys2Proof.Machine.execRefreshInterval s
  | .heartbeat => Sys2Proof.Machine.execHeartbeat s
  | .refreshTakeover => Sys2Proof.Machine.execRefreshTakeover s
  | .packetHeaderCheck => Sys2Proof.Machine.execPacketHeaderCheck s
  | .packetBegin => Sys2Proof.Machine.execPacketBegin s
  | .packetComplete => Sys2Proof.Machine.execPacketComplete s
  | .launchPlace => Sys2Proof.Machine.execLaunchPlace s
  | .launchComplete => Sys2Proof.Machine.execLaunchComplete s
  | .launchAging => Sys2Proof.Machine.execLaunchAging s
  | .passedOverLimit => Sys2Proof.Machine.execPassedOverLimit s
  | .replayHoldTimeout => Sys2Proof.Machine.execReplayHoldTimeout s
  | .pcSample => Sys2Proof.Machine.execPcSample s
  | .traceFull => Sys2Proof.Machine.execTraceFull s
  | .linkRequestTimeout => Sys2Proof.Machine.execLinkRequestTimeout s
  | .bundleStagingTimeout => Sys2Proof.Machine.execBundleStagingTimeout s
  | .feOperation => Sys2Proof.Machine.execFeOperation s
  | .feRetry => Sys2Proof.Machine.execFeRetry s
  | .feRetryTimeout => Sys2Proof.Machine.execFeRetryTimeout s
  | .feWithdraw => Sys2Proof.Machine.execFeWithdraw s
  | .leaseNoticeExpiry => Sys2Proof.Machine.execLeaseNoticeExpiry s
  | .netRequestStart => Sys2Proof.Machine.execNetRequestStart s
  | .netAckTimer => Sys2Proof.Machine.execNetAckTimer s
  | .netRetxTimeout => Sys2Proof.Machine.execNetRetxTimeout s
  | .netRnr => Sys2Proof.Machine.execNetRnr s
  | .netConnectionTimeout => Sys2Proof.Machine.execNetConnectionTimeout s
  | .rnrTimeout => Sys2Proof.Machine.execRnrTimeout s

end Sys2Proof.Machine
end

