-- ==== Sys2Proof/Machine/Sched.lean ====
section
/-! DEFINITION. Which agent acts (log 1): the turns of the agenda, in order; with none left, the package's own agents in rotation. -/
namespace Sys2Proof.Machine

/-! ## Turns -/

/-- The turn of an agent: an event, or the next instruction of a thread. -/
def State.act (s : State) (ev : Option Instr) : Ans :=
  match ev with
  | some i => exec i s
  | none =>
    match s.turn with
    | (s, none) => .next s
    | (s, some i) => exec i s

/-- Time passes between two turns: at least a cycle, and more as the model leaves open (log 2). -/
def State.pass (s : State) : State :=
  { s with cycle := s.cycle + 1 + Config.elapsed s.tick, tick := s.tick + 1 }

/-- Trace records reach their sinks, but for those of a core whose sink an event finds full (13 R403). -/
def State.drainAll (s : State) (skip : Option Nat) : State :=
  s.cores.keys.foldl (fun s c => if skip = some c || (s.core c).traceOut.isEmpty then s else s.drain c) s

/-- The core whose sink an event finds full. -/
def Turn.full (t : Turn) : Option Nat := match t.ev with | some .traceFull => some t.cur.core | _ => none

/-- One turn. -/
def State.take (s : State) (t : Turn) : Ans := (({ s.pass with cur := t.cur } : State).drainAll t.full).act t.ev

/-! ## The package's own agents -/

/-- A turn of a core for an event, with a unit. -/
def evTurn (c : Nat) (ev : Instr) (u : Nat) : Turn := ⟨{ core := c, unit := u }, some ev⟩
/-- A turn of a thread for an event. -/
def thTurn (c t : Nat) (ev : Instr) (u : Nat) : Turn := ⟨{ core := c, thr := t, unit := u }, some ev⟩

/-- The turns of a thread. What a peer device answers comes from outside. -/
def State.threadTurns (s : State) (c t : Nat) : List Turn :=
  let th := s.thrAt c t
  let waits := match th.stall with
    | some w => match w.why with
      | .admission .. | .inputRoom .. => [thTurn c t .admitEntry 0]
      | .join .. => [thTurn c t .mtjoinComplete 0]
      | .returnRoom _ | .linkRoom .. => [thTurn c t .queueStallRelease 0]
      | .lateral .. => [thTurn c t .lateralWaitRelease 0, thTurn c t .lateralWaitTimeout 0]
      | .translate .. => [thTurn c t .l2MissTranslate 0, thTurn c t .pageFaultPark 0]
      | .barrier .. => [thTurn c t .barwTimeout 0]
      | .peer .. => [thTurn c t .linkRequestTimeout 0]
      | _ => []
    | none => []
  let peer := match th.stall with | some ⟨.peer .., _, _⟩ => true | _ => false
  ⟨{ core := c, thr := t }, none⟩ :: waits ++
    (if peer then [] else th.far.map (fun e => thTurn c t .farResultArrive e.reg))

/-- The turns of the chunks, contexts and engines of a core. -/
def State.coreTurns (s : State) (c : Nat) : List Turn :=
  let k := s.core c
  let ev := fun (i : Instr) => evTurn c i 0
  let eu := evTurn c
  let each := fun (n : Nat) (is : List Instr) => (List.range n).flatMap (fun u => is.map (fun i => eu i u))
  (threadsOf c).flatMap (s.threadTurns c) ++
  [ev .chunkCut, ev .steppedTrap, ev .commitRequest, ev .commitFinish, ev .reservationRequest, ev .cutWatchdog, ev .gangForm,
   ev .contextSwitch, ev .quantumExpiry, ev .replayHoldTimeout, ev .pcSample, ev .farAtomicApply, ev .tlbiComplete,
   ev .barrierWake, ev .phaseEndReceive, ev .dmemRelease, ev .exponentRecord, ev .mgoComplete, ev .feWithdraw, ev .stewardHalt,
   eu .engineFault 0x50, eu .engineFault 0x51] ++
  [1, 2, 3].map (fun l => eu .dsyncArrival l) ++
  s.cores.keys.map (fun d => eu .writeSignatureArrive d) ++
  each 2 [.taskInstanceEnd, .drainComplete, .streamoutComplete, .streaminComplete] ++
  each k.detOut.length [.detUpdateArrive] ++
  each k.mat.length [.rowBarrierClose, .rowBarrierTimeout, .mzeroExecute, .mrdExecute, .mwrExecute, .msclClrExecute, .gemvhExecute] ++
  each k.feOut.length [.feOperation, .feRetry, .feRetryTimeout] ++
  k.chans.keys.flatMap (fun n => [eu .copyLineWrite n, eu .copyComplete n, eu .engineFault n]) ++
  (s.gathers.keys.filter (fun q => q / 16 == clusterOf c)).flatMap (fun q =>
    [eu .gatherElement (q % 16), eu .engineFault (0x40 + q % 16)]) ++
  (if k.bundles.isEmpty then [] else [⟨{ core := c, thr := 16 }, some .linkRequestTimeout⟩])

/-- The turns of the units outside the cores. A unit of a die acts as its steward's place. -/
def State.packageTurns (s : State) : List Turn :=
  let ev := fun (i : Instr) => evTurn 0 i 0
  let eu := evTurn 0
  let ql := (List.range 64).filter (fun q => fld (s.pkgReg (0x0100 + 32 * q)) 0 0 == 1 || (s.queue q).st != .idle)
  ev .reservationGrant :: ev .launchPlace :: ev .resumePacket :: ev .abandonPacket ::
  (List.range 4).flatMap (fun d => [evTurn (4096 + d) .faultRecordPost 0, evTurn (4096 + d) .netRequestStart 0,
    evTurn (4096 + d) .netAckTimer 0, evTurn (4096 + d) .netRetxTimeout 0, evTurn (4096 + d) .netConnectionTimeout 0,
    evTurn (4096 + d) .rnrTimeout 0]) ++
  (List.range s.dets.length).map (fun u => eu .detPhaseApply u) ++
  ql.flatMap (fun q => [eu .packetHeaderCheck q, eu .packetBegin q, eu .featureNegotiation q, eu .packetComplete q]) ++
  s.launches.keys.flatMap (fun l => [eu .launchComplete l, eu .launchAging l, eu .passedOverLimit l]) ++
  s.scrubs.map (fun e => evTurn (4096 + e.chan / 256) .scrubWrite (e.chan % 256)) ++
  (List.range s.staged.length).map (fun u => eu .bundleStagingTimeout u) ++
  s.leaseDue.keys.map (fun i => eu .leaseNoticeExpiry i) ++
  (if s.hostQ.isEmpty then [] else [ev (.hostWrite 0 0 0)])

/-- Every turn that the package can take by itself. -/
def State.ownTurns (s : State) : List Turn := s.cores.keys.flatMap s.coreTurns ++ s.packageTurns

/-- A turn does something beside naming its agent. -/
def State.useful (s : State) (t : Turn) : Bool :=
  match State.act { s with cur := t.cur } t.ev with
  | .next s' => decide (({ s' with cur := s.cur, tick := s.tick } : State) ≠ s)
  | _ => false

/-- The next turn of the package: the first useful one, counted from a place that moves on with every step. -/
def State.choose (s : State) : Option Turn :=
  let ts := s.ownTurns
  let n := s.tick % (ts.length + 1)
  (ts.drop n ++ ts.take n).find? s.useful

/-! ## A step -/

/-- Recovery mode: only a start of the package is admitted (13 R392). -/
def Turn.starts (t : Turn) : Bool := match t.ev with | some (.packageReset _) => true | _ => false

/-- One step: the first turn of the agenda, or one of the package's own; with none, time passes. -/
def State.stepOnce (s : State) : Ans :=
  match s.agenda with
  | t :: r => if s.recovery && !t.starts then .fault .recoveryMode else State.take { s with agenda := r } t
  | [] =>
    if s.recovery then .fault .recoveryMode
    else match s.choose with
      | some t => s.take t
      | none => .next (s.pass.drainAll none)


end Sys2Proof.Machine
end

