-- ==== Sys2Proof/Safety.lean ====
section
/-! DEFINITION. The vocabulary of the claims: when an instruction executes normally, what it leaves unchanged, and the good
states. -/
namespace Sys2Proof

open Machine

/-- The step answers a next state. -/
def Completes (o : Host.Outcome State Fault Refusal) : Prop := ∃ t, o = .next t

/-- The acting thread executes its own instruction: it is not the CT of a row gang, no cause of a commit-released operation
is due, and no breakpoint matches. -/
def Plain (s : State) : Prop :=
  (s.isCt && s.inStream s.cur.core) = false ∧ s.thr.late = none ∧ s.breaks = false

/-- A plain state in which an instruction with prefixes `p` passes its checks (02 R63 items 8–16). -/
def Passes (s : State) (p : Pfx) (r : Rules) : Prop := Plain s ∧ s.gate p r = .ok ()

/-- The instruction has its effect: `e` is the state after the effect, and `fl` says how control goes on. `finish` then
retires it and moves the thread on. -/
def Performs (i : Instr) (s e : State) (fl : Flow) : Prop := exec i s = .next (s.finish (.ok (e, fl)))

/-- The instruction has effect `e`, and control goes on to the next instruction. -/
def Does (i : Instr) (s e : State) : Prop := Performs i s e .next

/-- The instruction raises a cause with its information word, and has no effect of its own. -/
def Raises (i : Instr) (s : State) (c : Cause) (info : Word) : Prop := exec i s = .next (s.finish (.error (.cause c info)))

/-- The instruction waits: the thread stands before it with the reason `w`. -/
def Waits (i : Instr) (s : State) (w : Wait) : Prop := exec i s = .next (s.finish (.error (.wait w)))

/-- The event has effect `t`. -/
def Becomes (i : Instr) (s t : State) : Prop := exec i s = .next t

/-- No event of the debug unit or of a trap interferes with the completion of an instruction: no thread of the core or of
its gang has raised a cause, and single stepping is off. -/
def Quiet (s : State) : Prop :=
  (s.gangCores s.cur.core).any s.anyRaised = false ∧ s.thr.stepOne = false ∧
  ((s.arch s.cur.core).dbg.get 0x300 0).getLsbD 4 = false

/-- An access of `n` bytes at a VA goes through: the address is aligned and in the local HBM, its translation `t` is held and permits the
access, and nothing bars it or makes it wait (03 R78; 06 R210, R212; 10 R315, R325; 13 R398). -/
structure Reachable (s : State) (va n kind : Nat) (t : Xlat) : Prop where
  region : va < 2 ^ 54
  aligned : va % n = 0
  allowed : (s.cx s.cur.core).declined ≠ some (va, kind)
  memory : s.inAperture s.cur.core va = false
  written : s.ownMemExtent s.cur.core (s.launchNo s.cur.core) va (va + n) = false
  held : s.xlatOf (s.cx s.cur.core).asid va = some t
  plain : t.attr.getLsbD 12 = false
  permits : leafPermits t.attr kind (s.isSup s.cur.core) = true
  dirty : kind ≠ 0 → t.attr.getLsbD 8 = true
  clean : s.poisonBars (t.pfn * 65536 + va % 65536) n (kind = 1) = false
  free : s.grantHeld s.cur.core ((t.pfn * 65536 + va % 65536) / 64) = false
  unwatched : s.watchHit va n (kind != 1) (kind != 0) = false

/-- The chunk extension area of a core plays no part in what follows: it is off, or the undo log has room for `n` more entries (06 R192,
R194). -/
def LogRoom (s : State) (c n : Nat) : Prop :=
  fld (s.arch c).chkExt 0 0 = 0 ∨ (s.cx c).chunk.undo.length + ((s.cx c).pend.map (fun k => k.undo.length)).sum + n ≤ 896

/-- The acting core runs the context that acts, in a listed core. -/
def Listed (s : State) : Prop := s.cores.find s.cur.core = some (s.core s.cur.core)

/-- Nothing of the package but its cores differs. -/
def SamePackage (s t : State) : Prop := t = { s with cores := t.cores }

/-- What an instruction with a scalar or predicate result leaves unchanged: everything outside the acting core; on it, every
other thread and every other part of the context, but for the count of retired instructions; of the acting thread, everything
but the position and the registers that `x`, `f` do not name. -/
structure Frame (s t : State) (x : List Nat) (f : List Nat) : Prop where
  package : SamePackage s t
  cores : ∀ c, c ≠ s.cur.core → t.core c = s.core c
  threads : ∀ u, u ≠ s.cur.thr → t.thrAt s.cur.core u = s.thrAt s.cur.core u
  regs : ∀ n, n ∉ x → t.x n = s.x n
  preds : ∀ n, n ∉ f → t.f n = s.f n
  draws : t.thr.srnd = s.thr.srnd
  traps : (t.arch s.cur.core).trap = (s.arch s.cur.core).trap
  sup : (t.arch s.cur.core).sup = (s.arch s.cur.core).sup
  scale : (t.arch s.cur.core).scaleBase = (s.arch s.cur.core).scaleBase
  chkCtl : (t.arch s.cur.core).chkCtl = (s.arch s.cur.core).chkCtl
  files : ∀ i, (t.mtAt s.cur.core i).a = (s.mtAt s.cur.core i).a ∧ (t.mtAt s.cur.core i).m = (s.mtAt s.cur.core i).m ∧
    (t.mtAt s.cur.core i).fmtCtl = (s.mtAt s.cur.core i).fmtCtl ∧ (t.mtAt s.cur.core i).q = (s.mtAt s.cur.core i).q ∧
    (t.mtAt s.cur.core i).rq = (s.mtAt s.cur.core i).rq
  accs : t.acc = s.acc
  bytes : ∀ c pa, t.seeByte c pa = s.seeByte c pa
  slots : ∀ a, t.vault.read a = s.vault.read a

/-- The instructions with a scalar or predicate result (03 R79–R85): their prefixes, checks, destination registers and
destination predicates. -/
def Instr.scalar : Instr → Option (Pfx × Rules × List Nat × List Nat)
  | .add p f => some (p, binRules p f, [f.d.toNat], [])
  | .sub p f => some (p, binRules p f, [f.d.toNat], [])
  | .and p f => some (p, binRules p f, [f.d.toNat], [])
  | .or p f => some (p, binRules p f, [f.d.toNat], [])
  | .xor p f => some (p, binRules p f, [f.d.toNat], [])
  | .andn p f => some (p, binRules p f, [f.d.toNat], [])
  | .shl p f => some (p, binRules p f, [f.d.toNat], [])
  | .shr p f => some (p, binRules p f, [f.d.toNat], [])
  | .sar p f => some (p, binRules p f, [f.d.toNat], [])
  | .mul p f => some (p, binRules p f, [f.d.toNat], [])
  | .mulh p f => some (p, binRules p f, [f.d.toNat], [])
  | .mulhn p f => some (p, binRules p f, [f.d.toNat], [])
  | .div p f => some (p, binRules p f, [f.d.toNat], [])
  | .divn p f => some (p, binRules p f, [f.d.toNat], [])
  | .rem p f => some (p, binRules p f, [f.d.toNat], [])
  | .remn p f => some (p, binRules p f, [f.d.toNat], [])
  | .min p f => some (p, binRules p f, [f.d.toNat], [])
  | .minn p f => some (p, binRules p f, [f.d.toNat], [])
  | .max p f => some (p, binRules p f, [f.d.toNat], [])
  | .maxn p f => some (p, binRules p f, [f.d.toNat], [])
  | .mov p f => some (p, { named := [f.d.toNat, f.s.toNat] }, [f.d.toNat], [])
  | .clz p f => some (p, { named := [f.d.toNat, f.s.toNat] }, [f.d.toNat], [])
  | .ctz p f => some (p, { named := [f.d.toNat, f.s.toNat] }, [f.d.toNat], [])
  | .popc p f => some (p, { named := [f.d.toNat, f.s.toNat] }, [f.d.toNat], [])
  | .bext p f => some (p, fieldRules p f, [f.d.toNat], [])
  | .bins p f => some (p, fieldRules p f, [f.d.toNat], [])
  | .li p f => some (p, { imm := true, named := [f.d.toNat] }, [f.d.toNat], [])
  | .addi p f => some (p, { imm := true, named := [f.d.toNat] }, [f.d.toNat], [])
  | .cmpEq p f => some (p, cmpRules p f, [], [f.d.toNat])
  | .cmpNe p f => some (p, cmpRules p f, [], [f.d.toNat])
  | .cmpLt p f => some (p, cmpRules p f, [], [f.d.toNat])
  | .cmpGe p f => some (p, cmpRules p f, [], [f.d.toNat])
  | .cmpLtn p f => some (p, cmpRules p f, [], [f.d.toNat])
  | .cmpGen p f => some (p, cmpRules p f, [], [f.d.toNat])
  | .sel p f => some (p, { reg := true, lack := !hasReg p, bad := bits (regV p) 6 3 != 0,
                           named := [f.d.toNat, f.s.toNat, regT p] }, [f.d.toNat], [])
  | _ => none

/-- The data memories are in their canonical form. -/
def MemoriesOk (s : State) : Prop := s.mem.wf = true ∧ s.vault.wf = true ∧ s.acc.wf = true

/-- The form of a special function or of a conversion between plain values: one source. -/
def unaryForm (f : FV) (accept : Nat → Bool) : VForm :=
  { srcs := [⟨f.a.toNat, none⟩], dst := some f.d.toNat, accept := accept, rounds := true }

/-- The form of a reduction: its result type, and whether it has two sources (`vdot`) and reads its destination. -/
def redForm (f : FV) (o : BitVec 1) (dot : Bool) (ty : Nat → Nat) : VForm :=
  { srcs := ⟨f.a.toNat, none⟩ :: (if dot then [⟨f.b.toNat, none⟩] else []), dst := some f.d.toNat, back := o == 1
    dstTy := ty, chunk := true, accept := tagIsPlain }

/-- Sums are 64-bit integers or FP32 (04 R137). -/
def sumType (t : Nat) : Nat := if tagIsInt t then tagI64 else tagF32

/-- The vector instructions with a destination in the scratchpad (04 R132–R151): prefixes, fields, checks, and what the check
of their operands needs to know. -/
def Instr.vector : Instr → Option (Pfx × FV × Rules × VForm)
  | .vadd p f | .vsub p f | .vmul p f =>
    some (p, f, vRules p f true false false true false false, ewForm f tagIsPlain true)
  | .vfma p f | .vfms p f => some (p, f, vRules p f true false false true false false,
      { srcs := [⟨f.a.toNat, none⟩, ⟨f.b.toNat, none⟩, ⟨f.d.toNat, none⟩], dst := some f.d.toNat
        accept := tagIsFloat, rounds := true })
  | .vmax p f | .vmin p f | .vand p f | .vor p f | .vxor p f =>
    some (p, f, vRules p f true false true false false false, ewForm f tagIsPlain false)
  | .vshl p f | .vshr p f => some (p, f, vRules p f true false true false false false, ewForm f tagIsInt false)
  | .vmac p f => some (p, f, vRules p f true false false true false false,
      { ewForm f vmacType true with back := true, dstTy := wideOf })
  | .vsel p f => some (p, f, vRules p f true false true false (hasReg p && (vMsel p == 0 || vZ p)) (!hasReg p),
      ewForm f tagIsPlain false)
  | .vredsum p f o => some (p, f, vRules p f false (f.b != 0) false true (f.r != 0 && f.r != 7) false, redForm f o false sumType)
  | .vredmax p f o | .vredmin p f o => some (p, f, vRules p f false (f.b != 0) true false false false, redForm f o false id)
  | .vdot p f o => some (p, f, vRules p f false false false true (f.r != 0 && f.r != 7) false, redForm f o true sumType)
  | .vexp2 p f | .vlog2 p f | .vrcp p f | .vrsqrt p f | .vsqrt p f | .vtanh p f | .vsig p f | .vsin p f | .vcos p f =>
    some (p, f, vRules p f true (f.b != 0) false true false false, unaryForm f tagIsFloat)
  | .vcvt p f o => some (p, f, { convRules p f true true with extra := p.md.isSome && !floatOrAcc (vEtag p) },
      { convForm f cvtType cvtType with usrc := o == 1 })
  | .vqmx p f _ => some (p, f, convRules p f false false, { convForm f tagIsFloat tagIsMx with scales := true })
  | .vdqmx p f => some (p, f, convRules p f true true, convForm f tagIsMx tagIsFloat)
  | .vqbx p f _ => some (p, f, convRules p f true false, { convForm f tagIsFloat tagIsBx with scales := true })
  | .vdqbx p f => some (p, f, convRules p f true true, convForm f tagIsBx tagIsFloat)
  | .vmov p f => some (p, f, vRules p f true (f.b != 0) true false false false,
      { srcs := [⟨f.a.toNat, none⟩], dst := some f.d.toNat, accept := vmovType, copies := true })
  | .vperm p f => some (p, f, vRules p f true false true false false false,
      { srcs := [⟨f.a.toNat, none⟩, ⟨f.b.toNat, some tagI8⟩], dst := some f.d.toNat, accept := tagIsPlain })
  | .vshuf p f _ => some (p, f, vRules p f false false true false false false, ewForm f tagIsPlain false)
  | _ => none

/-- The operands of a vector instruction pass their checks, as `q` with destination `o`, and their lines can be opened, which
gives state `e`. -/
def Opened (s : State) (p : Pfx) (f : FV) (v : VForm) (q : VSet) (o : Opnd) (e : State) : Prop :=
  ∃ s', s.vset p f v = .ok (s', q) ∧ q.dst = some o ∧ s'.vopen v q = .ok e

/-- The element codes of a source, read in the opened state. -/
def Machine.VSet.src (q : VSet) (e : State) (i : Nat) : List Nat := (q.srcs[i]?.map e.codes).getD []

/-- A finite value without a remainder. -/
def Machine.Num.isExact : Num → Bool
  | .fin _ _ _ st => !st
  | _ => false
/-- The rational value of such a value. -/
def Machine.Num.rat : Num → ℚ
  | .fin n m e _ => (if n then -1 else 1) * (m : ℚ) * 2 ^ e
  | _ => 0

/-- The nodes of the tree of 04 R138: `v[i] := node(v[2i], v[2i+1])` at each level. -/
def Machine.redTree (node : Node → Node → Node) (leaf : Nat → Node) : Nat → Nat → Node
  | 0, i => leaf i
  | n + 1, i => node (redTree node leaf n (2 * i)) (redTree node leaf n (2 * i + 1))

/-- The vector instruction delivers `g z j` at each active place j of its destination, code and flags, where z is the place's draw under
SR (01 R27); `sp` is the destination's SP bit, and `k` what it does to the state beside. -/
def Delivers (i : Instr) (s : State) (p : Pfx) (f : FV) (v : VForm) (q : VSet) (o : Opnd) (e : State) (sp : Bool) (k : State → State)
    (nv : Flags) (g : Nat → Nat → Nat × Flags) : Prop :=
  let z := e.vdraws (v.rounds && e.vMode f == .sr) (vLen f)
  let es := (List.range (vLen f)).map (fun j => g (z.1.getD j 0) j)
  Does i s ((((k z.2).putCodes o (e.masked p (es.map (·.1)))).tagLines o sp).vdone p v q (s.clashes q)
    (e.activeFlags p (es.map (·.2)) ||| nv))

/-- The vector instruction leaves the codes `cs` in its destination, as far as its mask and Z let it, without flags. -/
def Leaves (i : Instr) (s : State) (p : Pfx) (v : VForm) (q : VSet) (o : Opnd) (e : State) (cs : List Nat) : Prop :=
  Does i s (((e.putCodes o (e.masked p cs)).tagLines o false).vdone p v q (s.clashes q) 0)

end Sys2Proof
end

