-- ==== Sys2Proof/Certificates/Slice0/Obligations.lean ====
section
/-! DEFINITION. The statements for the provers. `Does`, `Performs`, `Raises`, `Waits` and `Becomes` say what `exec` answers
(Safety.lean). -/
open Sys2Proof Sys2Proof.Machine

/-! ## Encodings and steps -/

/-- Decoding the words of any instruction gives the instruction back, with its length, whatever words follow (02 R42–R51,
R65–R67, R72). -/
def Obligations.DecodeEncode : Prop :=
  ∀ (i : Instr) (rest : List Half) (park : Nat → Bool), i.encodable = true →
    (∀ k, 0 < k → k < (encode i).length → park k = false) →
    decode (encode i ++ rest) park = (i, (encode i).length)

/-- Words worked out by hand in the spec decode to the instructions that it names: R82's example `bext`, R84's `cmp.lt f1, x2,
x3`, R92's block, R99's `amo.i64 x3, [x2], x4, add, far`, R113's `cut`, the gang example `gang #1` after R180. -/
def Obligations.DecodeSpecWords : Prop :=
  decode [0x050C] (fun _ => false) = (.add ⟨[], none, none, none⟩ ⟨4, 3⟩, 1) ∧
  decode [0xE308, 0x20D0] (fun _ => false) = (.bext ⟨[0x308], none, none, none⟩ ⟨3, 4⟩, 2) ∧
  decode [0xE980, 0x244A] (fun _ => false) = (.cmpLt ⟨[], some 0x180, none, none⟩ ⟨1, 2⟩, 2) ∧
  decode [0x60CB] (fun _ => false) = (.ldSigned ⟨[], none, none, none⟩ ⟨3, 2, 3⟩, 1) ∧
  decode [0x3088] (fun _ => false) = (.addi ⟨[], none, none, none⟩ ⟨2, 8⟩, 1) ∧
  decode [0x4D40] (fun _ => false) = (.loop ⟨[], none, none, none⟩ ⟨5, 0⟩, 1) ∧
  decode [0xEA10, 0x78C9] (fun _ => false) = (.amo ⟨[], some 0x210, none, none⟩ ⟨3, 2, 1⟩, 2) ∧
  decode [0xA002] (fun _ => false) = (.cut ⟨[], none, none, none⟩ ⟨0, 0⟩, 1) ∧
  decode [0xF400, 0x2401] (fun _ => false) = (.gang ⟨[], none, none, none⟩ ⟨0, 1⟩, 2)

/-- What is no instruction is refused with the cause of 02 R63 items 2 to 8: more than four prefixes, a repeated kind, a chain
without its base word, a park point within the chain, page 3, an unallocated major; run, it raises that cause. -/
def Obligations.ReservedEncodings : Prop :=
  ∀ (ws : List Half) (park : Nat → Bool),
    (∀ a b c d e r, ws = a :: b :: c :: d :: e :: r → isPfx a → isPfx b → isPfx c → isPfx d → isPfx e →
      (decode ws park).1 = .illegalEncoding 0x03) ∧
    (∀ (s : State) (k : Cause), Plain s → Raises (.illegalEncoding k) s k 0) ∧
    (∀ a b r, ws = a :: b :: r → isPfx a → isPfx b → pfxKind a = pfxKind b → pfxKind a ≠ 0 → (∀ w ∈ r.head?, ¬isPfx w) →
      (decode ws park).1 = .illegalEncoding 0x04) ∧
    (∀ a, ws = [a] → isPfx a → decode ws park = (.illegalEncoding 0x05, 1)) ∧
    (∀ a b r, ws = a :: b :: r → isPfx a → ¬isPfx b → park 1 = true → decode ws park = (.illegalEncoding 0x0C, 2)) ∧
    (∀ a b r, ws = a :: b :: r → isPfx a → ¬isPfx b → park 1 = false → pfxKind a = 2 → a.extractLsb' 9 2 = 3 →
      decode ws park = (.illegalEncoding 0x02, 2)) ∧
    (∀ b r, ws = b :: r → ¬isPfx b → (fMaj b = 0 ∨ fMaj b = 0x0E ∨ fMaj b = 0x0F ∨ 0x28 < (fMaj b).toNat) →
      decode ws park = (.illegalEncoding 0x00, 1))

/-- A step runs the instruction that is decoded: when the acting thread of the first turn stands in a block body and the
halfwords at its offset decode to `i`, the step is `exec` of `i`, with its length, in the state in which time has passed and
trace records have reached their sinks; nothing else is added. An instruction of one word is the one that the halfword at the
offset decodes to, with the header's park points (02 R45, R51, R57). Which turn comes first is the model's choice (log 1), and
the time that passes is free (log 2). -/
def Obligations.StepRunsDecoded : Prop :=
  (∀ (s : State) (t : Turn) (r : List Turn) (i : Instr) (n : Nat),
    s.agenda = t :: r → t.ev = none → s.recovery = false →
    let q : State := (({ ({ s with agenda := r } : State).pass with cur := t.cur } : State).drainAll none)
    q.mayAct q.cur.core q.cur.thr = true → q.thr.phase = .body → q.fetch = .ok (i, n) →
    step s = exec i { q with cur := { q.cur with len := n } }) ∧
  (∀ (s : State) (w : Half),
    s.fetchN s.cur.core (s.thr.blk.toNat + 4 + 2 * (s.thr.off - 1)) 2 2 = .ok w.toNat →
    s.thr.off ≤ hdrLen s.thr.hdr → isPfx w = false →
    s.fetch = .ok (decode [w] (parkAt s.thr.hdr s.thr.off)))

/-- A step with an event at the head of the agenda is that event. In recovery mode the package runs nothing but a start (13
R392): any other step stops with `recoveryMode`. That events stand in turns of an agenda is the model's choice (log 1). -/
def Obligations.StepRunsEvent : Prop :=
  ∀ s : State,
    (∀ (t : Turn) (r : List Turn) (i : Instr), s.agenda = t :: r → t.ev = some i → s.recovery = false →
      step s = exec i (({ ({ s with agenda := r } : State).pass with cur := t.cur } : State).drainAll t.full)) ∧
    (∀ t r, s.recovery = true → s.agenda = t :: r → t.starts = false → step s = .fault .recoveryMode) ∧
    (s.recovery = true → s.agenda = [] → step s = .fault .recoveryMode)

/-- After reset the data memories are in their canonical form: addresses rise strictly, and no listed byte equals what an
unlisted address reads as. The form, and 0 as what an unlisted byte reads as, are the model's choice (log 3, 4). -/
def Obligations.MemoriesOkAtReset : Prop := MemoriesOk State.reset

/-- Every step keeps the canonical form of the memory, of the vault slots and of the accumulator memories. The form is the
model's choice (log 3). -/
def Obligations.StepKeepsMemoriesOk : Prop :=
  ∀ s s' : State, MemoriesOk s → step s = .next s' → MemoriesOk s'

/-! ## Scalar registers -/

/-- x0 and f0 (01 R10): writes are discarded, reads give 0 and true; a far result for x0 sets no far-pending bit and is
discarded when it arrives. Any other scalar register or predicate that is written reads back, and no other one changes (01
R9). -/
def Obligations.ZeroRegisters : Prop :=
  (∀ (s : State) (n m : Nat) (v : Word) (b : Bool),
    (n ≠ 0 → (s.setX n v).x n = v) ∧ (m ≠ n → (s.setX n v).x m = s.x m) ∧ (s.setX n v).f m = s.f m ∧
    (n ≠ 0 → n < 8 → (s.setF n b).f n = b) ∧ (m ≠ n → (s.setF n b).f m = s.f m) ∧ (s.setF n b).x m = s.x m) ∧
  ∀ t : Thr, t.getX 0 = 0 ∧ t.getF 0 = true ∧ (∀ v, t.setX 0 v = t) ∧ (∀ b, t.setF 0 b = t) ∧
    (∀ src, (t.issueFar 0 src).farp = t.farp) ∧
    (∀ (s : State) (c u n : Nat) (e : Far), (s.thrAt c u).far = [e] → e.reg = 0 → n ≠ 0 →
      ((s.arriveFar c u 0).thrAt c u).getX n = (s.thrAt c u).getX n ∧ ((s.arriveFar c u 0).thrAt c u).getX 0 = 0)

/-- The results of the binary integer instructions on their operands a and b (03 R79, R80), in every operand form. -/
def Obligations.IntegerResults : Prop :=
  ∀ (p : Pfx) (f : FA) (s : State), Passes s p (binRules p f) →
    let a := s.opA p f
    let b := s.opB p f
    let res := fun (v : Word) => s.setX f.d.toNat v
    let sh := (b.extractLsb' 0 6).toNat
    Does (.add p f) s (res (a + b)) ∧ Does (.sub p f) s (res (a - b)) ∧ Does (.and p f) s (res (a &&& b)) ∧
    Does (.or p f) s (res (a ||| b)) ∧ Does (.xor p f) s (res (a ^^^ b)) ∧ Does (.andn p f) s (res (a &&& ~~~b)) ∧
    Does (.shl p f) s (res (a <<< sh)) ∧ Does (.shr p f) s (res (a >>> sh)) ∧ Does (.sar p f) s (res (a.sshiftRight sh)) ∧
    Does (.mul p f) s (res (a * b)) ∧
    Does (.mulh p f) s (res ((a.signExtend 128 * b.signExtend 128).extractLsb' 64 64)) ∧
    Does (.mulhn p f) s (res ((a.zeroExtend 128 * b.zeroExtend 128).extractLsb' 64 64)) ∧
    Does (.div p f) s (res (if b = 0 then BitVec.allOnes 64 else a.sdiv b)) ∧
    Does (.divn p f) s (res (if b = 0 then BitVec.allOnes 64 else a / b)) ∧
    Does (.rem p f) s (res (if b = 0 then a else a.srem b)) ∧
    Does (.remn p f) s (res (if b = 0 then a else a % b)) ∧
    Does (.min p f) s (res (if a.sle b then a else b)) ∧ Does (.minn p f) s (res (if a.ule b then a else b)) ∧
    Does (.max p f) s (res (if b.sle a then a else b)) ∧ Does (.maxn p f) s (res (if b.ule a then a else b))

/-- The operands of the binary integer instructions by the prefixes present, with immediates of one to four prefixes, and the
constraints whose failure raises 0x08 in every one of them (03 R79); a MOD prefix raises 0x06 (02 R49). -/
def Obligations.IntegerOperands : Prop :=
  ∀ (p : Pfx) (f : FA) (s : State),
    s.opA p f = (if p.reg.isSome then s.x f.s.toNat else s.x f.d.toNat) ∧
    (p.imms = [] → p.reg = none → s.opB p f = s.x f.s.toNat) ∧
    (∀ r, p.imms = [] → p.reg = some r → s.opB p f = s.x (r.extractLsb' 7 4).toNat) ∧
    (∀ v, p.imms = [v] → s.opB p f = v.signExtend 64) ∧
    (∀ v w, p.imms = [v, w] → s.opB p f = (v ++ w).signExtend 64) ∧
    (∀ u v w, p.imms = [u, v, w] → s.opB p f = (u ++ v ++ w).signExtend 64) ∧
    (∀ t u v w, p.imms = [t, u, v, w] → s.opB p f = (t ++ u ++ v ++ w).signExtend 64) ∧
    (∀ i x y, i.scalar = some (p, binRules p f, x, y) → Plain s →
      (∀ r, p.md = none → p.reg = some r → r.extractLsb' 0 7 ≠ 0 → Raises i s 0x08 0) ∧
      (∀ r, p.md = none → p.imms ≠ [] → p.reg = some r → r.extractLsb' 7 4 ≠ 0 → Raises i s 0x08 0) ∧
      (p.md = none → p.imms ≠ [] → p.reg = none → f.s ≠ 0 → Raises i s 0x08 0) ∧
      (p.md.isSome → Raises i s 0x06 0))

/-- `mov` (03 R79), `clz`, `ctz` and `popc` (03 R81); a REG or IMM prefix raises 0x06. -/
def Obligations.UnaryResults : Prop :=
  ∀ (p : Pfx) (f : FA) (s : State),
    let a := s.x f.s.toNat
    let res := fun (v : Word) => s.setX f.d.toNat v
    (Passes s p { named := [f.d.toNat, f.s.toNat] } →
      Does (.mov p f) s (res a) ∧
      Does (.clz p f) s (res (BitVec.ofNat 64 ((List.range 64).takeWhile (fun k => !a.getLsbD (63 - k))).length)) ∧
      Does (.ctz p f) s (res (BitVec.ofNat 64 ((List.range 64).takeWhile (fun k => !a.getLsbD k)).length)) ∧
      Does (.popc p f) s (res (BitVec.ofNat 64 ((List.range 64).countP (fun k => a.getLsbD k))))) ∧
    (Plain s → (p.reg.isSome ∨ p.imms ≠ []) →
      Raises (.mov p f) s 0x06 0 ∧ Raises (.clz p f) s 0x06 0 ∧ Raises (.ctz p f) s 0x06 0 ∧ Raises (.popc p f) s 0x06 0)

/-- `bext` and `bins` (03 R82): their words, their results, and the causes of a missing IMM prefix, a REG prefix and a field
out of range. -/
def Obligations.BitFields : Prop :=
  ∀ (p : Pfx) (f : FA) (s : State), Plain s →
    let imm := uimm p 0 0
    let pos := imm % 64
    let len := imm / 64 % 128
    let ones := BitVec.ofNat 64 (2 ^ len - 1)
    let bare : Pfx := ⟨[], none, none, none⟩
    (encode (.bext bare f) = [(0x08#6 ++ f.d ++ f.s ++ 0#2 : BitVec 16)] ∧
      encode (.bins bare f) = [(0x08#6 ++ f.d ++ f.s ++ 1#2 : BitVec 16)]) ∧
    (∀ v, p.imms = [v] → imm = v.toNat) ∧ (∀ v w, p.imms = [v, w] → imm = (v ++ w).toNat) ∧
    (∀ u v w, p.imms = [u, v, w] → imm = (u ++ v ++ w).toNat) ∧ (∀ t u v w, p.imms = [t, u, v, w] → imm = (t ++ u ++ v ++ w).toNat) ∧
    (Passes s p (fieldRules p f) →
      Does (.bext p f) s (s.setX f.d.toNat ((s.x f.s.toNat >>> pos) &&& ones)) ∧
      Does (.bins p f) s (s.setX f.d.toNat
        ((s.x f.d.toNat &&& ~~~(ones <<< pos)) ||| ((s.x f.s.toNat &&& ones) <<< pos)))) ∧
    (p.reg.isSome → Raises (.bext p f) s 0x06 0 ∧ Raises (.bins p f) s 0x06 0) ∧
    (p.reg = none → p.md = none → p.imms = [] → Raises (.bext p f) s 0x07 0 ∧ Raises (.bins p f) s 0x07 0) ∧
    (p.reg = none → p.md = none → p.imms ≠ [] → p.pg.getD 0 = 0 → (2 ^ 13 ≤ imm ∨ len = 0 ∨ 64 < pos + len) →
      Raises (.bext p f) s 0x09 0 ∧ Raises (.bins p f) s 0x09 0)

/-- `li` and `addi` (03 R83): their words, their results, the immediate of 6 to 50 bits, and the REG prefix that neither
accepts. -/
def Obligations.Immediates : Prop :=
  ∀ (p : Pfx) (f : FI) (s : State), Plain s →
    (Passes s p { imm := true, named := [f.d.toNat] } →
      Does (.li p f) s (s.setX f.d.toNat (wordOfInt (simm p 6 f.i.toNat))) ∧
      Does (.addi p f) s (s.setX f.d.toNat (s.x f.d.toNat + wordOfInt (simm p 6 f.i.toNat)))) ∧
    (encode (.li ⟨[], none, none, none⟩ f) = [(0x0B#6 ++ f.d ++ f.i : BitVec 16)] ∧
      encode (.addi ⟨[], none, none, none⟩ f) = [(0x0C#6 ++ f.d ++ f.i : BitVec 16)]) ∧
    (p.imms = [] → wordOfInt (simm p 6 f.i.toNat) = f.i.signExtend 64) ∧
    (∀ a, p.imms = [a] → wordOfInt (simm p 6 f.i.toNat) = (a ++ f.i).signExtend 64) ∧
    (∀ a b, p.imms = [a, b] → wordOfInt (simm p 6 f.i.toNat) = (a ++ b ++ f.i).signExtend 64) ∧
    (∀ a b c, p.imms = [a, b, c] → wordOfInt (simm p 6 f.i.toNat) = (a ++ b ++ c ++ f.i).signExtend 64) ∧
    (∀ a b c d, p.imms = [a, b, c, d] → wordOfInt (simm p 6 f.i.toNat) = (a ++ b ++ c ++ d ++ f.i).signExtend 64) ∧
    (p.reg.isSome → Raises (.li p f) s 0x06 0 ∧ Raises (.addi p f) s 0x06 0)

/-- The comparisons (03 R84): their words, their outcomes, predicate numbers above 7, variant bits, and the operand that is
missing or given twice. `sel` (03 R85): its word, its result by the predicate, and the prefixes that it needs and that it does not
accept. -/
def Obligations.ComparisonsAndSelect : Prop :=
  ∀ (p : Pfx) (f : FA) (s : State), Plain s →
    let a := s.x f.s.toNat
    let b := match p.reg with | some r => s.x (r.extractLsb' 7 4).toNat | none => wordOfInt (simm p 0 0)
    let res := fun (v : Bool) => s.setF f.d.toNat v
    let bare : Pfx := ⟨[], none, none, none⟩
    let w9 := fun (z : BitVec 2) => [(0x09#6 ++ f.d ++ f.s ++ z : BitVec 16)]
    let wA := fun (z : BitVec 2) => [(0x0A#6 ++ f.d ++ f.s ++ z : BitVec 16)]
    (encode (.cmpEq bare f) = w9 0 ∧ encode (.cmpNe bare f) = w9 1 ∧ encode (.cmpLt bare f) = w9 2 ∧ encode (.cmpGe bare f) = w9 3 ∧
      encode (.cmpLtn bare f) = wA 0 ∧ encode (.cmpGen bare f) = wA 1) ∧
    (∀ v, p.imms = [v] → wordOfInt (simm p 0 0) = v.signExtend 64) ∧
    (∀ v w, p.imms = [v, w] → wordOfInt (simm p 0 0) = (v ++ w).signExtend 64) ∧
    (∀ u v w, p.imms = [u, v, w] → wordOfInt (simm p 0 0) = (u ++ v ++ w).signExtend 64) ∧
    (∀ t u v w, p.imms = [t, u, v, w] → wordOfInt (simm p 0 0) = (t ++ u ++ v ++ w).signExtend 64) ∧
    (Passes s p (cmpRules p f) →
      Does (.cmpEq p f) s (res (a == b)) ∧ Does (.cmpNe p f) s (res (a != b)) ∧ Does (.cmpLt p f) s (res (a.slt b)) ∧
      Does (.cmpGe p f) s (res (b.sle a)) ∧ Does (.cmpLtn p f) s (res (a.ult b)) ∧ Does (.cmpGen p f) s (res (b.ule a))) ∧
    (p.md = none → (p.reg.isSome ↔ p.imms = []) → (7 < f.d.toNat ∨ ∃ r, p.reg = some r ∧ r.extractLsb' 0 7 ≠ 0) →
      Raises (.cmpEq p f) s 0x08 0 ∧ Raises (.cmpNe p f) s 0x08 0 ∧ Raises (.cmpLt p f) s 0x08 0 ∧
      Raises (.cmpGe p f) s 0x08 0 ∧ Raises (.cmpLtn p f) s 0x08 0 ∧ Raises (.cmpGen p f) s 0x08 0) ∧
    (p.md = none → p.reg = none → p.imms = [] →
      Raises (.cmpEq p f) s 0x07 0 ∧ Raises (.cmpNe p f) s 0x07 0 ∧ Raises (.cmpLt p f) s 0x07 0 ∧
      Raises (.cmpGe p f) s 0x07 0 ∧ Raises (.cmpLtn p f) s 0x07 0 ∧ Raises (.cmpGen p f) s 0x07 0) ∧
    (p.reg.isSome → p.imms ≠ [] →
      Raises (.cmpEq p f) s 0x06 0 ∧ Raises (.cmpNe p f) s 0x06 0 ∧ Raises (.cmpLt p f) s 0x06 0 ∧
      Raises (.cmpGe p f) s 0x06 0 ∧ Raises (.cmpLtn p f) s 0x06 0 ∧ Raises (.cmpGen p f) s 0x06 0) ∧
    encode (.sel bare f) = [(0x0D#6 ++ f.d ++ f.s ++ 0#2 : BitVec 16)] ∧
    (∀ r, p.reg = some r →
      (Passes s p { reg := true, named := [f.d.toNat, f.s.toNat, (r.extractLsb' 7 4).toNat] } → r.extractLsb' 3 4 = 0 →
        Does (.sel p f) s (s.setX f.d.toNat
          (if s.f (r.extractLsb' 0 3).toNat then s.x f.s.toNat else s.x (r.extractLsb' 7 4).toNat))) ∧
      (p.imms = [] → p.md = none → r.extractLsb' 3 4 ≠ 0 → Raises (.sel p f) s 0x08 0)) ∧
    (p.reg = none → p.imms = [] → p.md = none → Raises (.sel p f) s 0x07 0) ∧
    (p.imms ≠ [] → Raises (.sel p f) s 0x06 0)

/-- Relative transfers (03 R86–R88): `br`, `call` and `brc` to `blk` + sext(imm) × 8; `call` writes x15 with the address of
the block that follows; `brc` is taken when fp ^ inv = 1, and otherwise the block goes on. A target outside the address space
raises 0x73, and one that is not a multiple of 8 raises 0x70, in each of the three, with the target as information: no register is
written and nothing is transferred. -/
def Obligations.RelativeTransfers : Prop :=
  ∀ (p : Pfx) (o : BitVec 10) (f : FI) (s : State), s.follows = false →
    let far := s.thr.blk + wordOfInt (simm p 10 o.toNat * 8)
    let near := s.thr.blk + wordOfInt (simm p 6 f.i.toNat * 8)
    (Passes s p { transfer := true, imm := true } →
      (s.targetCause far = none → Performs (.br p o) s s (.jump far)) ∧
      (∀ c, s.targetCause far = some c → Raises (.br p o) s c far) ∧
      ((s.f (f.d.extractLsb' 0 3).toNat ^^ f.d.getLsbD 3) = true → s.targetCause near = none → Performs (.brc p f) s s (.jump near)) ∧
      ((s.f (f.d.extractLsb' 0 3).toNat ^^ f.d.getLsbD 3) = false → Does (.brc p f) s s)) ∧
    (Passes s p { transfer := true, imm := true } → ∀ c, s.targetCause near = some c →
      (s.f (f.d.extractLsb' 0 3).toNat ^^ f.d.getLsbD 3) = true → Raises (.brc p f) s c near) ∧
    (Passes s p { transfer := true, imm := true, named := [15] } →
      (s.targetCause far = none →
        Performs (.call p o) s (s.setX 15 (s.thr.blk + BitVec.ofNat 64 ((4 + 2 * hdrLen s.thr.hdr + 7) / 8 * 8))) (.jump far)) ∧
      (∀ c, s.targetCause far = some c → Raises (.call p o) s c far)) ∧
    (s.atSteward = false → ∀ t, s.targetCause t =
      if 2 ^ 56 ≤ t.toNat ∨ t.extractLsb' 54 2 = 3 then some 0x73 else if t.extractLsb' 0 3 ≠ 0 then some 0x70 else none)

/-- `loop`, `jmp`, `ret` and `stop` (03 R89–R91). A target outside the address space raises 0x73, and one that is not a multiple of 8
raises 0x70, with the target as information, and the counter of `loop` stays. `stop` ends the stream. In a broadcast block a control
transfer raises 0x0D (02 R55; 03 R86). -/
def Obligations.LoopsAndJumps : Prop :=
  ∀ (p : Pfx) (f : FA) (h : FI) (s : State), s.follows = false →
    let t := s.thr.blk + wordOfInt (simm p 6 h.i.toNat * 8)
    (Plain s →
      (Passes s p { transfer := true, imm := true, named := [h.d.toNat] } → h.d ≠ 0 →
        (1 < (s.x h.d.toNat).toNat → s.targetCause t = none →
          Performs (.loop p h) s (s.setX h.d.toNat (s.x h.d.toNat - 1)) (.jump t)) ∧
        (1 < (s.x h.d.toNat).toNat → ∀ c, s.targetCause t = some c → Raises (.loop p h) s c t) ∧
        ((s.x h.d.toNat).toNat ≤ 1 → Does (.loop p h) s (s.setX h.d.toNat 0))) ∧
      (Passes s p { transfer := true, imm := true } → h.d = 0 → Raises (.loop p h) s 0x08 0)) ∧
    (Passes s p { transfer := true, bad := f.d != 0, named := [f.s.toNat] } →
      (s.targetCause (s.x f.s.toNat) = none →
        Performs (.jmp p f) s s (.jump (s.x f.s.toNat)) ∧ Performs (.ret p f) s s (.jump (s.x f.s.toNat))) ∧
      (∀ c, s.targetCause (s.x f.s.toNat) = some c →
        Raises (.jmp p f) s c (s.x f.s.toNat) ∧ Raises (.ret p f) s c (s.x f.s.toNat))) ∧
    (s.atSteward = false → ∀ t, s.targetCause t =
      if 2 ^ 56 ≤ t.toNat ∨ t.extractLsb' 54 2 = 3 then some 0x73 else if t.extractLsb' 0 3 ≠ 0 then some 0x70 else none) ∧
    (Passes s p { transfer := true, bad := f.d != 0 || f.s != 0 } → Performs (.stop p f) s s .stop) ∧
    (∀ (o : BitVec 10) (g : FI), Plain s → s.inBcast = true →
      Raises (.br p o) s 0x0D 0 ∧ Raises (.brc p g) s 0x0D 0 ∧ Raises (.call p o) s 0x0D 0 ∧ Raises (.loop p g) s 0x0D 0 ∧
      Raises (.jmp p f) s 0x0D 0 ∧ Raises (.ret p f) s 0x0D 0 ∧ Raises (.stop p f) s 0x0D 0)

/-- `nop` (03 R92): its word; no effect, in any block; a field that is not 0 raises 0x08. -/
def Obligations.NoOperation : Prop :=
  ∀ (p : Pfx) (f : FA) (s : State), Plain s → p.reg = none → p.imms = [] → p.md = none → p.pg.getD 0 = 0 →
    encode (.nop ⟨[], none, none, none⟩ f) = [(0x14#6 ++ f.d ++ f.s ++ 3#2 : BitVec 16)] ∧
    (f.d = 0 → f.s = 0 → Does (.nop p f) s s) ∧ ((f.d ≠ 0 ∨ f.s ≠ 0) → Raises (.nop p f) s 0x08 0)

/-- An integer instruction, a comparison or `sel` changes nothing but its destination register or predicate and the thread's
position: no other register, thread, core, special register, trap register, accumulator or byte (03 R76, R80–R85). -/
def Obligations.ScalarFrame : Prop :=
  ∀ (i : Instr) (p : Pfx) (r : Rules) (x f : List Nat) (s : State), i.scalar = some (p, r, x, f) →
    Passes s p r → Quiet s → ∃ t, exec i s = .next t ∧ Frame s t x f

/-- How a thread goes on after an instruction (02 R57, R59; 06 R186): the offset moves past its halfwords, the chunk has one
more instruction; where the instruction ended the body and no far result is pending, the thread stands at the next block in
memory, or an MT in a broadcast block returns to its block queue. -/
def Obligations.GoesOn : Prop :=
  ∀ s e : State, e.cur = s.cur → Quiet e → e.atSteward = false → e.thr.phase = .body → e.thr.far = [] →
    e.cur.thr ≤ 16 → e.thr.parkDue = false → hdrParks e.thr.hdr = 0 →
    let t := s.finish (.ok (e, .next))
    let off := e.thr.off + e.cur.len
    (t.cx s.cur.core).chunk.retired = (e.cx s.cur.core).chunk.retired + 1 ∧
    (off ≤ hdrLen e.thr.hdr → t.thr.off = off ∧ t.thr.phase = .body ∧ t.thr.blk = e.thr.blk) ∧
    (hdrLen e.thr.hdr < off → e.inBcast = false → t.thr.phase = .entry (nextBlock e.thr.blk e.thr.hdr)) ∧
    (hdrLen e.thr.hdr < off → e.inBcast = true → t.thr.phase = .idle ∧ t.mt.mode = .idle)


/-! ## Fences, draws, identity and control registers -/

/-- `fence.pkg`, `fence.sys` and `cut` (03 R100, R113) request a cut of the chunk; `fence.sys` marks the chunk, and from its
cut on a load from a peer device waits. The steward, which executes no chunks (07 R245), goes on. -/
def Obligations.FencesAndCut : Prop :=
  ∀ (p : Pfx) (f : FA) (s : State), Passes s p { bad := f.d != 0 || f.s != 0 } →
    let c := s.cur.core
    let marked := s.upCx c (fun x => { x with chunk := { x.chunk with fenceSys := true } })
    (s.atSteward = false → Does (.fencePkg p f) s (s.requestCut c) ∧ Does (.cut p f) s (s.requestCut c) ∧
      Does (.fenceSys p f) s (marked.requestCut c)) ∧
    (s.atSteward = true → Does (.fencePkg p f) s s ∧ Does (.fenceSys p f) s s ∧ Does (.cut p f) s s) ∧
    ((s.requestCut c).cx c).chunk.cutReq = true ∧ ((marked.requestCut c).cx c).chunk.fenceSys = true ∧
    (∀ q : State, (q.cx c).pend.any (·.fenceSys) = true → ∀ r map, q.peerRead c r map = .error (.wait .offPackage))

/-- `rng` (03 R105) draws from the thread's own stream and counts the draw, also for x0; `rdid` (03 R106) gives the number
that its selector names, and raises 0x09 above 17. -/
def Obligations.DrawsAndIdentity : Prop :=
  ∀ (p : Pfx) (f : FI) (s : State), s.atSteward = false →
    let id := if s.isCt then 65536 + s.cur.core else s.cur.core * 16 + s.cur.thr
    let v := fzr4 ((s.cx s.cur.core).seeds.headD 0) id s.thr.srnd
    let drawn := s.upThr (fun t => { t with srnd := t.srnd + 1 })
    let gives := fun (w : Word) => Does (.rdid p f) s (s.setX f.d.toNat w)
    (Passes s p { named := [f.d.toNat] } →
      (f.i = 0 → Does (.rng p f) s (drawn.setX f.d.toNat v)) ∧
      (f.i ≠ 0 → Does (.rng p f) s (drawn.setX f.d.toNat (BitVec.ofNat 64 (v.toNat % 2 ^ f.i.toNat))))) ∧
    (Passes s p { range := decide (17 < f.i.toNat), named := [f.d.toNat] } →
      (f.i = 0 → gives (BitVec.ofNat 64 s.cur.thr)) ∧ (f.i = 1 → gives (BitVec.ofNat 64 id)) ∧
      (f.i = 2 → gives (BitVec.ofNat 64 (s.cur.core % 256))) ∧ (f.i = 3 → gives (BitVec.ofNat 64 (s.cur.core / 256 % 4))) ∧
      (f.i = 4 → gives (BitVec.ofNat 64 (s.cur.core / 1024 % 4))) ∧ (f.i = 5 → gives (BitVec.ofNat 64 s.cur.core)) ∧
      (f.i = 6 → gives ((s.arch s.cur.core).ids.get 0x43 0)) ∧ (f.i = 7 → gives (BitVec.ofNat 64 (s.core s.cur.core).slotNo)) ∧
      (∀ k : Nat, k < 9 → f.i.toNat = 8 + k → gives ((s.arch s.cur.core).ids.get (0x44 + k) 0)) ∧
      (f.i = 17 → gives (BitVec.ofNat 64 s.cycle))) ∧
    (Plain s → p.reg = none → p.imms = [] → p.md = none → p.pg.getD 0 = 0 → 17 < f.i.toNat → Raises (.rdid p f) s 0x09 0)

/-- `csrr` and `csrw` (03 R107, R108): both wait until the thread's earlier results have arrived; then `csrr` gives the value
of the register, and `csrw` leaves the value that its field map keeps. A number above 0x3FF raises 0x09, a register that the
thread does not have 0x13, a privileged one without supervisor privilege 0x0F. The wait, and that a micro-thread's write of 0x180 raises
0x13, are the model's readings (log 44, 101). -/
def Obligations.ControlRegisters : Prop :=
  ∀ (p : Pfx) (f : FI) (s : State), Passes s p (csrRules p f) →
    let n := uimm p 6 f.i.toNat
    let v := s.x f.d.toNat
    let a := s.arch s.cur.core
    (∀ w, s.csr n = some w → s.thr.far = [] → Does (.csrr p f) s (s.setX f.d.toNat w)) ∧
    (∀ w, s.csr n = some w → s.thr.far ≠ [] → Waits (.csrr p f) s .results) ∧
    (s.csr n = none → Raises (.csrr p f) s 0x13 0 ∧ Raises (.csrw p f) s 0x13 0) ∧
    (s.isCt = false → n = 0 → s.thr.far = [] →
      Does (.csrw p f) s (s.setMt { s.mt with fmtCtl := writeFmtCtl s.mt.fmtCtl v })) ∧
    (s.isCt = false → (n = 4 ∨ n = 0x180) → Raises (.csrw p f) s 0x13 0) ∧
    (n = 2 → s.thr.far = [] → Does (.csrw p f) s (s.upThr (fun t => { t with srnd := v }))) ∧
    (s.isCt = true → s.isSup s.cur.core = false → 0x60 ≤ n → n ≤ 0x67 → Raises (.csrw p f) s 0x0F 0) ∧
    (s.isCt = true → s.isSup s.cur.core = true → s.thr.far = [] →
      (n = 0x64 → Does (.csrw p f) s (s.setArch s.cur.core { a with trap := { a.trap with vec := v &&& 0x00FFFFFFFFFFFFF8 } })) ∧
      (n = 0x63 → Does (.csrw p f) s (s.setArch s.cur.core { a with trap := { a.trap with info := v } })) ∧
      (n = 0x66 → Does (.csrw p f) s (s.setArch s.cur.core { a with trap := { a.trap with save0 := v } }))) ∧
    (s.isCt = true → s.thr.far = [] → n = 4 →
      Does (.csrw p f) s (s.setArch s.cur.core { a with scaleBase := v &&& 0x1FFFC0 }))

/-! ## Causes, handlers and resumption -/

/-- `trap #n` (03 R111). -/
def Obligations.TrapInstruction : Prop :=
  ∀ (p : Pfx) (f : FI) (s : State), Plain s → p.md = none → p.reg = none → p.pg.getD 0 = 0 →
    (p.imms = [] → f.d = 0 → f.i.toNat < 32 → Raises (.trap p f) s (0xE0 + f.i.setWidth 8) 0) ∧
    (p.imms = [] → f.d = 0 → 32 ≤ f.i.toNat → Raises (.trap p f) s 0x09 0) ∧
    (p.imms = [] → f.d ≠ 0 → Raises (.trap p f) s 0x08 0) ∧
    (p.imms ≠ [] → Raises (.trap p f) s 0x06 0) ∧
    encode (.trap ⟨[], none, none, none⟩ f) = [(0x27#6 ++ f.d ++ f.i : BitVec 16)]

/-- A thread that raises a cause stands before its instruction with the cause recorded, and its chunk is squashed and executed
again in stepped mode (06 R214); a steward, which executes no chunks (07 R245), takes the cause when its far results have
arrived (02 R61). In stepped mode, once every thread is ready, the chunk is cut before the raising instructions, and its causes are to be
taken; when that chunk has committed, every MT, or the CT, that raised a cause takes it. -/
def Obligations.RaisingACause : Prop :=
  ∀ (s : State) (k : Cause) (info : Word), (s.arch s.cur.core).gang = none → s.cur.thr ≤ 16 →
    let c := s.cur.core
    let r : Raised := { cause := k, info := info, hdrFault := false, blk := 0 }
    let t := s.finish (.error (.cause k info))
    (s.atSteward = false → (s.cx c).chunk.stepped = false → (s.cx c).taking = false →
      (t.cx c).chunk.stepped = true ∧ (s.cx c).chunk.retired ≤ (t.cx c).chunk.target ∧ t.mem = s.mem) ∧
    (s.atSteward = false → (s.cx c).chunk.stepped = true → (s.raiseHere k info).steppedReady c = false →
      t = s.raiseHere k info ∧ t.thr.raised = some r ∧ t.thr.blk = s.thr.blk ∧ t.thr.off = s.thr.off) ∧
    (s.atSteward = true → s.cur.thr = 16 → s.thr.pending ≠ [] → t = s.raiseHere k info) ∧
    (s.atSteward = true → s.cur.thr = 16 → s.thr.pending = [] → k ≠ 0x17 → k ≠ 0xAB →
      t = ((s.raiseHere k info).upThrAt c 16 (fun t => { t with raised := none })).takeException c k false
        ⟨s.thr.blk, s.thr.off, s.thr.park⟩ info) ∧
    (s.atSteward = false → (s.cx c).chunk.stepped = true → (s.raiseHere k info).steppedReady c = true →
      let q := s.raiseHere k info
      t = q.cut c true ∧ ((q.cutOne c true).cx c).taking = true ∧
        ((q.cutOne c true).cx c).pend = (q.cx c).pend ++ [{ (q.cx c).chunk with st := .cut }]) ∧
    (s.takeDue c = true → let q := s.takeCauses c
      Becomes .commitFinish s q ∧ (q.cx c).taking = false ∧
      ((s.arch c).ct.raised = none → ∀ i r, i < 16 → (s.mtAt c i).thr.raised = some r → r.aux = 0 →
        (q.mtAt c i).cause = r.cause ∧ (q.mtAt c i).thr.raised = none ∧
          ((q.mtAt c i).thr.phase = .faulted ∨ (q.mtAt c i).thr.phase = .halted)) ∧
      (∀ r, c < 4096 → (s.arch c).ct.raised = some r → r.aux = 0 → haltsOn ((s.arch c).dbg.get 0x300 0) r.cause = false →
        (s.arch c).ct.stepOne = false → (s.arch c).trap.stat.getLsbD 0 = false → (s.arch c).trap.vec ≠ 0 →
        (∀ i, i < 16 → (s.mtAt c i).thr.raised = none) →
        (q.arch c).trap.cause = BitVec.ofNat 64 r.cause.toNat ∧ (q.arch c).trap.info = r.info ∧
          (q.arch c).trap.stat.getLsbD 0 = true ∧ (q.arch c).ct.phase = .entry (s.arch c).trap.vec))

/-- How the control thread takes a cause (06 R216, R217): the trap registers record cause, place and information, PPRIV the
privilege; INH is set, supervisor privilege gained, and the thread enters the block at VEC. The micro-threads and everything
else stay. Without a handler the instance ends with the cause; inside the handler, with 0xAF and the nested cause. -/
def Obligations.HandlerEntry : Prop :=
  ∀ (s : State) (c : Nat) (k : Cause) (async : Bool) (r : Rec) (info : Word), c < 4096 →
    let o := s.arch c
    let t := s.takeException c k async r info
    let a := t.arch c
    (o.trap.stat.getLsbD 0 = false → o.trap.vec ≠ 0 →
      SamePackage s t ∧ (∀ d, d ≠ c → t.core d = s.core d) ∧
      a.trap.cause = BitVec.ofNat 64 (k.toNat + 256 * (if async then 1 else 0)) ∧ a.trap.info = info ∧
      a.trap.blk = (r.blk &&& 0x00FFFFFFFFFFFFF8) ∧
      a.trap.off = BitVec.ofNat 64 (r.off + 256 * r.park + (if async = false ∧ (k = 0x14 ∨ 0xE0 ≤ k.toNat) then 2048 else 0)) ∧
      a.trap.stat.getLsbD 0 = true ∧ a.trap.stat.getLsbD 1 = o.sup ∧ a.sup = true ∧ a.ct.phase = .entry o.trap.vec ∧
      a.trap.vec = o.trap.vec ∧ a.trap.save0 = o.trap.save0 ∧ a.trap.save1 = o.trap.save1 ∧ a.mts = o.mts ∧
      (∀ n, a.ct.getX n = o.ct.getX n ∧ a.ct.getF n = o.ct.getF n)) ∧
    (o.trap.stat.getLsbD 0 = false → o.trap.vec = 0 → t = s.endInstance c (s.launchNo c)
      { code := k, thr := 16, blk := r.blk, off := r.off, park := r.park, info := info }) ∧
    (o.trap.stat.getLsbD 0 = true → t = s.endInstance c (s.launchNo c)
      { code := 0xAF, sub := k, thr := 16, blk := r.blk, off := r.off, park := r.park, info := info })

/-- A micro-thread that takes a cause (05 R168) stands in STATE 4 with its record, its registers as they were; `mtres` resumes
it from there, after the instruction for 0x14 and 0xE0 on (R169). `brk` (03 R110) raises 0x14; where debug halting on it is
enabled the thread halts: an MT in STATE 5, the CT with the record that the trap would write, and INH, SUP and VEC stay. -/
def Obligations.FaultsAndHalts : Prop :=
  ∀ (s : State) (c i : Nat) (r : Raised), i < 16 → r.aux = 0 → r.hdrFault = false → r.cause ≠ 0x17 → r.cause ≠ 0xAB →
    let o := s.mtAt c i
    let t := s.mtFault c i r
    let m := t.mtAt c i
    let on := haltsOn ((s.arch c).dbg.get 0x300 0) r.cause || r.cause == 0x1B
    m.state = (if on then 5 else 4) ∧ m.cause = r.cause ∧ m.trapBlk = o.thr.blk ∧ m.trapOff = o.thr.off ∧
    m.trapPark = o.thr.park ∧ m.trapInfo = r.info ∧ (∀ n, m.thr.getX n = o.thr.getX n) ∧ m.a = o.a ∧ m.m = o.m ∧
    m.fmtCtl = o.fmtCtl ∧ (∀ j, j ≠ i → j < 16 → t.mtAt c j = s.mtAt c j) ∧
    (∀ after, (m.resume after).thr.phase =
      .resume o.thr.blk o.thr.off o.thr.park (after || (r.cause == 0x14 || decide (0xE0 ≤ r.cause.toNat)))) ∧
    (r.cause = 0x14 → on = ((s.arch c).dbg.get 0x300 0).getLsbD 0) ∧
    (∀ (p : Pfx) (f : FA), Passes s p { bad := f.d != 0 } → Raises (.brk p f) s 0x14 0) ∧
    (∀ q : Rec, let h := s.haltCt c 0x14 q 0
      (h.arch c).ct.phase = .halted ∧ (h.arch c).trap.cause = 0x14 ∧ (h.arch c).trap.off = BitVec.ofNat 64 (q.off + 256 * q.park + 2048) ∧
      (h.arch c).trap.stat = (s.arch c).trap.stat ∧ (h.arch c).trap.vec = (s.arch c).trap.vec ∧ (h.arch c).sup = (s.arch c).sup)

/-- `eret` (06 R218): 0x16 outside a handler; inside one it requests a cut, restores the privilege from PPRIV, clears INH and
leaves the thread to resume at the record, after the instruction where SKIP = 1. A micro-thread raises 0x12, a thread without
supervisor privilege 0x0F. -/
def Obligations.HandlerReturn : Prop :=
  ∀ (p : Pfx) (f : FA) (s : State),
    let c := s.cur.core
    let o := s.arch c
    let e := s.eretTo c
    (Passes s p { who := .notMt, super := true, bad := f.d != 0 || f.s != 0 } →
      (o.trap.stat.getLsbD 0 = false → Raises (.eret p f) s 0x16 0) ∧
      (o.trap.stat.getLsbD 0 = true → Performs (.eret p f) s e .stay)) ∧
    (e.arch c).sup = o.trap.stat.getLsbD 1 ∧ (e.arch c).trap.stat.getLsbD 0 = false ∧
    (e.arch c).trap.stat.getLsbD 1 = o.trap.stat.getLsbD 1 ∧
    (e.arch c).ct.phase = .resume (o.trap.blk &&& 0x00FFFFFFFFFFFFF8) (o.trap.off.extractLsb' 0 6).toNat
      (o.trap.off.extractLsb' 8 3).toNat (o.trap.off.getLsbD 11) ∧
    (s.atSteward = false → (e.cx c).chunk.cutReq = true ∧ (e.arch c).ct.hold = true) ∧
    (Plain s → s.isCt = false → Raises (.eret p f) s 0x12 0) ∧
    (Plain s → s.isCt = true → s.isSup c = false → Raises (.eret p f) s 0x0F 0)

/-! ## Memory -/

/-- Where an access of `n` bytes in the local HBM goes (03 R78; 10 R314, R315): an address that is aligned and that a held
leaf permits reaches the leaf's frame. A misaligned one raises reason 0; one above the address space reason 3; one that no
leaf is held for waits for the walk; one that the leaf or the privilege forbids raises reason 2. The cause is 0x40 + 16 × kind
+ reason with the address. -/
def Obligations.LocalAccess : Prop :=
  ∀ (s : State) (c va n kind : Nat), c < 4096 → kind < 3 →
    let raises := fun (reason : Nat) => s.place c va n n kind =
      .error (.cause (BitVec.ofNat 8 (0x40 + 16 * kind + reason)) (BitVec.ofNat 64 va))
    (2 ^ 56 ≤ va → raises 3) ∧
    (va < 2 ^ 54 → va % n ≠ 0 → raises 0) ∧
    (va < 2 ^ 54 → va % n = 0 → (s.cx c).declined ≠ some (va, kind) →
      (s.inAperture c va = true → raises 2) ∧
      (s.inAperture c va = false → s.ownMemExtent c (s.launchNo c) va (va + n) = false →
        (s.xlatOf (s.cx c).asid va = none → s.place c va n n kind = .error (.wait (.translate va kind))) ∧
        (∀ t, s.xlatOf (s.cx c).asid va = some t →
          let pa := t.pfn * 65536 + va % 65536
          (leafPermits t.attr kind (s.isSup c) = false → raises 2) ∧
          (leafPermits t.attr kind (s.isSup c) = true → (kind ≠ 0 → t.attr.getLsbD 8 = true) → t.attr.getLsbD 12 = false →
            s.poisonBars pa n (kind = 1) = false → s.grantHeld c (pa / 64) = false →
            s.place c va n n kind = .ok (.mem pa (memKey t.g (s.cx c).asid va))))))

/-- Loads and stores (03 R93, R95). A load puts the bytes of its operand, sign- or zero-extended, in flight for the
destination: those that the core sees of memory, entered in the read signature (R94), or those of the slot. A store puts the
low bytes of the data register where the address says, outside the block-transfer aperture. That a load takes its value at
issue is the model's reading (log 11). -/
def Obligations.LoadsAndStores : Prop :=
  ∀ (p : Pfx) (f : FAZ) (s e : State) (bs : List Byte),
    let n := 2 ^ f.z.toNat
    let va := (s.x f.s.toNat + (if p.reg.isSome then s.x (regT p) <<< f.z.toNat else 0) + wordOfInt (simm p 0 0)).toNat
    let issues := fun (w : Word) => e.upThr (·.issueFar f.d.toNat (.value w))
    let data := toBytes n (s.x f.d.toNat).toNat
    (Passes s p (ldRules p f) → s.memLoad va n n = .ok (e, bs) →
      Does (.ldSigned p f) s (issues (sextW (ofBytes bs) (8 * n))) ∧ Does (.ldUnsigned p f) s (issues (zextW (ofBytes bs) (8 * n)))) ∧
    (∀ pa key, s.atSteward = false → s.place s.cur.core va n n 0 = .ok (.mem pa key) → s.watchHit va n true false = false →
      s.memLoad va n n = .ok (s.noteMem s.cur.core key (pa / 64) true false, s.seeN s.cur.core pa n)) ∧
    (Passes s p (spRules p f s) → ∀ q, s.spSpot p f 0 = .ok q → s.spRead s.cur.core q n = .ok (e, bs) →
      Does (.spldSigned p f) s (issues (sextW (ofBytes bs) (8 * n))) ∧
      Does (.spldUnsigned p f) s (issues (zextW (ofBytes bs) (8 * n))) ∧
      bs = e.vault.readN (q.core * 2 ^ 21 + q.phys) n ∧ (s.rsvHolder ≠ some s.cur.core → e.vault = s.vault)) ∧
    (Passes s p (ldRules p f) → s.inAperture s.cur.core va = false → s.memStore va n data = .ok e → Does (.st p f) s e) ∧
    (Passes s p (spRules p f s) → ∀ q, s.spSpot p f 1 = .ok q → s.spWrite s.cur.core q data = .ok e → Does (.spst p f) s e) ∧
    (∀ w k, (toBytes k w).length = k ∧ ofBytes (toBytes k w) = w % 2 ^ (8 * k))

/-- What a store leaves unchanged (03 R76, R93–R95). After `st`, the core sees the stored bytes where the place of the address
says, and every other byte as before; committed memory, and what other cores see, are as before. After `spst`, every slot byte
outside the bytes addressed is as before. No register, predicate, trap register, accumulator or address register changes. A
store that needs the chunk extension area also sets bits of the page-table entries of that area (06 R192; log 112). -/
def Obligations.StoreFrame : Prop :=
  ∀ (p : Pfx) (f : FAZ) (s t : State), Quiet s → s.atSteward = false →
    let c := s.cur.core
    let n := 2 ^ f.z.toNat
    let va := (s.vaOf p f.s.toNat f.z.toNat).toNat
    let kept := (∀ k, t.x k = s.x k) ∧ (∀ k, t.f k = s.f k) ∧ (t.arch c).trap = (s.arch c).trap ∧ t.acc = s.acc ∧
      (∀ i, (t.mtAt c i).a = (s.mtAt c i).a ∧ (t.mtAt c i).m = (s.mtAt c i).m ∧ (t.mtAt c i).fmtCtl = (s.mtAt c i).fmtCtl) ∧
      t.mem = s.mem ∧ t.regs = s.regs
    (Passes s p (ldRules p f) → s.inAperture c va = false → exec (.st p f) s = .next t →
      ∀ pa key e, s.place c va n n 1 = .ok (.mem pa key) → s.watchHit va n false true = false →
        (fld (s.arch c).chkExt 0 0 = 0 ∨
          ((s.noteMem c key (pa / 64) false true).putN c pa (toBytes n (s.x f.d.toNat).toNat)).setLines c pa ≤ s.usableWays c) →
        s.storeTo c va (.mem pa key) (toBytes n (s.x f.d.toNat).toNat) = .ok e →
        kept ∧ t.vault = s.vault ∧ (∀ a, a < pa ∨ pa + n ≤ a → t.seeByte c a = s.seeByte c a) ∧
        (∀ i, i < n → t.seeByte c (pa + i) = (s.x f.d.toNat).extractLsb' (8 * i) 8) ∧
        (∀ d a, d ≠ c → t.seeByte d a = s.seeByte d a)) ∧
    (Passes s p (spRules p f s) → s.rsvHolder ≠ some c → LogRoom s c 1 → exec (.spst p f) s = .next t →
      ∀ q e, s.spSpot p f 1 = .ok q → s.spWrite c q (toBytes n (s.x f.d.toNat).toNat) = .ok e →
        kept ∧ (∀ d a, t.seeByte d a = s.seeByte d a) ∧
        (∀ a, a < q.core * 2 ^ 21 + q.phys ∨ q.core * 2 ^ 21 + q.phys + n ≤ a → t.vault.read a = s.vault.read a) ∧
        (∀ i, i < n → s.wakeByte q.core (q.phys + i) = false →
          t.vault.read (q.core * 2 ^ 21 + q.phys + i) = (s.x f.d.toNat).extractLsb' (8 * i) 8))

/-- What the operations of `amo` compute (03 R96, R97), on values of 32 or 64 bits. -/
def Obligations.AtomicOperations : Prop :=
  ∀ (w : Nat) (old b : BitVec w), 0 < w →
    let new := fun op => amoNew op w old.toNat b.toNat
    new 0 = (old + b).toNat ∧ new 1 = (old &&& b).toNat ∧ new 2 = (old ||| b).toNat ∧ new 3 = (old ^^^ b).toNat ∧
    new 4 = (if old.slt b then old else b).toNat ∧ new 5 = (if old.ult b then old else b).toNat ∧
    new 6 = (if old.slt b then b else old).toNat ∧ new 7 = (if old.ult b then b else old).toNat ∧ new 8 = b.toNat

/-- `amo`, `cas` and `famo` (03 R96–R99). At a local address with far = 0, the old value is what the core sees, the new one is
stored, and the old one is put in flight; a `cas` that finds another value writes nothing, and its line stands in both
signatures too (06 R196). A far form, and every `famo`, is held for the commit of its chunk, and stands last in its block
(R77): 0x15 elsewhere. At a scratchpad address the access is one to the slot. All three complete where the address is
reachable, the L1 set has room for the line (near) or the command buffer for the operation (far). That a steward, which
executes no chunks, acts on memory at once is the model's reading (log 128). -/
def Obligations.Atomics : Prop :=
  ∀ (p : Pfx) (f : FAZ) (s : State),
    let c := s.cur.core
    let va := (s.x f.s.toNat + wordOfInt (simm p 0 0)).toNat
    let n := 4 * (f.z.toNat + 1)
    let b := (s.x (regT p)).toNat % 2 ^ (8 * n)
    let xd := fun (q : State) (old : Nat) =>
      q.upThr (·.issueFar f.d.toNat (.value (if amoU p then zextW old (8 * n) else sextW old (8 * n))))
    let held := fun (kind : Nat) => let o := s.farOp p f kind va
      ((s.hold (.atomic o)).upCx c (fun x => { x with nextId := x.nextId + 1 })).upThr (·.issueFar f.d.toNat (.released o.id))
    (∀ pa key, s.atSteward = false → amoSp p = false → amoFar p = false → s.watched va n n 2 = .ok (.mem pa key) →
      let old := ofBytes (s.seeN c pa n)
      let seen := s.noteMem c key (pa / 64) true true
      (∀ e, Passes s p (amoRules p f 0 s) →
        seen.storeTo c va (.mem pa key) (toBytes n (amoNew (amoOp p) (8 * n) old b)) = .ok e → Does (.amo p f) s (xd e old)) ∧
      (∀ e, Passes s p (amoRules p f 1 s) → old = (s.x f.d.toNat).toNat % 2 ^ (8 * n) →
        seen.storeTo c va (.mem pa key) (toBytes n b) = .ok e → Does (.cas p f) s (xd e old)) ∧
      (Passes s p (amoRules p f 1 s) → old ≠ (s.x f.d.toNat).toNat % 2 ^ (8 * n) → Does (.cas p f) s (xd seen old))) ∧
    (∀ t : Xlat, s.atSteward = false → amoSp p = false → amoFar p = false → Reachable s va n 2 t →
      let pa := t.pfn * 65536 + va % 65536
      let key := memKey t.g (s.cx c).asid va
      let old := ofBytes (s.seeN c pa n)
      let seen := s.noteMem c key (pa / 64) true true
      let st := fun (v : Nat) => (seen.noteMem c key (pa / 64) false true).putN c pa (toBytes n v)
      let new := amoNew (amoOp p) (8 * n) old b
      (Passes s p (amoRules p f 0 s) → (st new).setLines c pa < s.usableWays c → Does (.amo p f) s (xd (st new) old)) ∧
      (Passes s p (amoRules p f 1 s) → old = (s.x f.d.toNat).toNat % 2 ^ (8 * n) → (st b).setLines c pa < s.usableWays c →
        Does (.cas p f) s (xd (st b) old)) ∧
      (Passes s p (amoRules p f 1 s) → old ≠ (s.x f.d.toNat).toNat % 2 ^ (8 * n) → Does (.cas p f) s (xd seen old))) ∧
    (∀ t : Xlat, s.atSteward = false → s.isLast = true → s.cmdsUsed c < 256 →
      (amoSp p = false → amoFar p = true → Reachable s va n 2 t →
        (Passes s p (amoRules p f 0 s) → Does (.amo p f) s (held 0)) ∧ (Passes s p (amoRules p f 1 s) → Does (.cas p f) s (held 1))) ∧
      (Passes s p (amoRules p f 2 s) → Reachable s va (if f.z = 0 then 4 else 2) 2 t → Does (.famo p f) s (held 2))) ∧
    (∀ pa key, s.atSteward = true → s.watched va n n 2 = .ok (.mem pa key) → s.synthBusy none pa = false →
      let old := ofBytes (s.mem.readN pa n)
      (Passes s p (amoRules p f 0 s) → amoSp p = false →
        Does (.amo p f) s (xd (s.synthWrite pa (toBytes n (amoNew (amoOp p) (8 * n) old b))) old)) ∧
      (Passes s p (amoRules p f 1 s) → amoSp p = false → old ≠ (s.x f.d.toNat).toNat % 2 ^ (8 * n) → Does (.cas p f) s (xd s old))) ∧
    (∀ q e bs, amoSp p = true → s.spot c (s.spAddr p f.s.toNat 0) n n 2 = .ok q → s.spRmw c q n = .ok (e, bs) →
      let old := ofBytes bs
      (Passes s p (amoRules p f 0 s) →
        Does (.amo p f) s (xd (e.vaultWrite q.core q.phys (toBytes n (amoNew (amoOp p) (8 * n) old b))) old)) ∧
      (Passes s p (amoRules p f 1 s) → old = (s.x f.d.toNat).toNat % 2 ^ (8 * n) →
        Does (.cas p f) s (xd (e.vaultWrite q.core q.phys (toBytes n b)) old)) ∧
      (Passes s p (amoRules p f 1 s) → old ≠ (s.x f.d.toNat).toNat % 2 ^ (8 * n) → Does (.cas p f) s (xd e old))) ∧
    (∀ pa key, s.atSteward = false → s.isLast = true → s.cmdsUsed c < 256 →
      (amoSp p = false → amoFar p = true → s.watched va n n 2 = .ok (.mem pa key) →
        (Passes s p (amoRules p f 0 s) → Does (.amo p f) s (held 0)) ∧ (Passes s p (amoRules p f 1 s) → Does (.cas p f) s (held 1))) ∧
      (Passes s p (amoRules p f 2 s) → s.watched va (if f.z = 0 then 4 else 2) (if f.z = 0 then 4 else 2) 2 = .ok (.mem pa key) →
        Does (.famo p f) s (held 2))) ∧
    (s.atSteward = false → s.isLast = false → va < 2 ^ 54 → (amoSp p = false → amoFar p = true → Passes s p (amoRules p f 0 s) → Raises (.amo p f) s 0x15 0) ∧
      (Passes s p (amoRules p f 2 s) → Raises (.famo p f) s 0x15 0))

/-- Queues and links of a micro-thread (03 R101–R103; 05 R172, R173): words are taken and left in order; a `qpop`, `lrecv` or
`qrd` of an empty queue goes on and its result arrives with the next word; a `qpush`, `lsend` or `qwr` without room waits. A
result that arrives is written to its register (01 R11), and a stalled `qpush` goes on when there is room. -/
def Obligations.QueuesAndLinks : Prop :=
  ∀ (p : Pfx) (f : FA) (g : FAZ) (s : State),
    let c := s.cur.core
    let i := s.cur.thr
    let up := (i + 1) % 16
    (Passes s p { who := .mt, bad := decide (3 < f.s.toNat), named := [f.d.toNat] } →
      (s.mt.getQ f.s.toNat = [] → Does (.qpop p f) s (s.upThr (·.issueFar f.d.toNat (.inputQueue f.s.toNat)))) ∧
      (∀ w r, s.mt.getQ f.s.toNat = w :: r → s.thr.far = [] →
        Does (.qpop p f) s ((s.setMt (s.mt.setQ f.s.toNat r)).upThr (·.issueFar f.d.toNat (.value w))))) ∧
    (Passes s p { who := .mt, bad := f.d != 0, named := [f.s.toNat] } →
      (s.rqWords c i < 16 → Does (.qpush p f) s (s.setMt { s.mt with rq := s.mt.rq ++ [s.x f.s.toNat] })) ∧
      (16 ≤ s.rqWords c i → Waits (.qpush p f) s (.returnRoom (s.x f.s.toNat)))) ∧
    (Passes s p { who := .mt, bad := decide (1 < f.d.toNat), named := [f.s.toNat] } → i < 16 → f.d = 0 →
      ((s.mtAt c up).linkUp = none →
        Does (.lsend p f) s (s.upMtAt c up (fun m => { m with linkUp := some (s.x f.s.toNat) }))) ∧
      ((s.mtAt c up).linkUp ≠ none → Waits (.lsend p f) s (.linkRoom up (s.x f.s.toNat)))) ∧
    (Passes s p { who := .mt, bad := decide (1 < f.s.toNat), named := [f.d.toNat] } → i < 16 → f.s = 1 →
      (∀ w, s.mt.linkUp = some w → s.thr.far = [] →
        Does (.lrecv p f) s ((s.setMt { s.mt with linkUp := none }).upThr (·.issueFar f.d.toNat (.value w)))) ∧
      (s.mt.linkUp = none → Does (.lrecv p f) s (s.upThr (·.issueFar f.d.toNat (.link 0))))) ∧
    (Passes s p (ctOnly { named := [g.d.toNat, g.s.toNat] }) →
      let m := fld (s.x g.d.toNat) 15 0
      (s.inRoom c g.z.toNat m = true → Does (.qwr p g) s (s.inPush c g.z.toNat m (s.x g.s.toNat))) ∧
      (s.inRoom c g.z.toNat m = false → s.inDead c g.z.toNat m = false → Waits (.qwr p g) s (.inputRoom g.z.toNat m (s.x g.s.toNat))) ∧
      (s.inRoom c g.z.toNat m = false → s.inDead c g.z.toNat m = true → Raises (.qwr p g) s 0xA8 0)) ∧
    (Passes s p (ctOnly { bad := g.z != 0, named := [g.d.toNat, g.s.toNat] }) →
      let j := ((s.x g.s.toNat).extractLsb' 0 4).toNat
      (∀ w r, (s.mtAt c j).rq = w :: r → s.thr.far = [] →
        Does (.qrd p g) s ((s.upMtAt c j (fun m => { m with rq := r })).upThr (·.issueFar g.d.toNat (.value w)))) ∧
      ((s.mtAt c j).rq = [] → Does (.qrd p g) s (s.upThr (·.issueFar g.d.toNat (.returnQueue j))))) ∧
    (∀ n w, s.thr.far = [⟨n, .value w⟩] → s.cur.unit = n → n ≠ 0 → (∀ r m l b, s.thr.stall ≠ some ⟨.peer r m, l, b⟩) → i ≤ 16 →
      ∃ t, Becomes .farResultArrive s t ∧ t.x n = w ∧ t.thr.far = [] ∧ (∀ m, m ≠ n → t.x m = s.x m)) ∧
    (∀ w l b, s.thr.stall = some ⟨.returnRoom w, l, b⟩ → s.rqWords c i < 16 → s.runs c = true →
      let q : State := { s with cur := { s.cur with len := l } }
      Becomes .queueStallRelease s (((q.setMt { q.mt with rq := q.mt.rq ++ [w] }).complete .next).steppedTrap c))

/-! ## Vectors -/

/-- A vector instruction whose operands pass their checks completes (04 R119–R123): it writes no slot byte outside its
destination's extent, whole groups of a grouped type, and outside the scale bytes of a destination with scales; it tags every
line of the destination with the result type; it sets flags and clears none (01 R15), advances only the address registers that
name its operands, and those only under INC. No scalar register, predicate or mask, no memory, accumulator or other core
changes. That the instruction is one step of the machine is the model's choice (log 116). -/
def Obligations.VectorFrame : Prop :=
  ∀ (i : Instr) (p : Pfx) (f : FV) (r : Rules) (v : VForm) (s e : State) (q : VSet) (o : Opnd),
    i.vector = some (p, f, r, v) → Passes s p r → Opened s p f v q o e → Quiet s → s.rsvHolder ≠ some s.cur.core →
    LogRoom s s.cur.core (o.parts.length + 1) →
    ∃ t, exec i s = .next t ∧
      (∀ k, t.x k = s.x k ∧ t.f k = s.f k ∧ t.mt.getM k = s.mt.getM k) ∧
      (vInc p = false → ∀ k, t.mt.getA k = s.mt.getA k) ∧
      (∀ k, k ∉ (q.extents v).map (·.1) → t.mt.getA k = s.mt.getA k) ∧
      t.mt.fmtCtl ||| 0x1F00 = s.mt.fmtCtl ||| 0x1F00 ∧ s.mt.fmtCtl &&& ~~~t.mt.fmtCtl = 0 ∧
      (let base := o.spot.core * 2 ^ 21 + (o.spot.phys - o.spot.off)
       let w := opSpan o.ty o.n o.spot.off
       let u := s.unitSpot o
       ∀ a, (a < base + w.1 ∨ base + w.2 ≤ a) →
         ((v.scales || v.copies) = true → a < u.core * 2 ^ 21 + u.phys ∨ u.core * 2 ^ 21 + u.phys + groupBlocks o.ty ≤ a) →
         t.vault.read a = s.vault.read a) ∧
      (∀ l ∈ o.lines, (t.lineTag o.spot.core l).tag = o.ty) ∧
      t.mem = s.mem ∧ t.acc = s.acc ∧ (∀ d a, t.seeByte d a = s.seeByte d a) ∧ (∀ d, d ≠ s.cur.core → t.core d = s.core d)

/-- The elements of elementwise operations (04 R132–R134). On integers, without a MOD prefix, modulo 2^w: sums, differences and
products, the greater and lesser as U says, bit patterns, shifts by the source's low bits, to the right with the sign unless U = 1, and
the wide sums of `vmac`. On floating-point elements the exact sum, difference, product, a × b + d, a × b − d, or the greater or lesser,
taken by MOD (02 R50) and rounded once under the mode in force (`Fmt.encode`, FloatRounding); a NaN operand gives the first NaN by
position, quieted, and NV where one signals (01 R30). -/
def Obligations.VectorArithmetic : Prop :=
  (∀ (p : Pfx) (f : FV) (s e : State) (q : VSet) (o : Opnd),
    let ea := q.src e 0
    let eb := q.src e 1
    let arith := Passes s p (vRules p f true false false true false false)
    let exact := Passes s p (vRules p f true false true false false false)
    (p.md = none → tagIsInt q.ty = true → o.ty = q.ty →
      let w := elemBits q.ty
      let each := fun (g : Nat → Nat → Nat) => (List.range ea.length).map (fun j => g (ea.getD j 0) (eb.getD j 0))
      let less := fun (a b : Nat) => if vU p then decide (a < b) else (BitVec.ofNat w a).slt (BitVec.ofNat w b)
      (arith → Opened s p f (ewForm f tagIsPlain true) q o e →
        let gives := fun i cs => Leaves i s p (ewForm f tagIsPlain true) q o e cs
        gives (.vadd p f) (each (fun a b => (a + b) % 2 ^ w)) ∧ gives (.vsub p f) (each (fun a b => (BitVec.ofNat w a - BitVec.ofNat w b).toNat)) ∧
        gives (.vmul p f) (each (fun a b => a * b % 2 ^ w))) ∧
      (exact → Opened s p f (ewForm f tagIsPlain false) q o e →
        let gives := fun i cs => Leaves i s p (ewForm f tagIsPlain false) q o e cs
        gives (.vmax p f) (each (fun a b => (if less a b then b else a) % 2 ^ w)) ∧ gives (.vmin p f) (each (fun a b => (if less a b then a else b) % 2 ^ w)) ∧
        gives (.vand p f) (ea.zipWith (· &&& ·) eb) ∧ gives (.vor p f) (ea.zipWith (· ||| ·) eb) ∧
        gives (.vxor p f) (ea.zipWith (· ^^^ ·) eb)) ∧
      (exact → Opened s p f (ewForm f tagIsInt false) q o e →
        let gives := fun i cs => Leaves i s p (ewForm f tagIsInt false) q o e cs
        gives (.vshl p f) (each (fun a b => a * 2 ^ (b % w) % 2 ^ w)) ∧
        gives (.vshr p f) (each (fun a b => if vU p then a / 2 ^ (b % w) % 2 ^ w else ((BitVec.ofNat w a).sshiftRight (b % w)).toNat)))) ∧
    (let macForm : VForm := { ewForm f vmacType true with back := true, dstTy := wideOf }
     let old := e.codes o
     arith → Opened s p f macForm q o e → p.md = none → tagIsInt q.ty = true →
      Leaves (.vmac p f) s p macForm q o e ((List.range ea.length).map (fun j =>
        ((((old.getD j 0 : Nat) : Int) + intOf q.ty (vU p) (ea.getD j 0) * intOf q.ty (vU p) (eb.getD j 0)) % 2 ^ 32).toNat))) ∧
    (tagIsFloat q.ty = true →
      let m := e.vMode f
      let num := fun (l : List Nat) (j : Nat) => elemNum q.ty false 0x7F (l.getD j 0)
      let a := num ea
      let b := num eb
      let makes := fun i v (g : Nat → Machine.Num × Flags) => Delivers i s p f v q o e false id 0 (fun z j => (modOf p).apply (fmtOr o.ty) (e.vRnd f z) (g j))
      (arith → Opened s p f (ewForm f tagIsPlain true) q o e →
        makes (.vadd p f) (ewForm f tagIsPlain true) (fun j => fadd m (a j) (b j)) ∧
        makes (.vsub p f) (ewForm f tagIsPlain true) (fun j => fsub m (a j) (b j)) ∧
        makes (.vmul p f) (ewForm f tagIsPlain true) (fun j => fmul (a j) (b j))) ∧
      (exact → Opened s p f (ewForm f tagIsPlain false) q o e →
        makes (.vmax p f) (ewForm f tagIsPlain false) (fun j => fmaxmin true (a j) (b j)) ∧
        makes (.vmin p f) (ewForm f tagIsPlain false) (fun j => fmaxmin false (a j) (b j))) ∧
      (let v : VForm := { srcs := [⟨f.a.toNat, none⟩, ⟨f.b.toNat, none⟩, ⟨f.d.toNat, none⟩], dst := some f.d.toNat
                          accept := tagIsFloat, rounds := true }
       arith → Opened s p f v q o e → let d := num (q.src e 2)
        makes (.vfma p f) v (fun j => ffma m (a j) (b j) (d j) false [d j, a j, b j]) ∧ makes (.vfms p f) v (fun j => fms m (a j) (b j) (d j))) ∧
      (let v : VForm := { ewForm f vmacType true with back := true, dstTy := wideOf }
       arith → Opened s p f v q o e → let d := fun j => elemNum o.ty false 0x7F ((e.codes o).getD j 0)
        o.ty = (if q.ty = tagF32 then tagF32 else wideOf q.ty) ∧
        makes (.vmac p f) v (fun j => ffma m (a j) (b j) (d j) false [d j, a j, b j])))) ∧
  (∀ (m : RMode) (a b d : Machine.Num), a.isExact = true → b.isExact = true → d.isExact = true →
    (fadd m a b).1.rat = a.rat + b.rat ∧ (fsub m a b).1.rat = a.rat - b.rat ∧ (fmul a b).1.rat = a.rat * b.rat ∧
    (ffma m a b d false [d, a, b]).1.rat = a.rat * b.rat + d.rat ∧ (fms m a b d).1.rat = a.rat * b.rat - d.rat ∧
    (fmaxmin true a b).1.rat = max a.rat b.rat ∧ (fmaxmin false a b).1.rat = min a.rat b.rat ∧
    (∀ r ∈ [fadd m a b, fsub m a b, fmul a b, ffma m a b d false [d, a, b], fms m a b d, fmaxmin true a b, fmaxmin false a b],
      r.1.isExact = true ∧ r.2 = 0)) ∧
  (∀ (m : RMode) (a b : Machine.Num), a.isNan = true ∨ b.isNan = true →
    ∀ r ∈ [fadd m a b, fsub m a b, fmul a b, fmaxmin true a b, fmaxmin false a b],
      r = ((if a.isNan then a else b).quiet, flagIf (a.isSnan || b.isSnan) fNV)) ∧
  (∀ (o : Mod) (v : Machine.Num), v.isExact = true →
    (o.pre v).rat = (if o.neg then -1 else 1) * (if o.abs then |v.rat| else v.rat) * 2 ^ o.k)

/-- How a finite value is rounded to FP32, FP16 or BF16 (01 R26, R28, R29): no further than one step of the target's grid, to the nearer
neighbour under RNE, toward zero under RZ, upward under RU and downward under RD; NX tells that the result differs. A value beyond the
range, or one that rounds out of it, gives OF and NX with the infinity or the greatest finite value that the mode asks for. Which
neighbour SR takes follows from its draw (R27). -/
def Obligations.FloatRounding : Prop :=
  ∀ (t : Nat) (r : Rnd) (n : Bool) (m : Nat) (e : Int), tagIsFloat t = true → r.sat = false → m ≠ 0 →
    let f := fmtOr t
    let x := (Machine.Num.fin n m e false).rat
    let c := f.encode r (.fin n m e false)
    let w := (f.decode c.1).rat
    let q := max (e + (m.log2 : Int) - ((f.p : Int) - 1)) f.qmin
    c.1 < 2 ^ f.w ∧
    (c.2 &&& fOF = 0 →
      (f.decode c.1).isExact = true ∧ (f.decode c.1).sign = n ∧ |w - x| < 2 ^ q ∧ (c.2 &&& fNX = 0 ↔ w = x) ∧
      (r.mode = .rne → |w - x| ≤ 2 ^ (q - 1)) ∧ (r.mode = .rz → |w| ≤ |x|) ∧ (r.mode = .ru → x ≤ w) ∧ (r.mode = .rd → w ≤ x)) ∧
    (c.2 &&& fOF ≠ 0 → c.2 = fOF ||| fNX ∧ (f.maxN : ℚ) * 2 ^ f.maxQ < |x| ∧
      c.1 = if r.mode = .rne ∨ r.mode = .sr ∨ (r.mode = .ru ∧ n = false) ∨ (r.mode = .rd ∧ n = true) then f.infCode n else f.maxCode n)

/-- `vcmp` (04 R135) writes a mask: for an active element the condition, on integers or on the rational values of finite floating-point
elements, infinities beyond all of them, and with a NaN only `.ne` and `.un`; for another element false under Z and the old bit
otherwise; `vsel` (R136) takes each element from the first source where its mask bit is set, and from the second elsewhere.
`vperm` takes the elements that its indexes name, 0 for an index past the length; `vshuf` interleaves the lower or upper
halves of its sources, or gathers their even or odd elements (04 R150, R151). -/
def Obligations.VectorSelection : Prop :=
  (∀ (p : Pfx) (f : FV) (c : BitVec 6) (s e : State) (q : VSet),
    let ea := q.src e 0
    let eb := q.src e 1
    let v : VForm := { srcs := [⟨f.a.toNat, none⟩, ⟨f.b.toNat, none⟩]
                       accept := fun k => tagIsPlain k && !(c == 6 && tagIsInt k) }
    (Passes s p { vRules p f true false true false (decide (3 < f.d.toNat)) false with undef := decide (6 < c.toNat) } →
      (∃ s', s.vset p f v = .ok (s', q) ∧ s'.vopen v q = .ok e) →
      ∃ (m : BitVec 32) (fl : Flags), (∀ j, vLen f ≤ j → m.getLsbD j = false) ∧
        (let d := e.vdone p v q (s.clashes q) fl
         Does (.vcmp p f c) s (d.setMt (d.mt.setM f.d.toNat m))) ∧ (tagIsInt q.ty = true → fl = 0) ∧
        (∀ j, j < 32 → j < ea.length → j < eb.length →
          let a := ea.getD j 0
          let b := eb.getD j 0
          let num := fun k => elemNum q.ty false 0x7F k
          (e.active p j = false → m.getLsbD j = (!vZ p && (e.mt.getM f.d.toNat).getLsbD j)) ∧
          (e.active p j = true → tagIsInt q.ty = true →
            let x := intOf q.ty (vU p) a
            let y := intOf q.ty (vU p) b
            (c = 0 → m.getLsbD j = decide (x = y)) ∧ (c = 1 → m.getLsbD j = decide (x ≠ y)) ∧ (c = 2 → m.getLsbD j = decide (x < y)) ∧
            (c = 3 → m.getLsbD j = decide (x ≤ y)) ∧ (c = 4 → m.getLsbD j = decide (y < x)) ∧ (c = 5 → m.getLsbD j = decide (y ≤ x))) ∧
          (e.active p j = true → tagIsInt q.ty = false → (num a).isExact = true → (num b).isExact = true →
            let x := (num a).rat
            let y := (num b).rat
            (c = 0 → m.getLsbD j = decide (x = y)) ∧ (c = 1 → m.getLsbD j = decide (x ≠ y)) ∧ (c = 2 → m.getLsbD j = decide (x < y)) ∧
            (c = 3 → m.getLsbD j = decide (x ≤ y)) ∧ (c = 4 → m.getLsbD j = decide (y < x)) ∧ (c = 5 → m.getLsbD j = decide (y ≤ x)) ∧
            (c = 6 → m.getLsbD j = false)) ∧
          (e.active p j = true → tagIsInt q.ty = false → ∀ n, num a = .inf n → (num b).isExact = true →
            m.getLsbD j = (c == 1 || (if n then c == 2 || c == 3 else c == 4 || c == 5))) ∧
          (e.active p j = true → tagIsInt q.ty = false → ∀ n, num b = .inf n → (num a).isExact = true →
            m.getLsbD j = (c == 1 || (if n then c == 4 || c == 5 else c == 2 || c == 3))) ∧
          (e.active p j = true → tagIsInt q.ty = false → ∀ n k, num a = .inf n → num b = .inf k → m.getLsbD j = (if n = k then
            c == 0 || c == 3 || c == 5 else c == 1 || (if n then c == 2 || c == 3 else c == 4 || c == 5))) ∧
          (e.active p j = true → tagIsInt q.ty = false → (num a).isNan ∨ (num b).isNan → m.getLsbD j = (c == 1 || c == 6)))) ∧
    (∀ o, Passes s p (vRules p f true false true false (hasReg p && (vMsel p == 0 || vZ p)) (!hasReg p)) →
      Opened s p f (ewForm f tagIsPlain false) q o e →
      Does (.vsel p f) s (((e.putCodes o ((ea.zip eb).zipIdx.map (fun x => some (if e.active p x.2 then x.1.1 else x.1.2)))).tagLines
        o false).vdone p (ewForm f tagIsPlain false) q (s.clashes q) 0))) ∧
  (∀ (p : Pfx) (f : FV) (s e : State) (q : VSet) (o : Opnd),
    let ea := q.src e 0
    let eb := q.src e 1
    (∀ v, Instr.vector (.vperm p f) = some (p, f, vRules p f true false true false false false, v) →
      Passes s p (vRules p f true false true false false false) → Opened s p f v q o e →
      Leaves (.vperm p f) s p v q o e (eb.map (fun k => if k < (if f.h = 1 then 16 else 32) then ea.getD k 0 else 0))) ∧
    (Passes s p (vRules p f false false true false false false) → Opened s p f (ewForm f tagIsPlain false) q o e →
      let gives := fun (k : BitVec 2) (g : Nat → Nat) =>
        Leaves (.vshuf p f k) s p (ewForm f tagIsPlain false) q o e ((List.range 32).map g)
      let pick := fun (l : Nat) (j : Nat) => (if l = 0 then ea else eb).getD j 0
      gives 0 (fun j => pick (j % 2) (j / 2)) ∧ gives 1 (fun j => pick (j % 2) (16 + j / 2)) ∧
      gives 2 (fun j => pick (j / 16) (2 * (j % 16))) ∧ gives 3 (fun j => pick (j / 16) (2 * (j % 16) + 1))))

/-- Reductions (04 R137, R138). On integers without a MOD prefix: `vredsum` adds the active elements, and `vdot` their products, modulo
2^64; `vredmax` and `vredmin` give the greatest and least of the active elements, or the end of the range where there is none. On
floating-point elements each node of the fixed tree is rounded under RNE, the last one under MOD, an inactive element is −0, −∞ or +∞,
and the flags are those of all nodes. Sub-operation 1 takes in the old element of the destination. -/
def Obligations.VectorReductions : Prop :=
  ∀ (p : Pfx) (f : FV) (o1 : BitVec 1) (s e : State) (q : VSet) (o : Opnd), o.n = 1 →
    let ea := q.src e 0
    let eb := q.src e 1
    let int := fun k => intOf q.ty (vU p) k
    let sums := Passes s p (vRules p f false (f.b != 0) false true (f.r != 0 && f.r != 7) false)
    let dots := Passes s p (vRules p f false false false true (f.r != 0 && f.r != 7) false)
    let ends := Passes s p (vRules p f false (f.b != 0) true false false false)
    (p.md = none → tagIsInt q.ty = true → ea.length = 256 →
      let gives := fun i v (x : Int) =>
        Does i s (((e.putCodes o [some (x % 2 ^ elemBits o.ty).toNat]).tagLines o false).vdone p v q (s.clashes q) 0)
      (o.ty = tagI64 →
        let old : Int := if o1 = 1 then ((e.codes o).headD 0 : Nat) else 0
        let sum := fun (g : Nat → Int) => (List.range 256).foldl (fun a j => a + (if e.active p j then g j else 0)) (0 : Int)
        (sums → Opened s p f (redForm f o1 false sumType) q o e →
          gives (.vredsum p f o1) (redForm f o1 false sumType) (old + sum (fun j => int (ea.getD j 0)))) ∧
        (dots → Opened s p f (redForm f o1 true sumType) q o e →
          gives (.vdot p f o1) (redForm f o1 true sumType) (old + sum (fun j => int (ea.getD j 0) * int (eb.getD j 0))))) ∧
      (o.ty = q.ty → ends → Opened s p f (redForm f o1 false id) q o e →
        let w := elemBits q.ty
        let lo : Int := if vU p then 0 else -(2 ^ (w - 1))
        let hi : Int := if vU p then 2 ^ w - 1 else 2 ^ (w - 1) - 1
        let all := (if o1 = 1 then [int ((e.codes o).headD 0)] else []) ++
          ((List.range 256).filter (fun j => e.active p j)).map (fun j => int (ea.getD j 0))
        gives (.vredmax p f o1) (redForm f o1 false id) (all.foldl max lo) ∧ gives (.vredmin p f o1) (redForm f o1 false id) (all.foldl min hi))) ∧
    (tagIsFloat q.ty = true → ea.length = 256 →
      let num := fun (l : List Nat) (j : Nat) => elemNum q.ty false 0x7F (l.getD j 0)
      let rne : Rnd := { mode := .rne }
      let makes := fun i v (k : Nat) (leaf : Nat → Node) =>
        let node := fun (x y : Node) =>
          let r := redNum k x.1 y.1
          let c := (fmtOr o.ty).encode rne r.1
          (((fmtOr o.ty).decode c.1, x.2 ||| y.2 ||| (r.2 ||| c.2)) : Node)
        let half := redTree node (fun j => if e.active p j then leaf j else (redIdent k, 0)) 7
        let x : Node := if o1 = 1 then (elemNum o.ty false 0x7F ((e.codes o).headD 0), 0) else half 0
        let y := if o1 = 1 then node (half 0) (half 1) else half 1
        let c := (modOf p).apply (fmtOr o.ty) rne (redNum k x.1 y.1)
        Does i s (((e.putCodes o [some c.1]).tagLines o false).vdone p v q (s.clashes q) (c.2 ||| x.2 ||| y.2))
      (sums → Opened s p f (redForm f o1 false sumType) q o e → o.ty = tagF32 →
        makes (.vredsum p f o1) (redForm f o1 false sumType) 0 (fun j => (num ea j, 0))) ∧
      (dots → Opened s p f (redForm f o1 true sumType) q o e → o.ty = tagF32 →
        makes (.vdot p f o1) (redForm f o1 true sumType) 0 (fun j =>
          let r := fmul (num ea j) (num eb j)
          let c := fp32.encode rne r.1
          (fp32.decode c.1, r.2 ||| c.2))) ∧
      (ends → Opened s p f (redForm f o1 false id) q o e → o.ty = q.ty →
        makes (.vredmax p f o1) (redForm f o1 false id) 1 (fun j => (num ea j, 0)) ∧
        makes (.vredmin p f o1) (redForm f o1 false id) 2 (fun j => (num ea j, 0))))

/-- The special functions, conversions and quantisation (04 R139–R145). A special function of an active element is its approximation A,
taken by MOD and rounded: the table's values at zeros, infinities and exact arguments; 1/x to 47 bits, and √x exactly. `vcvt` encodes
each value of the source in the target, `vdqmx` and `vdqbx` the values under their scales; `vqmx` and `vqbx` write the scale of each
block, that of the table or the one that stands there, and the elements under it. What an integer target takes follows 01 R40. That a
tie of an approximation nearer than the model computes is free is the model's choice (log 14). -/
def Obligations.FunctionsAndConversions : Prop :=
  (∀ (p : Pfx) (f : FV) (o1 : BitVec 1) (s e : State) (q : VSet) (o : Opnd),
    let ea := q.src e 0
    (∀ k i, (k, i) ∈ [(SpFn.exp2, Instr.vexp2 p f), (.log2, .vlog2 p f), (.rcp, .vrcp p f), (.rsqrt, .vrsqrt p f), (.sqrt, .vsqrt p f),
        (.tanh, .vtanh p f), (.sig, .vsig p f), (.sin, .vsin p f), (.cos, .vcos p f)] →
      Passes s p (vRules p f true (f.b != 0) false true false false) → Opened s p f (unaryForm f tagIsFloat) q o e →
      Delivers i s p f (unaryForm f tagIsFloat) q o e false id 0 (fun z j =>
        let r := k.eval (elemNum q.ty false 0x7F (ea.getD j 0))
        (modOf p).applyMore (fmtOr q.ty) (e.vRnd f z) (r.a, r.fl) r.more)) ∧
    (let xs := fun (u : Bool) (j : Nat) => ((q.srcs.head?.map (fun k => e.values k u)).getD []).getD j (.zero false)
     let float := fun (u : Bool) (z j : Nat) => (modOf p).apply (fmtOr (vEtag p)) (e.vRnd f z) (xs u j, 0)
     (let v := { convForm f cvtType cvtType with usrc := o1 == 1 }
      Passes s p { convRules p f true true with extra := p.md.isSome && !floatOrAcc (vEtag p) } → Opened s p f v q o e →
        Delivers (.vcvt p f o1) s p f v q o e false id 0 (fun z j => if floatOrAcc (vEtag p) then float (o1 == 1) z j
          else encodeElem (vEtag p) (vU p) (e.vRnd f z) 0x7F (xs (o1 == 1) j))) ∧
     (Passes s p (convRules p f true true) →
      (Opened s p f (convForm f tagIsMx tagIsFloat) q o e →
        Delivers (.vdqmx p f) s p f (convForm f tagIsMx tagIsFloat) q o e false id 0 (float false)) ∧
      (Opened s p f (convForm f tagIsBx tagIsFloat) q o e →
        Delivers (.vdqbx p f) s p f (convForm f tagIsBx tagIsFloat) q o e false id 0 (float false))) ∧
     (let act := fun (b k : Nat) => (((List.range b).map (k * b + ·)).filter (fun j => e.active p j)).map (xs false)
      let at' := fun (b k : Nat) => (o.first + k * b) / blockElems o.ty
      let mx := fun (k : Nat) => if o1 = 1 then e.scaleOf o (k * 32) else chooseMx o.ty (act 32 k)
      let bx := fun (k : Nat) => if o1 = 1 then e.scaleOf o (k * 16) else chooseBx o.ty (act 16 k)
      (let v := { convForm f tagIsFloat tagIsMx with scales := true }
       Passes s p (convRules p f false false) → Opened s p f v q o e →
        Delivers (.vqmx p f o1) s p f v q o e true (fun t => t.putScale o (at' 32 0) (mx 0)) (flagIf (mx 0 == 0xFF) fNV) (fun z j =>
          if mx 0 = 0xFF then (0, 0) else encodeElem o.ty false (e.vRnd f z) (mx 0) (xs false j))) ∧
      (let v := { convForm f tagIsFloat tagIsBx with scales := true }
       Passes s p (convRules p f true false) → Opened s p f v q o e →
        Delivers (.vqbx p f o1) s p f v q o e true
          (fun t => (List.range (vLen f / 16)).foldl (fun t k => t.putScale o (at' 16 k) (bx k)) t) 0 (fun z j =>
            let x := xs false j
            if bx (j / 16) = 0xFF then (0, flagIf x.isFinNz fNX ||| flagIf (x.isNan || x.isInf) fNV)
            else encodeElem o.ty false (e.vRnd f z) (bx (j / 16)) x))))) ∧
  (∀ (k : SpFn) (n : Bool),
    let inf := fun (v : Machine.Num) => (v, (0 : Flags))
    let one : Machine.Num := .fin false 1 0 false
    let r := fun (v : Machine.Num) => ((k.eval v).a, (k.eval v).fl)
    r (.zero n) = (match k with
      | .exp2 | .cos => inf one
      | .log2 => (.inf true, fDZ)
      | .rcp | .rsqrt => (.inf n, fDZ)
      | .sqrt | .tanh | .sin => inf (.zero n)
      | .sig => inf (.fin false 1 (-1) false)) ∧
    r (.inf n) = (match k with
      | .exp2 => inf (if n then .zero false else .inf false)
      | .log2 | .sqrt => if n then (.dflt, fNV) else inf (.inf false)
      | .rcp => inf (.zero n)
      | .rsqrt => if n then (.dflt, fNV) else inf (.zero false)
      | .tanh => inf (.fin n 1 0 false)
      | .sig => inf (if n then .zero false else one)
      | .sin | .cos => (.dflt, fNV)) ∧
    (∀ m e, m ≠ 0 → (k = .log2 ∨ k = .rsqrt ∨ k = .sqrt) → r (.fin true m e false) = (.dflt, fNV)) ∧
    (∀ pay, r (.nan n pay) = ((Machine.Num.nan n pay).quiet, flagIf (!pay.testBit 22) fNV))) ∧
  (∀ i : Int, i.natAbs < 4096 → (SpFn.exp2.eval (.ofInt i)).a.rat = 2 ^ i ∧ (SpFn.exp2.eval (.ofInt i)).more = false) ∧
  (∀ (l : Nat) (e : Int), (SpFn.log2.eval (.fin false (2 ^ l) e false)).a.rat = ((l : Int) + e : ℚ)) ∧
  (∀ (n : Bool) (m : Nat) (e : Int), m ≠ 0 → let v : Machine.Num := .fin n m e false
    |(SpFn.rcp.eval v).a.rat * v.rat - 1| < 1 / 2 ^ 47 ∧ ((SpFn.rcp.eval v).more = false → (SpFn.rcp.eval v).a.rat * v.rat = 1)) ∧
  (∀ (m : Nat) (e : Int), m ≠ 0 → m < 2 ^ 24 → ∃ (a : Nat) (k : Int) (st : Bool), (SpFn.sqrt.eval (.fin false m e false)).a = .fin false a k st ∧
    let x := (Machine.Num.fin false m e false).rat
    ((a : ℚ) * 2 ^ k) ^ 2 ≤ x ∧ x < (((a : ℚ) + 1) * 2 ^ k) ^ 2 ∧ (st = false ↔ ((a : ℚ) * 2 ^ k) ^ 2 = x)) ∧
  (∀ (r : Rnd) (w : Nat) (signed : Bool) (v : Machine.Num), 0 < w → v.isExact = true →
    let lo : Int := if signed then -(2 ^ (w - 1)) else 0
    let hi : Int := if signed then 2 ^ (w - 1) - 1 else 2 ^ w - 1
    let c := encodeInt r w signed v
    lo ≤ c.1 ∧ c.1 ≤ hi ∧
    (c.2 &&& fNV = 0 → |(c.1 : ℚ) - v.rat| < 1 ∧ (c.2 &&& fNX = 0 ↔ (c.1 : ℚ) = v.rat) ∧ (r.mode = .rne → |(c.1 : ℚ) - v.rat| ≤ 1 / 2) ∧
      (r.mode = .rz → |(c.1 : ℚ)| ≤ |v.rat|) ∧ (r.mode = .ru → v.rat ≤ c.1) ∧ (r.mode = .rd → c.1 ≤ v.rat)) ∧
    (c.2 &&& fNV ≠ 0 → (c.1 = lo ∧ v.rat < lo) ∨ (c.1 = hi ∧ (hi : ℚ) < v.rat))) ∧
  (∀ (t : Nat) (vs : List Machine.Num), (∀ v ∈ vs, v.isExact = true) → (∃ v ∈ vs, v.rat ≠ 0) →
    (tagIsMx t = true → ∃ k : Int, (∃ v ∈ vs, (2 : ℚ) ^ k ≤ |v.rat|) ∧ (∀ v ∈ vs, |v.rat| < (2 : ℚ) ^ (k + 1)) ∧
      chooseMx t vs = (max 0 (min 254 (k - [8, 15, 4, 2, 2, 0].getD (t - 8) 0 + 127))).toNat) ∧
    (tagIsBx t = true →
      let top := fun (e : Nat) => ((2 : ℚ) ^ (bxN t - 1) - 1) * 2 ^ ((e : Int) - 127 - ((bxN t : Int) - 1))
      let e := chooseBx t vs
      e ≤ 254 ∧ (e < 254 → ∀ v ∈ vs, |v.rat| ≤ top e) ∧ (0 < e → ∃ v ∈ vs, top (e - 1) < |v.rat|)))

/-- Tags, broadcasts, single elements and lines (04 R146, R147, R149, R152, R153): `vtag` tags the lines of a group, `vgtag`
reads a tag, `vbcast` writes one value to every element, `vext` and `vins` move one element, and `vld` and `vst` one line
between memory and a slot, `vld` with its tag. -/
def Obligations.ElementsAndLines : Prop :=
  ∀ (p : Pfx) (f : FV) (g : FAZ) (r : BitVec 3) (t : BitVec 6) (s e : State) (z : Spot),
    let k := t.toNat
    let c := s.cur.core
    (Passes s p { who := .mt, bad := f.a != 0 || f.b != 0 || decide (32 ≤ k) || f.r != 7 } → (tagIsBx k = true → s.feature 1 = true) →
      k ≤ 22 → s.baseSpot (s.adr f.d.toNat) 1 = .ok z → z.off % groupBytes k = 0 →
      (∃ y, s.inside z.off (z.off + groupBytes k) (s.adr f.d.toNat) 1 = .ok y) →
      s.openParts false true ((lineParts 64 z.off (z.off + groupBytes k)).map (fun x => (z.at x.1, x.2))) = .ok e →
      ∃ u, Does (.vtag p f t) s u ∧ (∀ l, l < groupBytes k / 64 →
          u.lineTag z.core (z.phys / 64 + l) = ⟨k, f.h == 1 && (tagIsMx k || tagIsBx k)⟩) ∧ u.vault = e.vault) ∧
    (Passes s p { undef := g.z != 0, who := .mt, bad := decide (7 < g.s.toNat) || r != 7, named := [g.d.toNat] } →
      s.baseSpot (s.adr g.s.toNat) 0 = .ok z → s.openLine c z 1 true false = .ok e →
      Does (.vgtag p g r) s (e.setX g.d.toNat (BitVec.ofNat 64
        ((e.lineTag z.core (z.phys / 64)).tag + (if (e.lineTag z.core (z.phys / 64)).sp then 32 else 0))))) ∧
    (Passes s p { undef := decide (1 < g.z.toNat), who := .mt, bad := decide (7 < g.d.toNat) || r != 7 || decide (32 ≤ k), named := [g.s.toNat] } →
      tagIsPlain k = true → s.baseSpot (s.adr g.d.toNat) 1 = .ok z →
      ∀ o, s.geometry z (s.adr g.d.toNat) k (if g.z = 0 then 32 else 16) 1 false = .ok o → s.openOpnd o false false true = .ok e →
      Does (.vbcast p g r t) s ((e.putCodes o (List.replicate (if g.z = 0 then 32 else 16)
        (some ((e.x g.s.toNat).toNat % 2 ^ elemBits k)))).tagLines o false)) ∧
    (∀ s' y bs, Passes s p { undef := decide (1 < g.z.toNat), who := .mt, imm := true, bad := decide (7 < g.s.toNat) || r != 7 || decide (32 ≤ k),
                             range := decide (31 < immBits p), named := [g.d.toNat] } →
      s.elemSpot g.s.toNat k (immBits p) 0 = .ok (s', z, y) → s'.spRead c z (elemBits y / 8) = .ok (e, bs) →
      Does (.vext p g r t) s (e.setX g.d.toNat
        (if g.z = 0 then sextW (ofBytes bs) (8 * (elemBits y / 8)) else zextW (ofBytes bs) (8 * (elemBits y / 8))))) ∧
    (∀ s' y, Passes s p { undef := g.z != 0, who := .mt, imm := true, bad := decide (7 < g.d.toNat) || r != 7 || decide (32 ≤ k),
                          range := decide (31 < immBits p), named := [g.s.toNat] } →
      s.elemSpot g.d.toNat k (immBits p) 1 = .ok (s', z, y) →
      s'.spWrite c z (toBytes (elemBits y / 8) (s.x g.s.toNat).toNat) = .ok e →
      Does (.vins p g r t) s (e.setLineTag z.core (z.phys / 64) ⟨y, false⟩)) ∧
    (∀ q bs, Passes s p (vlRules g r (decide (32 ≤ k))) → s.vlOff p g = false → (tagIsBx k = false) → vldType k = true → s.vlLine g 1 = .ok z →
      s.memLoad (s.vlva p g) 64 64 = .ok (q, bs) → q.spWrite c z bs = .ok e →
      Does (.vld p g r t) s (e.setLineTag z.core (z.phys / 64) ⟨k, false⟩)) ∧
    (∀ q bs, Passes s p (vlRules g r (t != 0)) → s.vlOff p g = false → s.vlLine g 0 = .ok z → s.spRead c z 64 = .ok (q, bs) →
      q.memStore (q.vlva p g) 64 bs = .ok e → Does (.vst p g r t) s e)

/-- Address registers and masks (04 R154): sums modulo 2^32, and moves between them and the scalar registers. -/
def Obligations.AddressRegisters : Prop :=
  ∀ (p : Pfx) (f : FA) (g : FI) (r : BitVec 3) (s : State),
    let d := f.d.toNat
    let x := s.x f.s.toNat
    let a := fun (v : BitVec 32) => s.setMt (s.mt.setA d v)
    let imm := BitVec.ofInt 32 (simm p 0 0)
    (Passes s p (amRules r true (decide (7 < d)) [f.s.toNat]) → Does (.aaddX p f r) s (a (s.mt.getA d + x.setWidth 32 + imm))) ∧
    (Passes s p (amRules r true (decide (7 < d) || decide (7 < f.s.toNat)) []) →
      Does (.aaddA p f r) s (a (s.mt.getA d + s.mt.getA f.s.toNat + imm))) ∧
    (Passes s p { amRules r true (decide (7 < g.d.toNat)) [] with range := decide (3 < p.imms.length) } →
      Does (.ali p g r) s (s.setMt (s.mt.setA g.d.toNat (BitVec.ofInt 32 (simm p 6 g.i.toNat))))) ∧
    (Passes s p (amRules r false (decide (7 < d)) [f.s.toNat]) → Does (.amovAx p f r) s (a (x.setWidth 32))) ∧
    (Passes s p (amRules r false (decide (7 < f.s.toNat)) [d]) →
      Does (.amovXa p f r) s (s.setX d ((s.mt.getA f.s.toNat).setWidth 64))) ∧
    (Passes s p (amRules r false (decide (3 < d)) [f.s.toNat]) → Does (.amovMx p f r) s (s.setMt (s.mt.setM d (x.setWidth 32)))) ∧
    (Passes s p (amRules r false (decide (3 < f.s.toNat)) [d]) →
      Does (.amovXm p f r) s (s.setX d ((s.mt.getM f.s.toNat).setWidth 64)))

/-! ## Micro-threads and gangs -/

/-- The control thread over its micro-threads (05 R162–R170): `bcast` and `mtgo` append an entry to every masked block queue
that has room for it, and wait otherwise; `mtjoin` tells whether every masked MT is idle, once all have settled; `mtstat`
gives a record; `mtres` resumes the masked MTs that are faulted or halted; `mtkill` empties an MT but its registers and return
queue. A stalled `bcast` is admitted when there is room, a stalled `mtjoin` ends when the MTs have settled, and an idle MT
begins the entry at the head of its block queue. That `mtjoin` with an empty mask gives true is the model's choice (log 120).
-/
def Obligations.ThreadControl : Prop :=
  ∀ (p : Pfx) (f : FI) (g : FAZ) (o : BitVec 3) (o1 : BitVec 1) (s : State) (v : Nat),
    let c := s.cur.core
    let t := s.admitTarget p f
    let mask := fld (s.x f.d.toNat) 15 0
    let sel := fld (s.x g.s.toNat) 15 0
    let m := s.mtAt c (fld (s.x g.s.toNat) 3 0)
    (Passes s p (admitRules p f) → s.fetchN c t.toNat 4 8 = .ok v →
      (entryCause true (BitVec.ofNat 32 v) = none →
        (s.bqRoom c mask = true → Does (.bcast p f) s (s.admitAll c mask ⟨true, t⟩)) ∧
        (s.bqRoom c mask = false → s.bqDead c mask = false → Waits (.bcast p f) s (.admission true mask t)) ∧
        (s.bqRoom c mask = false → s.bqDead c mask = true → Raises (.bcast p f) s 0xA8 0)) ∧
      (entryCause false (BitVec.ofNat 32 v) = none → s.bqRoom c mask = true →
        Does (.mtgo p f) s (s.admitAll c mask ⟨false, t⟩)) ∧
      (hdrLen (BitVec.ofNat 32 v) = 0 → Raises (.bcast p f) s 0x0A 0 ∧ Raises (.mtgo p f) s 0x0A 0) ∧
      (hdrLenCause (BitVec.ofNat 32 v) = none → hdrKind (BitVec.ofNat 32 v) = 2 → Raises (.bcast p f) s 0x0D 0 ∧ Raises (.mtgo p f) s 0x0D 0)) ∧
    (∀ i e, i < 16 → (((s.admitAll c mask e).mtAt c i).bq = if (s.x f.d.toNat).getLsbD i then (s.mtAt c i).bq ++ [e] else (s.mtAt c i).bq)) ∧
    (Passes s p (ctOnly { bad := decide (7 < g.d.toNat) || g.z != 0, named := [g.s.toNat] }) →
      (s.joined c sel = true → Does (.mtjoin p g) s (s.setF g.d.toNat (s.allIdle c sel))) ∧
      (s.joined c sel = false → Waits (.mtjoin p g) s (.join g.d.toNat sel))) ∧
    (Passes s p (ctOnly { undef := decide (5 < o.toNat), bad := g.z != 0, named := [g.d.toNat, g.s.toNat] }) →
      let gives := fun (w : Word) => Does (.mtstat p g o) s (s.upThr (·.issueFar g.d.toNat (.value w)))
      (o = 0 → gives m.stat) ∧ (o = 1 → gives m.trapBlk) ∧ (o = 2 → gives (BitVec.ofNat 64 (m.trapOff + 256 * m.trapPark))) ∧
      (o = 3 → gives m.trapInfo) ∧ (o = 4 → gives m.thr.blk)) ∧
    (Passes s p (ctOnly { bad := g.d != 0 || g.z != 0, named := [g.s.toNat] }) →
      (∃ e, Does (.mtres p g o1) s e ∧ e.mem = s.mem ∧ (∀ i, i < 16 →
        ((s.x g.s.toNat).getLsbD i = true → (s.mtAt c i).thr.phase = .faulted ∨ (s.mtAt c i).thr.phase = .halted →
          e.mtAt c i = (s.mtAt c i).resume (o1 == 1)) ∧
        ((s.x g.s.toNat).getLsbD i = false → e.mtAt c i = s.mtAt c i))) ∧
      (∃ e, Does (.mtkill p g) s e ∧ e.mem = s.mem ∧ (∀ i, i < 16 →
        ((s.x g.s.toNat).getLsbD i = true → let k := e.mtAt c i
          k.thr.phase = .idle ∧ k.mode = .idle ∧ k.bq = [] ∧ k.q = [] ∧ k.linkUp = none ∧ k.linkDown = none ∧ k.thr.far = [] ∧
          k.rq = (s.mtAt c i).rq ∧ k.a = (s.mtAt c i).a ∧ (∀ n, k.thr.getX n = (s.mtAt c i).thr.getX n)) ∧
        ((s.x g.s.toNat).getLsbD i = false → e.mtAt c i = s.mtAt c i)))) ∧
    (let q := fun (l : Nat) => ({ s with cur := { s.cur with len := l } } : State)
     (∀ b mask t l n, s.runs c = true → s.alone = true → s.thr.stall = some ⟨.admission b mask t, l, n⟩ → s.bqRoom c mask = true →
      Becomes .admitEntry s ((((q l).admitAll c mask ⟨b, t⟩).complete .next).steppedTrap c)) ∧
     (∀ fd mask l n, s.runs c = true → s.alone = true → s.thr.stall = some ⟨.join fd mask, l, n⟩ → s.joined c mask = true →
      Becomes .mtjoinComplete s ((((q l).setF fd (s.allIdle c mask)).complete .next).steppedTrap c)) ∧
     (∀ e r, s.cur.thr < 16 → s.mayAct c s.cur.thr = true → s.mt.thr.phase = .idle → s.holdsBlock c s.cur.thr = false →
      s.mt.bq = e :: r →
      Becomes .mtBeginEntry s ((s.setMt { s.mt with
        bq := r, mode := if e.bcast then .broadcast else .detached
        thr := { s.mt.thr with phase := .entry e.addr } }).enterBlock c s.cur.thr e.addr)))

/-- Row gangs (05 R175–R179): a `gang` that passes its checks requests a cut and waits; when every core of its group has
committed with the same immediate, each becomes a member at its place, and each control thread but its registers stands where
the leader's does. Where another core of the group waits with another immediate, neither waits on: each executes its `gang` again,
which raises 0xAA. An instruction of the leader's stream is
executed by every member, on its own registers; a follower does nothing of its own. `split` is held for the commit of the
chunk, by the core alone in its trap handler, and else by every member. That the members execute an instruction in one step,
and how long the marks of 0xAA stand, are the model's choices (log 21, 53). -/
def Obligations.Gangs : Prop :=
  ∀ (p : Pfx) (f : FI) (g : FAZ) (s : State),
    let c := s.cur.core
    let a := s.arch c
    let waits := fun (q : State) => (q.requestCut c).upThr (fun t => { t with stall := some ⟨.gang, s.cur.len, s.cycle⟩ })
    (Passes s p (ctOnly { bad := f.d != 0, range := decide (gangSize f.i ≤ gangLead f.i) }) →
      (s.isLast = false → Raises (.gang p f) s 0xA9 0) ∧
      (s.isLast = true → (a.gang ≠ none → Raises (.gang p f) s 0xAE 0) ∧
        (a.gang = none → (gangGroup c f.i).any (s.gangAbsent (s.launchNo c)) = true → Raises (.gang p f) s 0xAD 0) ∧
        (a.gang = none → (gangGroup c f.i).any (s.gangAbsent (s.launchNo c)) = false →
          (a.gangBad = true → Raises (.gang p f) s 0xAA 0) ∧
          (a.gangBad = false → s.gangClash c f.i ≠ [] →
            let t := (c :: s.gangClash c f.i).foldl (fun q d => q.gangSpoil (s.launchNo c) d) s
            Performs (.gang p f) s t .hold ∧ ∀ d ∈ c :: s.gangClash c f.i, (s.core d).slotOf (s.launchNo c) = some (s.core d).slotNo →
              (t.arch d).gangBad = true ∧ (t.arch d).ct.stall = none) ∧
          (a.gangBad = false → s.gangClash c f.i = [] →
            Performs (.gang p f) s (waits (s.upArch c (fun a => { a with gangWait := some f.i }))) .hold)))) ∧
    (Passes s p (ctOnly { bad := g.d != 0 || g.s != 0 || g.z != 0 }) →
      (s.isLast = false → Raises (.split p g) s 0xA9 0) ∧ (s.isLast = true → a.gang = none → Raises (.split p g) s 0xAE 0) ∧
      (s.isLast = true → a.gang ≠ none → Performs (.split p g) s (waits ((s.upArch c (fun a => { a with gangWait := some 0 })).upCx c
        (fun x => { x with chunk := { x.chunk.retire x.arch.chkCtl x.eff s.cycle (s.gangRaised c) with held := x.chunk.held ++ [.split] } }))) .hold)) ∧
    (s.isCt = true → s.inStream c = true → s.follows = true → ∀ h : FA, Becomes (.add p h) s s ∧ Becomes (.split p g) s s) ∧
    (let every := fun (r : Rules) => ∀ d ∈ s.gangOrder, let q := s.atCore d
       q.thr.late = none ∧ q.breaks = false ∧ q.gate p r = .ok () ∧ (s.arch d).gang ≠ none ∧ Quiet q
     s.isCt = true → s.inStream c = true → s.follows = false →
      (∀ h : FA, every (binRules p h) → ∃ t, Becomes (.add p h) s t ∧ t.mem = s.mem ∧ ∀ d ∈ s.gangOrder, ∀ n,
        (t.arch d).ct.getX n = ((s.atCore d).setX h.d.toNat ((s.atCore d).opA p h + (s.atCore d).opB p h)).x n) ∧
      (every (ctOnly { bad := g.d != 0 || g.s != 0 || g.z != 0 }) → (∀ d ∈ s.gangOrder, (s.atCore d).isLast = true) → ∃ t, Becomes (.split p g) s t ∧ t.mem = s.mem ∧
        ∀ d ∈ s.gangOrder, (t.cx d).chunk.held = (s.cx d).chunk.held ++ [.split] ∧ (t.cx d).chunk.cutReq = true ∧
          (t.arch d).gangWait = some 0)) ∧
    (∀ i : BitVec 6, a.gangWait = some i →
      (∀ d ∈ gangGroup c i, (s.cx d).launch = (s.cx c).launch ∧ s.gangReady d i = true) →
      ∃ t, Becomes .gangForm s t ∧ ∀ d ∈ gangGroup c i,
        (t.arch d).gang = some { size := bits i.toNat 1 0, pos := d % 16 % gangSize i, lead := gangLead i } ∧
        (t.arch d).gangWait = none ∧ (∀ n, (t.arch d).ct.getX n = (s.arch d).ct.getX n) ∧
        (∀ e ∈ gangGroup c i, (t.arch d).ct.phase = (t.arch e).ct.phase ∧ (t.arch d).ct.blk = (t.arch e).ct.blk ∧
          (t.arch d).ct.off = (t.arch e).ct.off))

/-! ## Copies and gathers -/

/-- Copy commands, templates, counters, watermarks and gather commands as threads see them (07 R228–R231, R251–R257). A store
to the aperture that passes its checks, `cset` and `epush` are held for the commit of their chunk, of which they request the
cut; `ctpl` loads a template; `cwait` goes on when the counter is below its threshold and no engine command is in flight;
`cread`, `wmrd` and `epop` put their values in flight. A command has room while fewer than 256 are in use (R231); a further
one goes to the chunk extension area. The trap information of a failing store is the model's reading (log 109). -/
def Obligations.CopyInstructions : Prop :=
  ∀ (p : Pfx) (f : FAZ) (h : FI) (o : BitVec 2) (s : State),
    let c := s.cur.core
    let x := s.cx c
    let v := s.x f.s.toNat
    let gives := fun i (q : State) (n : Nat) => Does i s (q.upThr (·.issueFar f.d.toNat (.value (BitVec.ofNat 64 n))))
    let va := (s.vaOf p f.s.toNat f.z.toNat).toNat
    let w := s.x f.d.toNat
    let t := x.arch.templates.get (fld w 5 0) 0
    (Passes s p (ldRules p f) → s.atSteward = false → va < 2 ^ 56 → bits va 55 54 ≠ 3 → s.inAperture c va = true →
      s.copyLacks (copyCmd x (s.isSup c) (bits va 11 6) t w) = false → va % 2 ^ f.z.toNat = 0 →
      (s.copyCause c va f.z.toNat w = none → s.cmdsUsed c < 256 → Does (.st p f) s (s.hold (.copy (copyCmd x (s.isSup c) (bits va 11 6) t w)))) ∧
      (∀ k, s.copyCause c va f.z.toNat w = some k → Raises (.st p f) s k (BitVec.ofNat 64 va))) ∧
    (Passes s p (ctOnly { bad := f.z != 0, named := [f.d.toNat, f.s.toNat] }) → ∀ e bs,
      let entry := BitVec.ofNat 512 (ofBytes bs)
      let put := e.upArch c (fun a => { a with templates := a.templates.put (fld (e.x f.d.toNat) 5 0) entry })
      (tValid entry = false ∨ (tplBx entry = false ∧ tplCheck entry = none)) →
      (s.loadAt c v.toNat 64 64 0 = .ok (e, bs) → Does (.ctpl p f 0) s put) ∧
      (∀ z, s.spot c (v.toNat % 2 ^ 32) 64 64 0 = .ok z → s.spRead c z 64 = .ok (e, bs) → Does (.ctpl p f 1) s put)) ∧
    (let n := uimm p 6 h.i.toNat
     Passes s p (ctOrMt { imm := true, range := n == 0 || decide (65536 < n) }) →
      (x.inFlight.any Cmd.engine = false → x.ctr.get h.d.toNat 0 < n → Does (.cwait p h) s s) ∧
      (x.inFlight.any Cmd.engine = true ∨ n ≤ x.ctr.get h.d.toNat 0 → Waits (.cwait p h) s (.counter h.d.toNat n))) ∧
    (Passes s p (ctOrMt { undef := o == 3, bad := f.z != 0, named := [f.d.toNat, f.s.toNat] }) →
      (o = 0 → gives (.cread p f o) s (x.ctr.get (fld v 3 0) 0)) ∧
      (o = 1 → let ch := (s.core c).chans.get (fld v 5 0) {}
        gives (.cread p f o) s ((match ch.st with | .idle => 0 | .active => 1 | .repair => 2 | .failed => 3) +
          min 255 ch.waiting.length * 2 ^ 8 + ch.tpl * 2 ^ 16 + ch.lines % 2 ^ 32 * 2 ^ 32)) ∧
      (o = 2 → gives (.cread p f o) s
        (s.fifoWords c (fld v 1 0) + min 0xFFFF (s.outstanding c (fld v 1 0)) * 2 ^ 16))) ∧
    (Passes s p (ctOnly { bad := f.z != 0, named := [f.s.toNat] }) → s.cmdsUsed c < 256 → Does (.cset p f) s (s.hold (.cset f.d.toNat (fld v 15 0)))) ∧
    (Passes s p (ctOrMt { bad := f.z != 0, named := [f.d.toNat, f.s.toNat] }) →
      gives (.wmrd p f) s ((s.core c).chans.get (fld v 5 0) {}).w) ∧
    (Passes s p (ctOnly { reg := true, lack := !hasReg p, bad := f.d != 0 || f.z != 0 || regV p != 0, named := [f.s.toNat, regT p] }) →
      (v.toNat < 2 ^ 56 → s.regionOff v.toNat = false) →
      (s.gatherCause c v (s.x (regT p)) = none → s.cmdsUsed c < 256 → 
        Does (.epush p f) s (s.hold (.gather { core := c, launch := s.launchNo c, asid := x.asid, sup := s.isSup c
                                               base := v.toNat, ctl := s.x (regT p) }))) ∧
      (∀ k i, s.gatherCause c v (s.x (regT p)) = some (k, i) → Raises (.epush p f) s k i)) ∧
    (Passes s p (ctOrMt { bad := decide (3 < f.s.toNat) || f.z != 0, named := [f.d.toNat] }) →
      (s.outstanding c f.s.toNat = 0 → Raises (.epop p f) s 0x8F 0) ∧
      (s.outstanding c f.s.toNat ≠ 0 →
        let late := (s.upCx c (fun y => { y with nextId := y.nextId + 1 })).upThr (·.issueFar f.d.toNat (.fifo f.s.toNat x.nextId))
        (s.fifoOwed c f.s.toNat ≠ 0 → Does (.epop p f) s late) ∧
        (s.fifoOwed c f.s.toNat = 0 →
          (∀ e y, s.takeFar c s.cur.thr (.fifo f.s.toNat x.nextId) = some (e, y) →
            Does (.epop p f) s (e.upThr (·.issueFar f.d.toNat (.value y)))) ∧
          (x.fifos.get f.s.toNat [] = [] → Does (.epop p f) s late)))) ∧
    (∀ q, ((s.hold q).cx c).chunk.held = x.chunk.held ++ [q] ∧ ((s.hold q).cx c).chunk.cutReq = true)

/-- The engines after release (07 R239, R240, R243, R249). An active channel writes its next line or group, and the watermark of a
copy with one target rises. Of a copy from memory that neither converts nor moves whole groups, the bytes written in the destination
line are those of its source places, each source line read once, and every other byte stays; lines of a slot take the tag of the target
format. Where a cause ends the instance the channel fails. When the whole extent is written the counter falls by one and the next copy
of the channel starts. A gather engine delivers an element to the FIFO. The order of lines with scales, what runs on after an instance's
cause, and the premise that no stride in use is 0 are the model's readings (log 15, 23, 144). -/
def Obligations.EngineSteps : Prop :=
  ∀ s : State,
    let c := s.cur.core
    let n := s.cur.unit
    let ch := s.chan c n
    (∀ q, ch.st = .active → ch.cur = some q →
      (∀ e k, s.engineTest 0 c n = false → s.copyUnit ch q = .ok (e, k) →
        Becomes .copyLineWrite s (e.upChan c n (fun y => { y with buf := k.buf, w := k.w, lines := k.lines, done := k.done })) ∧
          (tDkind q.t ≠ 2 → (∀ i ∈ [1, 2, 3], 1 < tN q.t i → 0 < tDstr q.t i) → ch.w < k.w)) ∧
      (∀ e k i, s.engineTest 0 c n = false → s.copyUnit ch q = .error (.ends e k i) → Becomes .copyLineWrite s
        (((e.upChan c n (fun y => { y with st := .failed })).emit c q.launch 1 0x06 16 n (BitVec.ofNat 64 i)).engineEnds c q.launch k i)) ∧
      (∀ y (pa : Nat → Nat), s.engineTest 0 c n = false → (∀ i ∈ [1, 2, 3], 1 < tN q.t i → 0 < tDstr q.t i) →
        tConverts q.t = false → tUnited q.t = false → tSkind q.t = 0 → dstNext q.t (chanOff ch q) = some y →
        let gs := rowSegs q.t (unitEnd q y) 512 y
        let src := fun (g : Seg) (i : Nat) => srcAddr q ((segSrc q.t g).1 + i)
        let byte := fun (g : Seg) (i : Nat) => match ch.buf.find (src g i / 64) with
          | some l => l.getD (src g i % 64) 0
          | none => s.mem.read (pa (src g i / 64) * 64 + src g i % 64)
        (∀ g ∈ gs, ∀ i, i < g.len → ch.buf.find (src g i / 64) = none →
          s.enginePa q.asid (src g i / 64 * 64) 0 q.sup touchesLine coversNone 0x81 = .ok (s, pa (src g i / 64) * 64)) →
        (∀ pd, tDkind q.t = 0 → s.synthBusy none (pd * 64) = false →
          (∀ h, s.enginePa q.asid ((q.dst + y) / 64 % 2 ^ 50 * 64) 1 q.sup h (copyCovers q) 0x81 = .ok (s, pd * 64)) →
          ∃ t, Becomes .copyLineWrite s t ∧ ch.w < (t.chan c n).w ∧
            (∀ g ∈ gs, ∀ i, i < g.len → t.mem.read (pd * 64 + (q.dst + g.off + i) % 64) = byte g i) ∧
            (∀ a, (∀ g ∈ gs, ∀ i, i < g.len → a ≠ pd * 64 + (q.dst + g.off + i) % 64) → t.mem.read a = s.mem.read a)) ∧
        (∀ d m b, tDkind q.t = 1 → dstCores q = [d] → ch.done = [] → s.window d q.launch = some (m, some b) →
          s.slotReady q [(q.dst % 2 ^ 21 + y) / 64] d = .ok () → s.lineUsers d (b / 64 + (q.dst % 2 ^ 21 + y) / 64) = [] →
          ∃ t, Becomes .copyLineWrite s t ∧ ch.w < (t.chan c n).w ∧ t.mem = s.mem ∧
            t.vault = gs.foldl (fun v g => putBytes v s.objs (d * 2 ^ 21 + (b + (q.dst % 2 ^ 21 + g.off)))
              ((List.range g.len).map (byte g))) s.vault ∧
            (∀ g ∈ gs, 0 < g.len → t.lineTag d (b / 64 + (q.dst % 2 ^ 21 + g.off) / 64) =
              ⟨tDfmt q.t, tPair q.t && (tagIsMx (tDfmt q.t) || tagIsBx (tDfmt q.t))⟩))) ∧
      (dstSpan q.t ≤ chanOff ch q → ∃ t, Becomes .copyComplete s t ∧
        (∀ y, s.launchCx c q.launch = some y → (t.launchCx c q.launch).map (fun z => z.ctr.get (tCtr q.t) 0) =
          some ((y.ctr.get (tCtr q.t) 0 + 65535) % 65536)) ∧
        ((t.chan c n).cur = ch.waiting.head?) ∧ t.mem = s.mem ∧ t.vault = s.vault)) ∧
    (∀ g x e v, s.gatherCur = some g → s.launchCx g.core g.launch = some x → g.repair = false →
      s.engineTest 1 g.core (s.cur.unit % 16) = false →
      (x.fifos.get (fld g.ctl 53 52) []).length < 64 → s.gatherNext g = .ok (e, v) →
      ∃ t, Becomes .gatherElement s t ∧ t.mem = e.mem ∧
        (e.launchCx g.core g.launch = some x →
          (t.launchCx g.core g.launch).map (fun y => y.fifos.get (fld g.ctl 53 52) []) = some (x.fifos.get (fld g.ctl 53 52) [] ++ [v])))

/-! ## Barriers and domains -/

/-- Barrier objects (09 R286–R294). `barinit` writes an object's configuration; `barv` adds its count to an armed object of a
domain of the core, and the arrival that completes the count begins the next phase; a count beyond the expectation is 0xA0, an
object that is not armed 0xA1, another domain 0xA2; `barw` goes on with true where the phase has moved, with false after its
limit, and parks otherwise. The wake message of an object and the end of a limit let its parked threads read it again. Which
objects are known, and that a parked read leaves no mark, are the model's readings (log 13, 84). -/
def Obligations.Barriers : Prop :=
  ∀ (p : Pfx) (f : FAZ) (h : FI) (s e : State) (q : Spot) (bs : List Byte),
    let c := s.cur.core
    let v := ofBytes bs
    let n := h.i.toNat
    (Passes s p (ctOnly { bad := f.z != 0, named := [f.d.toNat, f.s.toNat] }) → s.objSpot f.s.toNat 1 = .ok q →
      (fld (s.x f.d.toNat) 17 16 ≠ 0 → (s.cx c).inDom (fld (s.x f.d.toNat) 17 16) = false → Raises (.barinit p f) s 0xA3 0) ∧
      (fld (s.x f.d.toNat) 17 16 = 0 → s.spWrite c q (toBytes 8 (fld (s.x f.d.toNat) 15 0 * 2 ^ 16 + fld (s.x f.d.toNat) 21 18 * 2 ^ 32 +
          (if fld (s.x f.d.toNat) 15 0 = 0 then 0 else 2 ^ 37))) = .ok e →
        ∃ t, Does (.barinit p f) s t ∧ t.vault = e.vault ∧ q.obj ∈ t.objs ∧ q.obj ∈ (t.cx c).chunk.wakes)) ∧
    (Passes s p (ctOrMt { bad := s.barField h.d, range := n == 0 || decide (16 < n), named := s.barBase h.d.toNat }) →
      s.objSpot h.d.toNat 2 = .ok q → s.spRmw c q 8 = .ok (e, bs) →
      (v.testBit 37 = false → Raises (.barv p h) s 0xA1 0) ∧
      (v.testBit 37 = true → (e.cx c).otherDomain v = true → Raises (.barv p h) s 0xA2 0) ∧
      (v.testBit 37 = true → (e.cx c).otherDomain v = false → v.testBit 36 = false →
        (bits v 31 16 < bits v 15 0 + n → exec (.barv p h) s = .next (s.finish (.error (.overrun q.obj)))) ∧
        (bits v 15 0 + n < bits v 31 16 → ∃ t, Does (.barv p h) s t ∧
          t.vault = ((e.nameObj q.obj).vaultWrite q.core q.phys (toBytes 8 (v + n))).vault ∧ (t.cx c).chunk.cutReq = true) ∧
        (bits v 15 0 + n = bits v 31 16 → ∃ t, Does (.barv p h) s t ∧
          t.vault = ((e.nameObj q.obj).vaultWrite q.core q.phys (toBytes 8 (setBits (setBits v 15 0 0) 35 32 (bits v 35 32 + 1)))).vault ∧
          q.obj ∈ (t.cx c).chunk.wakes))) ∧
    (Passes s p (ctOrMt { reg := true, lack := !hasReg p, bad := decide (7 < f.d.toNat) || s.barField f.s || f.z != 0 || regV p != 0
                          named := s.barBase f.s.toNat ++ [regT p] }) →
      s.objSpot f.s.toNat 0 = .ok q → s.spRead c q 8 = .ok (e, bs) → v.testBit 37 = true → (e.cx c).otherDomain v = false →
      let w := s.x (regT p)
      (bits v 35 32 ≠ fld w 3 0 → Does (.barw p f) s ((e.nameObj q.obj).setF f.d.toNat true)) ∧
      (bits v 35 32 = fld w 3 0 → fld w 35 4 ≠ noLimit → fld w 35 4 ≤ e.cycle - e.barSince →
        Does (.barw p f) s ((e.nameObj q.obj).setF f.d.toNat false)) ∧
      (bits v 35 32 = fld w 3 0 → fld w 35 4 = noLimit → e.parkedOn c s.cur.thr = [] →
        Waits (.barw p f) s (.barrier q.obj noLimit false))) ∧
    (∀ o r, (s.core c).wakes = o :: r → ∃ t, Becomes .barrierWake s t ∧ (t.core c).wakes = r ∧ t.vault = s.vault ∧
      (∀ i l b (m : Nat × Nat), i ≤ 16 → c < 4096 → (s.thrAt c i).stall = some ⟨.barrier o l b, m.1, m.2⟩ →
        (t.thrAt c i).stall = some ⟨.barrier o l true, m.1, m.2⟩)) ∧
    (∀ o l m b, s.thr.stall = some ⟨.barrier o l false, m, b⟩ → l ≠ noLimit → s.thr.t0.getD b + l ≤ s.cycle → s.cutStands c = false →
      ∃ t, Becomes .barwTimeout s t ∧ t.thr.stall = some ⟨.barrier o l true, m, b⟩)

/-- Domains (09 R296–R301). `dsync` requests a cut and waits, 0xA3 outside its domain; once the cut has fallen the core's
arrival reaches the domain, and the last arrival ends the phase for every member once no copy bound to the phase is left; a
phase end lets the `dsync` go on in the next phase, modulo 16. `dmem` is held for the commit of its chunk: 0x0F without
privilege, 0xA4 after the core's arrival; its release takes the core out of its old domain and into the new one. -/
def Obligations.Domains : Prop :=
  ∀ (p : Pfx) (f : FAZ) (h : FI) (s : State),
    let c := s.cur.core
    let x := s.cx c
    let lvl := h.i.toNat
    (Passes s p (ctOnly { bad := h.d != 0, range := lvl == 0 || decide (3 < lvl) }) →
      (x.inDom lvl = false → Raises (.dsync p h) s 0xA3 0) ∧
      (x.inDom lvl = true → Performs (.dsync p h) s
        ((s.requestCut c).upThr (fun t => { t with stall := some ⟨.phaseEnd lvl, s.cur.len, s.cycle⟩ })) .hold)) ∧
    (Passes s p (ctOnly { super := true, bad := f.d != 0 || f.z != 0, named := [f.s.toNat] }) →
      let v := s.x f.s.toNat
      v.getLsbD 17 = false → s.cmdsUsed c < 256 →
      (x.domArr 1 = false → Does (.dmemCl p f) s (s.hold (.dmem 1 v))) ∧ (x.domArr 2 = false → Does (.dmemDie p f) s (s.hold (.dmem 2 v))) ∧
      (x.domArr 3 = false → Does (.dmemPkg p f) s (s.hold (.dmem 3 v))) ∧
      (x.domArr 1 = true → Raises (.dmemCl p f) s 0xA4 0) ∧ (x.domArr 2 = true → Raises (.dmemDie p f) s 0xA4 0) ∧
      (x.domArr 3 = true → Raises (.dmemPkg p f) s 0xA4 0)) ∧
    (let l := s.launchNo c
     let u := s.cur.unit
     ∀ d, 1 ≤ u → u ≤ 3 → x.dsyncCut u = true → x.inDom u = true → x.domArr u = false → s.boundCopy c l u (some (x.domPh u)) = false →
      x.fin = none → (s.core c).dmems.any (fun e => e.1 == l && e.2.1 == u) = false →
      s.doms = [d] → d.is u (domPlace u c) (x.domNo u) = true → d.arrived.contains (c, l) = false → d.det = false →
      ∃ t, Becomes .dsyncArrival s t ∧ (t.cx c).domArr u = true ∧
        (d.arrived.length + 1 < d.members.length → t.doms = [{ d with arrived := d.arrived ++ [(c, l)] }]) ∧
        (d.arrived.length + 1 = d.members.length → (∀ m ∈ d.members, s.boundCopy m.1 m.2 d.lvl (some d.ph) = false) →
          t.doms = [{ d with arrived := [], ph := (d.ph + 1) % 16 }] ∧
          (∀ m ∈ d.members, (m.2, u) ∈ (t.core m.1).phaseEnds))) ∧
    (∀ l u k r, (s.core c).phaseEnds = (l, u) :: r → 1 ≤ u → u ≤ 3 → s.launchCx c l = some k → k.dsyncCut u = true →
      s.boundCopy c l u (some (k.domPh u)) = false → (x.launch = some l → s.cutStands c = false) →
      ∃ t, Becomes .phaseEndReceive s t ∧ (t.core c).phaseEnds = r ∧
        ∃ y, t.launchCx c l = some y ∧ y.domPh u = (k.domPh u + 1) % 16 ∧ y.domArr u = false ∧ y.arch.ct.stall = none) ∧
    (∀ l u v r k, (s.core c).dmems = (l, u, v) :: r → s.boundOpen c l u none = false → s.launchCx c l = some k →
      s.joinBad c u k v = false → Becomes .dmemRelease s ((s.upCore c (fun q => { q with dmems := r })).changeDom c l u k v))

/-! ## The matrix array and the base-die multipliers -/

/-- Matrix instructions (08 R278–R284; 10 R328): `mset` and `mscl.set` write the staging registers, `mscl.rd` reads the
exponent path, and a command that passes its checks is held, with the snapshot of what it needs, for the commit of its chunk.
-/
def Obligations.MatrixInstructions : Prop :=
  ∀ (p : Pfx) (f : FAZ) (s : State),
    let c := s.cur.core
    let x := s.cx c
    let v := s.x f.s.toNat
    let scale := fld x.arch.scaleBase 20 6 * 64
    let cmd := fun (m : MatCmd) => s.hold (.matrix m)
    (Passes s p (matRules f) → s.cmdsUsed c < 256 →
      Does (.msetA p f) s (s.upArch c (fun a => { a with mcfg0 := v })) ∧ Does (.msetB p f) s (s.upArch c (fun a => { a with mcfg1 := v })) ∧
      Does (.msetOp p f) s (s.upArch c (fun a => { a with mcfg2 := v })) ∧
      (v.toNat < 2 ^ 8 → Does (.msclSet p f) s (s.upArch c (fun a => { a with mxp := v }))) ∧
      (2 ^ 8 ≤ v.toNat → Raises (.msclSet p f) s 0x90 0) ∧
      (mgoCause (s.feature 1) x.win x.accn x.arch v (mgoSnap x.arch v) (c % 256 * 2 ^ 21) = none →
        Does (.mgo p f) s (cmd (.mgo (mgoSnap x.arch v)))) ∧
      (v.toNat < 2 ^ 16 → v.toNat < 2 ^ x.accn → Does (.mzero p f) s (cmd (.mzero v.toNat))) ∧
      (v.toNat < 2 ^ 16 → 2 ^ x.accn ≤ v.toNat → Raises (.mzero p f) s 0x93 0) ∧ (2 ^ 16 ≤ v.toNat → Raises (.mzero p f) s 0x90 0) ∧
      (tagIsBx (fld v 37 33) = false → s.imgCause c v true = none → Does (.mrd p f) s (cmd (.mrd v scale))) ∧
      (tagIsBx (fld v 37 33) = false → s.imgCause c v false = none → Does (.mwr p f) s (cmd (.mwr v))) ∧
      (imgBad v true = false → x.accn ≤ fld v 32 29 → tagIsBx (fld v 37 33) = false → Raises (.mrd p f) s 0x93 0) ∧
      (s.feature 7 = false → Raises (.gemvh p f) s 0x1F 0) ∧
      (s.feature 7 = true → ∀ q e bs, s.spot c (v.toNat % 2 ^ 32) 64 64 0 = .ok q → s.spRead c q 64 = .ok (e, bs) →
        let t := BitVec.ofNat 512 (ofBytes bs)
        let k := fld (e.cx c).arch.scaleBase 20 6 * 64
        tagIsBx (gvBfmt t) = false → tagIsBx (gvXfmt t) = false → gvShapeBad t = false → gvFmtBad t = false →
        e.gvOutside c t k = none → gvBva t < 2 ^ 54 → gvScl t < 2 ^ 54 →
        e.cmdsUsed e.cur.core < 256 →
        Does (.gemvh p f) s (e.hold (.matrix (.gemvh t k (e.cx c).asid (e.isSup c)))))) ∧
    (Passes s p (ctOnly { bad := f.s != 0 || f.z != 0, named := [f.d.toNat] }) →
      Does (.msclRd p f) s (s.setX f.d.toNat (s.expState c))) ∧
    (Passes s p (ctOnly { bad := f.d != 0 || f.s != 0 || f.z != 0 }) → s.cmdsUsed c < 256 → Does (.msclClr p f) s (cmd .clr))

/-- The steps of released matrix commands (08 R263, R266–R269, R276, R280–R285). The row barrier closes when every member is
ready; a barrier that has not closed after 2^24 cycles ends the instances with 0x96; a record of the crier is taken where it
agrees with the member's own command and ends the instances with 0x97 where it does not; a solo product replaces its tile;
`mzero` clears tiles, `mwr` fills one, `mrd` writes no slot byte but its image and scales, `mscl.clr` clears the flags. That
an operation completes in one step, what it reads while later chunks write, and which part of a member belongs to an
operation, are the model's readings (log 75, 81). -/
def Obligations.MatrixSteps : Prop :=
  ∀ s : State,
    let c := s.cur.core
    let n := s.cur.unit
    let dropped := fun (t : State) (m : MatRel) => (t.core c).mat = (s.core c).mat.eraseIdx n ∧ (s.core c).mat[n]? = some m
    (∀ l g, s.mgoAt c n = some (l, g) → s.lostMember l c g = false →
      (s.barrierReady l c n g = true → ∃ t, Becomes .rowBarrierClose s t ∧
        ∀ d ∈ g.members c, ∀ j, s.partOf l c n g d = some j → (t.matAt d j).map (·.closed) = some true) ∧
      (∀ m b, g.gang.isSome = true → s.mgoReady c n = true → s.barrierReady l c n g = false → s.matAt c n = some m → m.readySince = some b → b + 2 ^ 24 < s.cycle →
        Becomes .rowBarrierTimeout s (s.failOp l c n g 0x96 0))) ∧
    (∀ i m g j k h, s.running c = some (i, m, g) → s.running (g.crier c) = some (j, k, h) → m.records < g.blocks →
      (g.crier c = c ∨ m.records < k.records) →
      (h.seq % 2 ^ 16 = g.seq % 2 ^ 16 ∧ h.k = g.k ∧ h.afmt = g.afmt ∧ h.bfmt = g.bfmt →
        ∃ t, Becomes .exponentRecord s t ∧ (t.matAt c i).map (·.records) = some (m.records + 1)) ∧
      (h.k ≠ g.k → Becomes .exponentRecord s (s.failOp m.launch c i g 0x97 0))) ∧
    (∀ i m g x, s.running c = some (i, m, g) → g.gang = none → s.matLost c m.launch m.cmd = false → s.matLines c m = true →
      s.mgoTagFault m.launch c g = none → g.blocks ≤ m.records → s.launchCx c m.launch = some x →
      let r := s.mgoTile m.launch c g g
      Becomes .mgoComplete s (((s.putTile (tileAddr c x g.tile) r.1).dropMat c i).upLaunchCx c m.launch (·.matDone r.2 1))) ∧
    (∀ m x, s.matAt c n = some m → s.launchCx c m.launch = some x → s.matLost c m.launch m.cmd = false → s.matFree c n m = true →
      s.olderGoes c m = false → m.out = none →
      (∀ mask, m.cmd = .mzero mask → ∃ t, Becomes .mzeroExecute s t ∧ dropped t m ∧
        (∀ k, k < 16 → mask.testBit k = true → ∀ a, a < 4096 → t.acc.read (tileAddr c x k + a) = 0)) ∧
      (m.cmd = .clr → ∃ t, Becomes .msclClrExecute s t ∧ dropped t m ∧ t.acc = s.acc ∧
        ∀ y, t.launchCx c m.launch = some y → y.matStat.extractLsb' 0 4 = 0 ∧ y.matStat.extractLsb' 4 60 = x.matStat.extractLsb' 4 60) ∧
      (∀ w, m.cmd = .mwr w → elemBits (fld w 37 33) = 32 →
        (∀ r ∈ m.cmd.reads c, ∀ o, (s.comTag r.1 ((s.winBase r.1 m.launch + o) / 64)).tag = 0) →
        ∃ t, Becomes .mwrExecute s t ∧ dropped t m ∧ (∀ i j, i < 32 → j < 32 →
          t.tileElem (tileAddr c x (fld w 32 29)) i j =
            s.comNat (c / 256 * 256 + fld w 28 21)
              (s.winBase (c / 256 * 256 + fld w 28 21) m.launch + fld w 20 0 + imgStride w * i + 4 * j) 4)) ∧
      (∀ w scale, m.cmd = .mrd w scale → (∀ q ∈ s.physLines m.launch (m.cmd.writes c), s.lineUsers q.1 q.2 = []) →
        (∀ r ∈ m.cmd.writes c, r.2.2 ≤ 2 ^ 21) →
        ∃ t, Becomes .mrdExecute s t ∧ dropped t m ∧ t.acc = s.acc ∧
          ∀ a, (∀ r ∈ m.cmd.writes c, let b := r.1 * 2 ^ 21 + s.winBase r.1 m.launch; a < b + r.2.1 ∨ b + r.2.2 ≤ a) →
            t.vault.read a = s.vault.read a) ∧
      (∀ d scale asid sup e tab, m.cmd = .gemvh d scale asid sup → m.repair = false →
        (∀ q ∈ s.physLines m.launch (m.cmd.writes c), s.lineUsers q.1 q.2 = []) →
        s.tagFault (c / 256 * 256 + bits (gvXaddr d) 28 21) m.launch (gvXfmt d) (gvXaddr d % 2 ^ 21) (gvXstr d) (gvV d) (gvK d) = none →
        s.gvRead d asid sup = .ok (e, tab) → (∀ q ∈ s.physLines m.launch (m.cmd.writes c), e.lineUsers q.1 q.2 = []) →
        ∃ t, Becomes .gemvhExecute s t ∧ (t.core c).mat = (e.core c).mat.eraseIdx n ∧ t.acc = e.acc ∧ t.mem = e.mem))

/-! ## Chunk status, seeds, digests, translations, shards, full/empty bits and network requests -/

/-- `chkcfg`, `seedrd`, `digrd` and `tlbi` (06 R220; 12 R369, R372; 10 R320). `tlbi` stands last in its block, is held for the
commit of its chunk, and its thread stands at the next block until the removal is complete; then no removed translation is
held. -/
def Obligations.NearInstructions : Prop :=
  ∀ (p : Pfx) (f : FAZ) (s : State),
    let c := s.cur.core
    let x := s.cx c
    let v := s.x f.s.toNat
    let res := fun (w : Word) => s.setX f.d.toNat w
    (Passes s p (ctOnly { bad := f.z != 0, named := [f.d.toNat, f.s.toNat] }) →
      (256 ≤ v.toNat → v.toNat ≤ 16384 → Does (.chkcfgLen p f) s
        ((s.upArch c (fun a => { a with chkCtl := setFld a.chkCtl 14 0 v.toNat })).setX f.d.toNat ((x.arch.chkCtl.extractLsb' 0 15).setWidth 64))) ∧
      ((v.toNat < 256 ∨ 16384 < v.toNat) → Raises (.chkcfgLen p f) s 0x1A 0) ∧
      Does (.seedrd p f) s (res (x.seeds.getD (v.extractLsb' 0 4).toNat 0))) ∧
    (Passes s p (ctOnly { bad := f.z != 0 || f.s != 0, named := [f.d.toNat] }) →
      Does (.chkcfgStat p f) s (res (s.chkStat c)) ∧ Does (.chkcfgOrder p f) s (res (BitVec.ofNat 64 x.lastStamp)) ∧
      Does (.seedrdDepth p f) s (res (BitVec.ofNat 64 x.seeds.length))) ∧
    (Passes s p { who := .ct, super := true, bad := f.z != 0 || f.s != 0, named := [f.d.toNat] } →
      (s.feature 6 = false → Raises (.digrd p f) s 0x1F 0 ∧ Raises (.digrdQ p f) s 0x1F 0) ∧
      (s.feature 6 = true → ∀ l y, x.launch = some l → s.launch l = some y →
        (s.atSteward = true ∨ s.cutBefore c (.digest false) = true → Does (.digrd p f) s (res y.digest)) ∧
        (s.atSteward = true ∨ s.cutBefore c (.digest true) = true → Does (.digrdQ p f) s (res ((s.queue y.queue).digest.getD 0))) ∧
        (s.atSteward = false → s.cutBefore c (.digest false) = false → s.thr.stall = none → Performs (.digrd p f) s
          ((s.requestCut c).upThr (fun t => { t with stall := some ⟨.digest false, s.cur.len, s.cycle⟩ })) .hold))) ∧
    (let held := fun (sub : Nat) => (s.hold (.tlbi sub v.toNat (s.x f.d.toNat))).standAfter .tlbi
     let rules := fun (noS noD : Bool) => ({ who := .ct, super := true, bad := f.z != 0 || (noS && f.s != 0) || (noD && f.d != 0)
                                             named := (if noS then [] else [f.s.toNat]) ++ (if noD then [] else [f.d.toNat]) } : Rules)
     s.atSteward = false →
      (s.isLast = true → s.cmdsUsed c < 256 →
        (Passes s p (rules false false) → Performs (.tlbiPage p f) s (held 0) .stay ∧ Performs (.tlbiWbinv p f) s (held 3) .stay) ∧
        (Passes s p (rules true false) → Performs (.tlbiAsid p f) s (held 1) .stay) ∧
        (Passes s p (rules true true) → Performs (.tlbiAll p f) s (held 2) .stay)) ∧
      (s.isLast = false → Passes s p (rules false false) → Raises (.tlbiPage p f) s 0x15 0 ∧ Raises (.tlbiWbinv p f) s 0x15 0)) ∧
    (∀ l sub va xd r, (s.core c).tlbis = (l, .tlbi sub va xd) :: r → sub ≠ 3 → s.farUses sub va xd = false →
      ∃ t, Becomes .tlbiComplete s t ∧ (t.core c).tlbis = r ∧ (∀ q ∈ t.tlb, q.removed sub va xd = false) ∧
        (∀ q ∈ s.tlb, q.removed sub va xd = false → q ∈ t.tlb) ∧ t.mem = s.mem)

/-- Sharded accesses, `shfence`, full/empty operations and work requests (12 R376, R378; 14 R419; 15 R440): an element of this
device is loaded or stored at the place that the map gives; one of another device is stored in the bundle of the chunk;
`shfence` goes on when every owner has acknowledged; `feld` and `fest` stand last in their block and are held for the commit,
and their thread waits before its next block; a work request that passes its checks is held for the commit, and one that does not raises
its cause. The number of a message is the model's layout; what an acknowledgement waits for, and the information of such a cause (the
descriptor's address, 0 for 0x1F), are its readings (log 19, 57, 93). -/
def Obligations.ShardsAndRequests : Prop :=
  ∀ (p : Pfx) (f : FAZ) (h : FI) (k : BitVec 6) (s e : State) (q : ShPlace),
    let c := s.cur.core
    let n := h.i.toNat
    (Passes s p (shRules p f) →
      (∀ b u bs, s.shardPlace k.toNat p (s.x f.s.toNat) 0 = .ok (e, q) → q.dev = e.devNo → e.memLoad q.va q.size q.size = .ok (u, bs) →
        Does (.ldsh p f b k) s (u.upThr (·.issueFar f.d.toNat (.value
          (if b = 0 then sextW (ofBytes bs) (8 * q.size) else zextW (ofBytes bs) (8 * q.size)))))) ∧
      (s.shardPlace k.toNat p (s.x f.s.toNat) 1 = .ok (e, q) →
        let bs := toBytes q.size (e.x f.d.toNat).toNat
        (∀ u, q.dev = e.devNo → e.memStore q.va q.size bs = .ok u → Does (.stsh p f k) s u) ∧
        (∀ y, q.dev ≠ e.devNo → e.shardPeer q 1 = .ok y → Does (.stsh p f k) s (e.upCx e.cur.core (fun x => { x with chunk := { x.chunk with
          bundle := x.chunk.bundle ++
            [({ va := q.va, data := bs, shard := true, version := q.version, dev := q.dev, tasid := x.asid, tva := q.va } : PeerOp)] } }))))) ∧
    (Passes s p (ctOnly { bad := h.d != 0 }) →
      (s.thr.stall.map (·.why) = some (.shards n (some [])) → Does (.shfence p h) s s) ∧
      (s.atSteward = false → s.cutBefore c (.shards n none) = false → s.thr.stall = none → Performs (.shfence p h) s
        ((s.requestCut c).upThr (fun t => { t with stall := some ⟨.shards n none, s.cur.len, s.cycle⟩ })) .hold)) ∧
    (∀ v ds l b, (s.core c).slotOf (v / 1024) = some (s.core c).slotNo → (s.thrAt c 16).stall = some ⟨.shards n (some ds), l, b⟩ →
      ∃ t, Becomes (.shfenceAck v) s t ∧ (t.thrAt c 16).stall = some ⟨.shards n (some (ds.filter (· != v % 1024))), l, b⟩) ∧
    (∀ v, s.staged = [] → s.fencesIn = [] → ∃ t, Becomes (.shfenceMessage v) s t ∧ t.fencesIn = [] ∧
      t.outbox = s.outbox ++ [.fenceAck (bits v 9 0) (bits v 25 10) (bits v 81 26) (bits v 97 82)]) ∧
    (let va := (s.x f.s.toNat + wordOfInt (simm p 0 0)).toNat
     let req := fun (store : Bool) (mode : Nat) => ({ core := c, launch := s.launchNo c, thr := s.cur.thr, id := (s.cx c).nextId, store := store
                                                      mode := mode, va := va, w := s.x f.d.toNat, asid := (s.cx c).asid, sup := s.isSup c
                                                      blk := s.thr.blk, off := s.thr.off, park := s.thr.park } : FeReq)
     let held := fun (store : Bool) (mode : Nat) =>
       (s.hold (.fe (req store mode))).upCx c (fun x => { x with nextId := (s.cx c).nextId + 1 })
     let rules := fun (undef : Bool) => ctOrMt { undef := undef, imm := true, bad := f.z != 0, named := [f.d.toNat, f.s.toNat] }
     s.feature 13 = true → va < 2 ^ 54 → s.cmdsUsed c < 256 →
      (∀ (m : BitVec 2), m ≠ 3 → Passes s p (rules (m == 3)) →
        (s.isLast = true → (∃ y, s.feCheck va 0 = .ok y) → Performs (.feld p f m) s
          (((held false m.toNat).upThr (·.issueFar f.d.toNat (.released (s.cx c).nextId))).standAfter (.fullEmpty (s.cx c).nextId)) .stay) ∧
        (s.isLast = false → Raises (.feld p f m) s 0x15 0)) ∧
      (∀ (m : BitVec 3), (m = 0 ∨ m = 3 ∨ m = 4) → Passes s p (rules false) → s.isLast = true → (∃ y, s.feCheck va 1 = .ok y) →
        Performs (.fest p f m) s ((held true m.toNat).standAfter (.fullEmpty (s.cx c).nextId)) .stay)) ∧
    (Passes s p (ctOnly { bad := f.d != 0 || f.z != 0, named := [f.s.toNat] }) → ∀ bs,
      let w := BitVec.ofNat 512 (ofBytes bs)
      let a := (s.x f.s.toNat).toNat
      (∀ z, s.spot c (a % 2 ^ 32) 64 64 0 = .ok z → s.spRead c z 64 = .ok (e, bs) →
        (e.netCause c w = none → e.cmdsUsed e.cur.core < 256 → Does (.netpost p f) s (e.hold (.net w (e.cx c).asid (e.isSup c)))) ∧
        (∀ r, e.netCause c w = some r → Raises (.netpost p f) s r (if r = 0x1F then 0 else BitVec.ofNat 64 (a % 2 ^ 32)))) ∧
      (s.loadAt c a 64 64 0 = .ok (e, bs) → e.netCause c w = none → e.cmdsUsed e.cur.core < 256 →
        Does (.netpostM p f) s (e.hold (.net w (e.cx c).asid (e.isSup c)))))

/-! ## Chunks, commits and what waits for them -/

/-- The steps of chunks (06 R187, R193, R198, R200, R201, R206, R214, R219; 05 R171). A due cut at a cut point cuts the chunk;
a chunk of reach 0 commits at once, another asks its reeve, which grants it with the next stamp of the commit clock unless a
granted commit or a reservation stands against it; a write signature squashes what it meets, never the chunk that holds the
reservation; an acknowledged commit is finished: its stores become committed data. One reservation is granted at a time. A
lateral wait ends when no other chunk holds the line, and squashes the waiting chunk after 4,096 cycles. The cut watchdog
raises 0xB0. At the home slices (03 R98, R99; 10 R310–R313) the oldest released atomic is applied to memory, and its old value
becomes the result; a deterministic update is held at its slice, marks its phase serial where the slice's entries are full,
and all updates of a phase are applied at its end, in round order. How many cut chunks wait, what a chunk of a gang squashes,
and the applying of a phase in one step are the model's readings (log 10, 71, 89). What the commit clock counts is its choice
(log 123). -/
def Obligations.ChunkEvents : Prop :=
  ∀ s : State,
    let c := s.cur.core
    let x := s.cx c
    let cs := s.gangCores c
    (x.asyncCut = false → cs.any s.anyRaised = false → cs.all s.atCutPoint = true → cs.any (fun d => s.cutDue d || s.steppedCut d) = true →
      Becomes .chunkCut s (s.cut c false)) ∧
    (let y := (s.cutOne c false).cx c
     y.pend = x.pend ++ [{ x.chunk with st := .cut }] ∧ y.chunk.ckpt = y.arch ∧ y.chunk.retired = 0 ∧ y.chunk.stores = []) ∧
    (cs.any s.anyRaised = true → isSteward c = false → cs.all (fun d => (s.cx d).chunk.stepped) = true →
      cs.all s.steppedReady = true → Becomes .steppedTrap s (s.cut c true)) ∧
    (cs.all s.headCut = true → cs.any s.commitHeld = false → s.headReach c = 0 → Becomes .commitRequest s (s.commitLocal c 3)) ∧
    (∀ k r, x.arch.gang = none → x.pend = k :: r → k.st = .cut → s.commitHeld c = false → s.reachOf c k ≠ 0 →
      (∀ v, s.launch (s.launchNo c) = some v → dOrd v.d = 0 ∧ v.replay = false) →
      let blocked := s.grantBlocked (s.reachOf c k) c [c] k || s.reserveBlocked [c] k
      ∃ t, Becomes .commitRequest s t ∧ t.mem = s.mem ∧ t.arrivals = s.arrivals + 1 ∧
        (blocked = false → t.clock = s.clock + 1 ∧ (t.cx c).pend = { k with st := .granted (s.clock + 1) (s.reachOf c k) [] } :: r) ∧
        (blocked = true → t.clock = s.clock ∧ (t.cx c).pend = { k with st := .requested (s.arrivals + 1) s.cycle } :: r)) ∧
    (∀ k r stamp lvl acks, let d := s.cur.unit
      (s.cx d).pend = k :: r → k.st = .granted stamp lvl acks → acks.contains c = false → c ≠ d → inSubtree lvl d c = true →
      let q := s.upCx d (fun x => { x with pend := { k with st := .granted stamp lvl (c :: acks) } :: r })
      ((s.gangCores d).contains c = false → ∀ i, s.sigVictim c k.wsig = some i → Becomes .writeSignatureArrive s (q.squash c i true)) ∧
      (s.sigVictim c k.wsig = none → Becomes .writeSignatureArrive s q)) ∧
    (∀ d i wsig, s.sigVictim d wsig = some i → s.reserved d i = false) ∧
    (s.takeDue c = false → cs.all s.acknowledged = true → Becomes .commitFinish s
      (cs.foldl (fun s d => s.commitLocal d 3) (cs.foldl State.finishCommit s).retest)) ∧
    (s.takeDue c = true → Becomes .commitFinish s (s.takeCauses c)) ∧
    (∀ k r stamp reach, x.pend = k :: r → k.stores.wf = true → k.wakes = [] → k.traces = [] → k.bundle = [] → k.held = [] →
      k.fenceSys = false → k.wantsRsv = false → x.taking = false → let t := s.applyCommit c stamp reach
      (t.cx c).pend = r ∧ (t.cx c).lastStamp = stamp ∧ (t.cx c).reach = reach ∧
        ∀ pa, t.mem.read pa = (k.stores.find pa).getD (s.mem.read pa)) ∧
    ((x.chunk :: x.pend).any (·.wantsRsv) = true → s.rsvHolder ≠ some c → s.rsvQueue.contains c = false →
      Becomes .reservationRequest s { s with rsvQueue := s.rsvQueue ++ [c] }) ∧
    (∀ d r, s.rsvHolder = none → s.rsvQueue = d :: r → Becomes .reservationGrant s { s with rsvHolder := some d, rsvQueue := r }) ∧
    (∀ o line wr l b, s.thr.stall = some ⟨.lateral o line wr, l, b⟩ →
      (s.lineHolder c line wr = none → Becomes .lateralWaitRelease s s.waitAgain) ∧
      (b + 4096 < s.cycle → s.execReserved c = false → Becomes .lateralWaitTimeout s (s.squashExec c true))) ∧
    (∀ b, let w := fld x.arch.chkCtl 19 16
      x.chunk.cutSince = some b → w ≠ 0 → b + 2 ^ (w + 15) ≤ s.cycle → x.fin = none → s.cutDue c = true →
      let q := s.squashExec c false
      let a := q.arch c
      let e := q.takeException c 0xB0 true (q.recNow c a.ct) 0
      (a.trap.stat.getLsbD 0 = true ∨ a.trap.vec = 0 →
        Becomes .cutWatchdog s (s.endInstance c (s.launchNo c) (ctEnding 0xB0 0 (q.recNow c a.ct) 0))) ∧
      (a.trap.stat.getLsbD 0 = false → a.trap.vec ≠ 0 → a.ct.awaitsCommit = false →
        Becomes .cutWatchdog s (e.upCx c (fun x => { x with chunk := { x.chunk with ckpt := x.arch } })))) ∧
    (let n := s.cur.unit
     (∀ l o r q w, (s.core c).atomics = (l, o) :: r → s.earlierAtomic c o = false → s.applyFar o = .ok (q, w) →
       (∃ t, Becomes .farAtomicApply s t ∧ (t.core c).atomics = r ∧ t.mem = q.mem) ∧
       (∃ e y, s.engineXlat o.asid o.va 2 o.sup = .ok (e, y) ∧ w = o.result (e.memNat (y.pfn * 65536 + o.va % 65536) o.size))) ∧
     (∀ l o r e k va, (s.core c).atomics = (l, o) :: r → s.earlierAtomic c o = false → s.applyFar o = .error (.ends e k va) →
       Becomes .farAtomicApply s ((e.upCore c (fun q => { q with atomics := r })).endInstance c l (endingOf k (BitVec.ofNat 64 va)))) ∧
     (∀ l o, (s.core c).detOut[n]? = some (l, o) →
       let taken := fun (t : State) => (t.core c).detOut = (s.core c).detOut.eraseIdx n
       (∀ i h, s.dets.findIdx? (·.takes c o) = some i → s.dets[i]? = some h → h.serial = false →
         (h.held.length < s.damCap (bits o.va 53 52) → ∃ t, Becomes .detUpdateArrive s t ∧ taken t ∧
           t.dets = s.dets.set i { h with held := h.held ++ [(c, o)] }) ∧
         (s.damCap (bits o.va 53 52) ≤ h.held.length →
           Becomes .detUpdateArrive s { s with dets := s.dets.set i { h with serial := true } })) ∧
       (s.dets.findIdx? (·.takes c o) = none →
         (s.dets.filter (fun h => h.die == bits o.va 53 52 && h.slice == homeSlice o.va)).length < s.damMax (bits o.va 53 52) →
         ∃ t, Becomes .detUpdateArrive s t ∧ taken t ∧ t.dets = s.dets ++ [newHold c o])) ∧
     (∀ h q, s.dets[n]? = some h → s.phaseOver h = true → s.phaseOut h.lvl h.place h.id h.ph = [] →
       let hs := s.dets.filter (fun g => g.lvl == h.lvl && g.place == h.place && g.id == h.id && g.ph == h.ph)
       s.applyAll (hs.flatMap (fun g => g.held.mergeSort (fun a b => decide (detKey g.serial a.2 ≤ detKey g.serial b.2)))) = .ok q →
       Becomes .detPhaseApply s (({ q with dets := q.dets.filter (fun g => !hs.contains g) } : State).endPhase h.lvl h.place h.id)))

/-! ## Contexts, page faults and engine faults -/

/-- Contexts (05 R171, R180–R184; 12 R358). The scheduler asks a running context to leave before another one runs, and a core
that runs none begins the one it wants; the quantum asks for a switch between equal priorities; a draining context whose
operations are done streams out, its image leaves the slot empty, and an image that streams in brings its bytes back; the
lines of its window that others' uncommitted chunks name move with it. A task instance ends once its threads have stopped, its
chunks have committed and its operations have completed; one with a cause drains first. That the image that left is the one
that comes back, and what runs on after a cause, are the model's readings (log 32, 23). -/
def Obligations.ContextEvents : Prop :=
  ∀ s : State,
    let c := s.cur.core
    let k := s.core c
    let i := s.cur.unit % 2
    let sl := k.slot i
    (s.wanted c = k.now → Becomes .contextSwitch s (s.setCore c { k with switchTo := none })) ∧
    (∀ j l, s.wanted c = some j → k.isRunning = false → s.slotGang c j = [c] → (k.slot j).ctx.launch = some l → k.slotOf l = some j →
      ∃ t, Becomes .contextSwitch s t ∧ ((t.core c).slot j).st = .running ∧ ((t.core c).slot j).ctx = (k.slot j).ctx ∧
        (t.core c).runSince = s.cycle ∧ t.mem = s.mem ∧ t.vault = s.vault) ∧
    (s.wanted c ≠ k.now → (s.switchCores c (s.wanted c)).any (fun d => (s.core d).isRunning && (s.core d).switchTo.isNone) = true →
      ∃ t, Becomes .contextSwitch s t ∧ ∀ d ∈ s.switchCores c (s.wanted c), (t.core d).switchTo.isSome = true ∧
        ∀ j, ((t.core d).slot j).st = ((s.core d).slot j).st ∧ ((t.core d).slot j).ctx.arch = ((s.core d).slot j).ctx.arch) ∧
    (let n := fld (s.pkgReg 0x0010) 47 32 * 1024
     n ≠ 0 → k.isRunning = true → k.switchTo = none → k.runSince + n ≤ s.cycle → k.slot0.candidate = true → k.slot1.candidate = true →
      k.slot0.ctx.prio = k.slot1.ctx.prio → Becomes .quantumExpiry s ((s.setCore c { k with switchTo := some (1 - k.slotNo) }).noteCut c)) ∧
    (∀ l, sl.ctx.launch = some l →
      (sl.st = .drain → sl.ctx.fin = none → k.streams = false → s.opsDone c l = true → ∃ t, Becomes .drainComplete s t ∧
        (t.core c).slot i = { sl with st := .streamout } ∧ SamePackage s t) ∧
      (sl.st = .streamout → s.frameOf sl.ctx = none → ∃ t, Becomes .streamoutComplete s t ∧
        (t.core c).slot i = {} ∧ t.images = (s.images ++ [s.takeImage c sl.ctx]).map (fun im =>
          { im with ctx := im.ctx.renamed (awayName c l sl.ctx.wb sl.ctx.win) }) ∧ (t.core c).chkExt = sl.ctx.arch.chkExt ∧
        t.mem = s.mem) ∧
      (∀ j im, sl.st = .streamin → s.images.findIdx? (fun im => im.core == c && im.ctx.launch == some l) = some j →
        s.images[j]? = some im →
        let q : State := { s.placeImage c sl.ctx im with images := s.images.eraseIdx j }
        Becomes .streaminComplete s (((q.upCore c (fun k => k.setSlot i { k.slot i with st := if sl.leaving then .drain else .ready })).renamed
          (homeName c l sl.ctx.wb)).netResident c l)) ∧
      (sl.st = .running ∨ sl.st = .ready ∨ sl.st = .drain → sl.ctx.committed = true →
        (sl.ctx.fin.isSome = true → sl.st ≠ .drain → Becomes .taskInstanceEnd s (((s.dropGathers c l).netEnd c l).upCore c
          (fun k => k.setSlot i { k.slot i with st := .drain, leaving := false }))) ∧
        (sl.ctx.fin = none → sl.ctx.arch.settled = true → s.opsDone c l = true →
          (∀ v, (s.finishInstance c i l sl.ctx).launch l = some v → v.again = none) →
          Becomes .taskInstanceEnd s (s.finishInstance c i l sl.ctx)))) ∧
    (∀ x im a, a < x.win * 65536 →
      (s.takeImage c x).bytes.read a = s.vault.read (c * 2 ^ 21 + x.wb + a) ∧
      (im.bytes.wf = true → (s.placeImage c x im).vault.read (c * 2 ^ 21 + x.wb + a) = im.bytes.read a))

/-- Translation on demand, page faults and engine faults (10 R314, R316, R321, R322; 07 R243–R247). A walk's leaf is held and
the access is tried again; its fault is the access's cause; an absent page parks the context until the host answers, which may
decline. A unit that meets a fault then stands in REPAIR with the address, and a message with its core, unit, index, cause, address,
faulting index and identity stands at the tail of the steward's queue, or becomes a record of the host where the steward does not run or
its queue is full. A resume packet lets the unit go on; an abandon packet ends its task instance with the packet's cause, and a copy
channel fails; a packet that names no unit in REPAIR is ignored. One list holds all translations, which is the model's choice (log 7).
That the unit's own cause stands for an unassigned code of an abandon packet is the model's choice (log 114). -/
def Obligations.FaultEvents : Prop :=
  ∀ (s : State) (v : Word),
    let c := s.cur.core
    let die := dieOf c
    (∀ va kind l b, s.thr.stall = some ⟨.translate va kind, l, b⟩ →
      let w := s.walk (s.cx c).asid va kind (s.isSup c) (some c)
      (∀ q y, w = .ok q y → q.thr.stall = s.thr.stall → Becomes .l2MissTranslate s (q.holdXlat y).waitAgain ∧ y ∈ (q.holdXlat y).tlb) ∧
      (∀ q r, w = .fault q r → q.thr.stall = s.thr.stall → Becomes .l2MissTranslate s (q.waitFault (accessCause kind r) (BitVec.ofNat 64 va))) ∧
      (w = .absent → s.fqValid (bits va 53 52) = false → Becomes .pageFaultPark s (s.endHere 0xB5 0)) ∧
      (w = .absent → s.fqValid (bits va 53 52) = true → (s.arch c).gang = none →
        ∃ t, Becomes .pageFaultPark s t ∧ (t.cx c).parked = some ⟨s.cur.thr, va, kind⟩)) ∧
    (∀ i q, s.posts.findIdx? (fun q => q.die == die && q.seq.isNone) = some i → s.posts[i]? = some q →
      let base := s.dieReg die 0x010
      let tail := fld (s.dieReg die 0x020) 31 0
      let pa := fld base 51 12 * 4096 + tail % 2 ^ fld base 5 1 * 64
      s.fqRoom die = true → s.synthBusy none pa = false → ∃ t, Becomes .faultRecordPost s t ∧
        t.memNat pa 64 = (q.body.toNat + tail * 2 ^ 32 + s.cycle % 2 ^ 64 * 2 ^ 256) % 2 ^ 512 ∧
        t.dieReg die 0x020 = BitVec.ofNat 64 ((tail + 1) % 2 ^ 32)) ∧
    (let done := fun (t : State) => ∀ q ∈ t.posts, q.die = die → ∀ m, q.seq = some m → seqLe m (fld v 31 0) = false
     s.hostQ = [] → s.isAbsent die 4095 = false →
     (∃ t, Becomes (.fqRplReady v) s t ∧ done t) ∧
     (∃ t, Becomes (.fqRplDecline v) s t ∧ ∀ q ∈ t.posts, q.die = die → q.seq ≠ some (fld v 31 0))) ∧
    (let u := s.cur.unit
     let told := fun (e t : State) (idx : Nat) (k : Cause) (va n l : Nat) =>
       let m := c + u * 2 ^ 12 + idx % 64 * 2 ^ 20 + k.toNat * 2 ^ 32 + va % 2 ^ 56 * 2 ^ 40 + n % 2 ^ 32 * 2 ^ 96 + e.identity c l * 2 ^ 128
       let tail := fld (e.dieReg die 0x0D8) 63 32
       (e.stewardRuns die = true ∧ e.mqRoom die = true → t.memNat (e.mqAddr die tail) 32 = m ∧
         t.dieReg die 0x0D8 = setFld (e.dieReg die 0x0D8) 63 32 ((tail + 1) % 2 ^ 32)) ∧
       (¬(e.stewardRuns die = true ∧ e.mqRoom die = true) → e.fqValid die = true →
         ∃ p ∈ t.posts, p.die = die ∧ p.whom = .engine c u ∧ p.body = msgRecord m)
     c < 4096 →
     (∀ e l idx k va n, u < 0x50 → s.engineStops c u = some (e, l, idx, k, va, n) →
       ∃ t, Becomes .engineFault s t ∧ t.inRepair c u = some (l, va) ∧ told e t idx k va n l) ∧
     (∀ e l k va, u = 0x51 → s.netStops c = some (e, l, k, va) →
       ∃ t, Becomes .engineFault s t ∧ t.inRepair c u = some (l, va) ∧ told e t 0 k va 0 l)) ∧
    (∀ q r, s.packets = q :: r →
      let e : State := { s with packets := r }
      (q.abandon = false → e.inRepair q.core q.unit = none → Becomes .resumePacket s e) ∧
      (∀ l va, q.unit < 0x40 → e.inRepair q.core q.unit = some (l, va) →
        (q.abandon = false → ∃ t, Becomes .resumePacket s t ∧ t.packets = r ∧ ((t.core q.core).chans.get q.unit {}).st = .active) ∧
        (q.abandon = true → ∃ t, Becomes .abandonPacket s t ∧ t.packets = r ∧ ((t.core q.core).chans.get q.unit {}).st = .failed)) ∧
      (∀ l va x, q.abandon = true → e.inRepair q.core q.unit = some (l, va) → s.anyCx q.core l = some x → x.fin = none →
        ∃ t, Becomes .abandonPacket s t ∧ t.packets = r ∧ (t.anyCx q.core l).map (·.fin) = some (some (endingOf
          (if q.unit < 0x50 ∧ causeAssigned q.cause = true then q.cause else unitCause q.unit) (BitVec.ofNat 64 va))))) ∧
    (let lo := s.dieReg die 0x0E0
     fld lo 21 20 ≤ 1 → ∃ t, Becomes (.stwSend1 v) s t ∧ t.packets = s.packets ++
       [{ core := fld lo 11 0, unit := fld lo 19 12, abandon := fld lo 21 20 == 1, cause := BitVec.ofNat 8 (fld lo 29 22) }]) ∧
    (let q := s.dieReg die 0x0D0
     let a := fld q 51 12 * 4096 + fld v 31 0 % 2 ^ fld q 5 1 * 32
     (s.poisoned a 32 = false → Becomes (.stwFwd v) s (s.forwardMsg die (s.memNat a 32))) ∧
     (s.poisoned a 32 = true → ∃ t, Becomes (.stwFwd v) s t ∧ t.posts = s.posts)) ∧
    (s.hostQ = [] → s.isAbsent die 4095 = false → fld (s.dieReg die 0x0C0) 0 0 = 0 → fld v 0 0 = 1 →
      ∃ t, Becomes (.stwRun v) s t ∧
      fld (t.dieReg die 0x0C0) 1 0 = 1 ∧ (t.arch (4096 + die)).ct.phase = .entry (BitVec.ofNat 64 (fld v 51 3 * 8)) ∧
      ∀ n, (t.arch (4096 + die)).ct.getX n = 0) ∧
    (isSteward c = true → ∀ r, (s.arch c).gang = none → (s.arch c).ct.raised = some r → (s.arch c).ct.pending = [] → Becomes .stewardHalt s
      ((s.upThrAt c 16 (fun t => { t with raised := none })).takeException c r.cause false (s.recOf c (s.arch c).ct r) r.info))

/-! ## Queues, launches and power -/

/-- Command queues (12 R343–R347, R363, R367–R371; 13 R396): a tail write moves TAIL forward within the ring or sets TERR; a
packet's header is checked, its packet begins once its wait is satisfied, one that a poisoned granule keeps from being read completes
with 0xD2, and its record is written when it is complete.
Writes of the host take effect in order: one with no earlier one pending at once (14 R431). The address space of packets'
addresses is free (log 25). -/
def Obligations.QueueEvents : Prop :=
  ∀ (s : State) (v : Word),
    let q := s.cur.unit % 64
    let head := s.cqHead q
    let dist := fun (n : Nat) => (n + 2 ^ 32 - head) % 2 ^ 32
    let k := s.queue q
    (s.hostQ = [] → ∃ t, Becomes (.cqTailWrite v) s t ∧
      (dist (fld v 63 32) ≤ s.cqSize q ∧ dist (s.cqTail q) ≤ dist (fld v 63 32) → t.cqTail q = fld v 63 32 ∧ t.cqHead q = head ∧ t.cqCfg q = s.cqCfg q) ∧
      (¬(dist (fld v 63 32) ≤ s.cqSize q ∧ dist (s.cqTail q) ≤ dist (fld v 63 32)) → t.cqPtr q = s.cqPtr q ∧ fld (t.cqCfg q) 9 9 = 1)) ∧
    (k.st = .idle → fld (s.cqCfg q) 0 0 = 1 → head ≠ s.cqTail q → s.headWaits q = false → ∃ t, Becomes .packetHeaderCheck s t ∧ t.mem = s.mem ∧
      (t.queue q).pkt = s.headPacket q ∧
      (s.headPoisoned q = true → (t.queue q).st = .done { status := 1, code := 0xD2 }) ∧
      (s.headPoisoned q = false → headerReason (s.headPacket q) head = none → (t.queue q).st = .checked) ∧
      (∀ r, s.headPoisoned q = false → headerReason (s.headPacket q) head = some r → (t.queue q).st = .done { status := 2, code := r })) ∧
    (let p := BitVec.ofNat 512 (k.pkt.toNat % 2 ^ 128 + bits (s.headPacket q).toNat 511 128 * 2 ^ 128)
     k.st = .checked → s.headWaits q = false → (pWait k.pkt = true → pWval k.pkt ≤ (s.pkgReg (0x1000 + 8 * pWevt k.pkt)).toNat) →
      (s.headPoisoned q = true → ∃ t, Becomes .packetBegin s t ∧ (t.queue q).st = .done { status := 1, code := 0xD2 }) ∧
      (s.headPoisoned q = false →
      (pType p ≠ 1 → pType p ≠ 12 → payBad p = true → ∃ t, Becomes .packetBegin s t ∧ (t.queue q).st = .done { status := 2, code := 2 }) ∧
      (payBad p = false →
        (pType p = 2 → ∃ t, Becomes .packetBegin s t ∧ (t.queue q).st = .done {} ∧ t.mem = s.mem) ∧
        (pType p = 4 → k.seeds.length < 16 → ∃ t, Becomes .packetBegin s t ∧ (t.queue q).st = .done {} ∧
          (t.queue q).seeds = BitVec.ofNat 64 (pWord p 0) :: k.seeds) ∧
        (pType p = 5 → 1 < k.seeds.length → ∃ t, Becomes .packetBegin s t ∧ (t.queue q).st = .done {} ∧ (t.queue q).seeds = k.seeds.drop 1) ∧
        (pType p = 7 → s.feature 6 = true → k.digest = none → ∃ t, Becomes .packetBegin s t ∧ (t.queue q).st = .done {} ∧
          (t.queue q).digest = some 0) ∧
        (pType p = 11 → 2000 ≤ pWord p 0 → pWord p 0 ≤ 3200 → ∃ t, Becomes .packetBegin s t ∧ (t.queue q).st = .done {} ∧
          fld (t.pkgReg 0x0010) 11 0 = pWord p 0)) ∧
      (∀ e y ps, pType p = 1 → s.readLaunch q (pSeq p) (bits (pWord p 0) 55 0) (payBad p) = (e, .ok (.ok (y, ps))) → e.featureLack y = false →
        ∃ t l, Becomes .packetBegin s t ∧ (t.queue q).st = .launched l ∧ t.launches.find l = some y))) ∧
    (∀ r, let pa := fld (s.pkgReg (0x0110 + 32 * q)) 51 12 * 4096 + head % s.cqSize q * 64
      k.st = .done r → s.synthBusy none pa = false → ∃ t, Becomes .packetComplete s t ∧ (t.queue q).st = .idle ∧
        t.cqHead q = (head + 1) % 2 ^ 32 ∧ t.memNat pa 64 = r.word head s.cycle % 2 ^ 512 ∧
        (pSig k.pkt = true → r.status ≠ 2 →
          t.pkgReg (0x1000 + 8 * pSevt k.pkt) = s.pkgReg (0x1000 + 8 * pSevt k.pkt) + 1)) ∧
    (∀ req, k.st = .negotiating req 0 → s.launches.any (fun e => e.2.st != .waiting) = false →
      ∃ t, Becomes .featureNegotiation s t ∧ (t.queue q).st = .done {} ∧
        t.pkgReg 0x0030 = (BitVec.ofNat 64 req ||| 1) &&& s.pkgReg 0x0020)

/-- Launches, power and the torus (12 R338, R340, R342, R354, R356, R361, R362): placement, the scheduler's waits, the end of
a launch and of a replay. A new task instance begins at its entry with its scalar registers 0 (12 R352). The measured power
and the flits are inputs, by the model's choice (log 17, 22). -/
def Obligations.LaunchEvents : Prop :=
  ∀ s : State,
    let c := s.cur.core
    let l := s.cur.unit
    (let first := s.launches.find? (fun e => e.2.st == .reserved && s.allFree e.1 e.2 && !s.almWaits e.2 && s.almAllows e.2)
     (s.powerHold = true → Becomes .launchPlace s s) ∧
     (s.powerHold = false → s.launches.find? (fun e => s.reserveStale e.2) = none →
     (∀ e, first = some e → Becomes .launchPlace s (s.startLaunch e.1 e.2)) ∧
     ∀ e r q, first = none → s.negotiating = false → s.readyLaunches = e :: r → (e :: r).any (fun e => e.2.blocking) = false → s.consider e.1 e.2 = (q, true) →
      Becomes .launchPlace s q)) ∧
    (∀ v g ext, let x := s.newCtx l v g c ext
      x.launch = some l ∧ x.inst = g ∧ x.arch.ct.phase = .entry (BitVec.ofNat 64 (dEntry v.d)) ∧ (∀ n, x.arch.ct.getX n = 0) ∧
        (∀ i n, (x.arch.mt i).thr.getX n = 0) ∧ x.chunk.ckpt = x.arch) ∧
    (∀ v, s.launch l = some v →
      (v.st = .waiting → v.since + 2 ^ 20 ≤ s.cycle → ∃ t, Becomes .launchAging s t ∧ t.launch l = some { v with aged := true }) ∧
      (∀ b, v.st = .waiting → v.passed = some b → b + 2 ^ 22 ≤ s.cycle →
        ∃ t, Becomes .passedOverLimit s t ∧ t.launch l = some { v with blocking := true }) ∧
      (s.launchOver l v = true → v.again = none → (fld (s.pkgReg 0x0018) 0 0 = 1 → s.synthBusy none (s.classPa v) = false) →
        ∃ t, Becomes .launchComplete s t ∧ t.launches.find l = none ∧
        (t.queue v.queue).st = .done v.record) ∧
      (∀ g e, s.launchOver l v = true → v.again = some (g, e) → Becomes .launchComplete s (s.restart l v g e))) ∧
    (∀ k r p b e named, let n := s.launchNo c
      (s.cx c).pend = k :: r → k.st = .requested p b → s.replayNext n = (e, .ok named) → e.replays n = true →
      e.replayHolds c named = true → b + 2 ^ 24 ≤ e.cycle →
      Becomes .replayHoldTimeout s (e.upLaunch n (fun v => { v with replay := false, ordDiv := true })).retest) ∧
    (∀ n, let b := fld (s.pkgReg 0x0010) 11 0
      ∃ t, Becomes (.powerAverageCheck n) s t ∧ t = { s with powerHold := t.powerHold } ∧ (b < n → t.powerHold = true) ∧
        (n < b → t.powerHold = false) ∧ (n = b → t.powerHold = s.powerHold)) ∧
    (∀ on, ∃ t, Becomes (.thermalThrottling on) s t ∧ t = { s with throttled := t.throttled } ∧
      (clusterOf c ∈ t.throttled ↔ on = true) ∧ ∀ d, d ≠ clusterOf c → (d ∈ t.throttled ↔ d ∈ s.throttled)) ∧
    (∀ v, ∃ t, Becomes (.torusMessageDeliver v) s t ∧
      (t.flits.get (bits v 9 0 * 2 ^ 18 + bits v 19 10 * 2 ^ 8 + bits v 39 32) []).find (bits v 47 40) = some (bits v 255 48))

/-! ## Errors, maintenance, debugging and host writes -/

/-- Errors, scrubbing, refresh, mapping out and start-up (10 R329–R332; 13 R380–R394). What is found, and what a start finds,
are inputs in a layout of the model (log 18, 37); the first refresh credit is its choice (log 31). Which passing units leave a
record, and the lanes of some links, are the model's (log 130). -/
def Obligations.MaintenanceEvents : Prop :=
  ∀ (s : State) (v : Nat) (w : Word),
    let c := s.cur.core
    let n := s.cur.unit
    let die := dieOf c
    (let arg := s.cur.arg
     let pa := bits arg 55 4
     let r : ErrRec := { die := die, cause := 0xD0, outcome := 3, pkgu := true, loc := pa }
     fld (s.dieReg die 0x038) 0 0 = 1 →
      (bits arg 1 0 = 0 → Becomes .scrubPass s s) ∧
      (bits arg 1 0 = 1 → Becomes .scrubPass s ((s.schedScrub (die * 256 + n) pa (bits arg 3 2)).logErr r)) ∧
      (bits arg 1 0 = 2 → Becomes .scrubPass s ((s.poisonGranule pa (bits arg 3 2)).logErr { r with cause := 0xD2 }))) ∧
    (∀ i, s.scrubs.findIdx? (fun e => e.chan == die * 256 + n) = some i →
      Becomes .scrubWrite s { s with scrubs := s.scrubs.eraseIdx i }) ∧
    (∃ t, Becomes .refreshInterval s t ∧ t.credit die n = s.creditNext die n s.cur.arg ∧ t = { s with credits := t.credits }) ∧
    (∃ t, Becomes .heartbeat s t ∧ t.lastBeat die n = s.cycle ∧ t = { s with beats := t.beats }) ∧
    (s.ctlRefresh die n = false → s.lastBeat die n + 5000 ≤ s.cycle → ∃ t, Becomes .refreshTakeover s t ∧
      t.ctlRefresh die n = true ∧ fld (t.dieReg die 0x040) 1 1 = 1) ∧
    (∃ t, Becomes (.errorDetect v) s t ∧ (errKey (errStruct v) c (errRow v) (errUnit v) (errCode v), s.cycle) ∈ t.errors ∧
      ((errStruct v ≠ 4 ∨ errRow v ≠ 0) → (errStruct v ≠ 6 ∨ errRow v ≠ 1) → t.tests.length = s.tests.length + 1) ∧
      (errStruct v = 4 → errRow v = 0 → errSeverity v = 2 →
        t.poisoned (errLoc v % 2 ^ 52) 1 = true)) ∧
    (∀ q, s.tests[n]? = some q →
      let e : State := { s with tests := s.tests.eraseIdx n }
      let hits := (s.errors.filter (fun e => e.1 == errKey q.st q.core q.row q.unit q.code && decide (e.2 ≤ q.err.cycle) &&
        decide (q.err.cycle ≤ e.2 + 2 ^ 30))).length
      (bit v 0 = false → hits < 3 →
        Becomes (.selfTestEnd v) s (e.logWith { q.err with outcome := 1, mapped := false } q.seq)) ∧
      (bit v 0 = true ∨ 3 ≤ hits → let k := errCause q.st 3
        let b := (e.logWith { q.err with outcome := 2, mapped := q.maps } q.seq).logErr { q.err with cause := k, outcome := 2, mapped := q.maps }
        let ended := fun (t : State) (h : Nat × Nat) => t.endInstance h.1 h.2 (endingOf k (BitVec.ofNat 64 q.err.loc))
        (q.st ≠ 7 → q.launch = none → Becomes (.selfTestEnd v) s (b.mapUnit q)) ∧
        (∀ l, q.st ≠ 7 → q.launch = some l → Becomes (.selfTestEnd v) s ((ended b (q.core, l)).mapUnit q)) ∧
        (q.st = 7 → Becomes (.selfTestEnd v) s ((q.held.foldl ended b).mapUnit q)))) ∧
    (s.hostQ = [] → (∀ j, j < 64 → w.getLsbD j = true → let k := s.core (64 * (n % 64) + j)
        k.slot0.st = .empty ∧ k.slot1.st = .empty ∧ ∀ im ∈ s.images, im.core ≠ 64 * (n % 64) + j) →
      ∃ t, Becomes (.coreMapWrite w) s t ∧ t.mem = s.mem ∧
        ∀ j, j < 64 → t.usable (64 * (n % 64) + j) = (s.usable (64 * (n % 64) + j) && !w.getLsbD j)) ∧
    (s.hostQ = [] → ∃ t, Becomes (.bootCtlClr w) s t ∧ (w.getLsbD 0 = true → t.boot = []) ∧ (w.getLsbD 0 = false → t = s)) ∧
    (s.boot = [] → ∃ t, Becomes (.packageReset 0) s t ∧
      t = { State.reset with cur := s.cur, agenda := s.agenda, tick := s.tick + 1, outbox := s.outbox, mem := t.mem, boot := t.boot } ∧
      ∀ b ∈ t.boot, fld b 25 24 = 0)

/-- Debug commands, samples, traces and writes by the host (13 R399–R403; 14 R426, R430–R432). The host's acts are inputs in a
layout of the model (log 1, 19); the record of a halted MT is its reading (log 28). Writes of the host take effect in order:
one with no earlier one pending at once (14 R431). -/
def Obligations.HostEvents : Prop :=
  ∀ (s : State) (v : Word) (a n u : Nat),
    let c := s.cur.core
    let x := s.cx c
    (c < 4096 → s.hostQ = [] → s.isAbsent (dieOf c) 4095 = false → ∀ i, i < 16 →
      (v.getLsbD i = true → (s.mtAt c i).thr.phase = .halted →
        let m := (s.mtAt c i).resume false
        (∃ t, Becomes (.dbgCmdResume v) s t ∧ t.mtAt c i = { m with thr := { m.thr with stepOne := false } }) ∧
        (∃ t, Becomes (.dbgCmdStep v) s t ∧ t.mtAt c i = { m with thr := { m.thr with stepOne := true } })) ∧
      (v.getLsbD i = true → (s.mtAt c i).thr.phase = .body → (s.mtAt c i).thr.feWaits = false →
        ∃ t, Becomes (.dbgCmdHalt v) s t ∧ (t.mtAt c i).thr.phase = .halted ∧ (t.mtAt c i).cause = 0x1B ∧
          ∀ k, (t.mtAt c i).thr.getX k = (s.mtAt c i).thr.getX k) ∧
      (v.getLsbD i = false → ∃ t, Becomes (.dbgCmdHalt v) s t ∧ t.mtAt c i = s.mtAt c i)) ∧
    (c < 4096 → s.hostQ = [] → s.isAbsent (dieOf c) 4095 = false → v.getLsbD 16 = true → (s.core c).isRunning = true →
      ∃ t, Becomes (.dbgCmdHalt v) s t ∧ (t.cx c).async = x.async ++ [{ cause := 0x1B }]) ∧
    (let i := fld v 0 0
     let sl := (s.core c).slot i
     c < 4096 → s.hostQ = [] → s.isAbsent (dieOf c) 4095 = false →
     (v.getLsbD 1 = false → Becomes (.attn v) s s) ∧
     (v.getLsbD 1 = true → sl.st ≠ .empty → sl.ctx.launch ≠ none → ∃ t, Becomes (.attn v) s t ∧
       let z := (t.core c).slot i
       z.st = sl.st ∧ z.ctx.arch = sl.ctx.arch ∧ z.ctx.async = sl.ctx.async ++ [{ cause := 0x1D }])) ∧
    (let ctl := x.arch.dbg.get 0x330 0
     (s.core c).isRunning = true → fld ctl 0 0 = 1 → s.feature 15 = true → x.pcsAt + fld ctl 31 8 ≤ s.cycle →
      ∃ t r, Becomes .pcSample s t ∧ (t.cx c).chunk.traces = x.chunk.traces ++ [r] ∧ r.pcs = true ∧
        fld r.w0 55 0 = fld (x.arch.thr x.pcsThr).blk 55 0 ∧ (t.cx c).pcsThr = (x.pcsThr + 1) % 17 ∧ (t.cx c).pcsAt = s.cycle) ∧
    (∀ r, (s.core c).traceOut.find? (fun r => !r.pcs) = some r →
      Becomes .traceFull s ((s.upCore c (fun k => { k with traceOut := k.traceOut.erase r })).sinkFull c r)) ∧
    (s.hostQ = [] → 0 < n → a % 64 + n ≤ 64 → a + n ≤ 2 ^ 52 → s.synthBusy none a = false → s.poison = [] → s.absent = [] →
      ∃ t, Becomes (.hostWrite a n u) s t ∧ t.hostQ = [] ∧ t.memNat a n = u % 2 ^ (8 * n) ∧
        ∀ b, (b < a ∨ a + n ≤ b) → t.mem.read b = s.mem.read b) ∧
    (s.hostQ = [] → Becomes (.registerWrite a v) s (s.regWrite a v)) ∧
    (∀ i, i < 256 → (s.pkgWrite (0x1000 + 8 * i) v).pkgReg (0x1000 + 8 * i) = v) ∧
    Becomes (.dynamicCapacityEvent u) s { s with outbox := s.outbox ++ [.capacity u] }

/-! ## The scale-up fabric and the network engines -/

/-- Peer devices (14 R406–R421): loads and bundles that arrive, leases and grants, answers and time limits, and full/empty
operations at their controllers. The layout of messages, the count of staged requests and the beginning of a lease's STATE are
the model's (log 19, 43, 59). -/
def Obligations.FabricEvents : Prop :=
  ∀ (s : State) (v : Nat) (w : Word),
    let c := s.cur.core
    let i := s.cur.unit
    (let dev := bits v 9 0
     let va := bits v 101 46
     let e := s.seeAccess (bit v 10) (bits v 45 30) va (bits v 29 14)
     let ans := e.peerRefuse (bits v 13 11) (bit v 10) dev (bits v 45 30) va
     (∀ r, ans = some r → Becomes (.peerLoad v) s { e with outbox := e.outbox ++ [.loadAnswer dev va (some (accessCause 0 r)) 0] }) ∧
     (∀ q pa, ans = none → e.peerXlat (bits v 45 30) va 0 (List.range (bits v 108 102)) = .at q pa → Becomes (.peerLoad v) s
       { q with outbox := q.outbox ++ [.loadAnswer dev va none (q.memNat pa (bits v 108 102))] })) ∧
    (let dev := bits v 10 1
     let r := stagedReq v
     (bit v 0 = false → Becomes (.bundleRequest v) s s.applyAllBundles) ∧
     (bit v 0 = true → (bits v 22 11 + 4096 - s.bseqIn.get dev 0) % 4096 < 2048 →
       (stagingLines ≤ s.stagedAt (bits r.va 53 52) →
         Becomes (.bundleRequest v) s { s with outbox := s.outbox ++ [.bundleRetry dev (bits v 22 11) (bits v 38 23)] }) ∧
       (s.stagedAt (bits r.va 53 52) < stagingLines → let e := s.seeAccess r.shard r.asid r.va r.version
         Becomes (.bundleRequest v) s ((e.stage dev (bits v 22 11) (bits v 38 23) r (if bit v 39 then some (bits v 91 76) else none)
           ((s.peerRefuse (bits v 43 41) r.shard dev r.asid r.va).map (accessCause (if r.atomic.isSome then 2 else 1)))).applyBundles
           dev (e.staged.length + 2))))) ∧
    (∀ d b, bit v 22 = false → s.sentBundle (bits v 9 0) (bits v 21 10) = some (d, b) → b.ops.filterMap (·.atomic) = [] →
      Becomes (.bundleAck v) s (s.closeBundle d b)) ∧
    (bits v 1 0 = 0 → Becomes (.errorResponse v) s (s.loadRefused (BitVec.ofNat 8 (bits v 9 2)))) ∧
    (∀ d b, bits v 1 0 = 1 → s.sentBundle (bits v 19 10) (bits v 31 20) = some (d, b) → bits v 9 2 ≠ 0 →
      Becomes (.errorResponse v) s (s.failBundle d b (BitVec.ofNat 8 (bits v 9 2)))) ∧
    (∀ r m l b, s.thr.stall = some ⟨.peer r m, l, b⟩ →
      (b + 2 ^ 26 ≤ s.cycle → Becomes .linkRequestTimeout s ((s.dropPeer r.dev).waitFault 0x46 (BitVec.ofNat 64 r.va))) ∧
      (s.cycle < b + 2 ^ 26 → Becomes .linkRequestTimeout s s)) ∧
    (∀ b, s.staged[i]? = some b → b.ready = false → b.since + 2 ^ 26 ≤ s.cycle → Becomes .bundleStagingTimeout s
      ((((s.markStaged b (fun b => { b with refused := some 0xDA, count := some b.reqs.length })).logLink
        { die := 0, cause := 0xDA, pkgu := true })).applyBundles b.src (s.staged.length + 1))) ∧
    (let g := grBase (i % 64)
     let cfg := s.pkgReg g
     s.hostQ = [] → fld cfg 0 0 = 1 → fld cfg 3 2 = 0 → fld w 0 0 = 1 → fld w 1 1 = 1 → ∃ t, Becomes (.grantRevoke w) s t ∧
       fld (t.pkgReg g) 3 2 = 1 ∧ t.outbox = s.outbox ++ [.leaseNotice (fld w 13 4) (fld (s.pkgReg (g + 8)) 55 16)
         (fld (s.pkgReg (g + 16)) 47 16) (fld w 31 16) (fld w 63 32)]) ∧
    (let k := lsBase (i / 32 % 64)
     s.hostQ = [] → fld (s.pkgReg k) 0 0 = 0 → i % 32 = 0 → fld w 0 0 = 1 → ∃ t, Becomes (.leaseWrite w) s t ∧
       fld (t.pkgReg k) 2 0 = 1 ∧ fld (t.pkgReg k) 12 3 = fld w 12 3 ∧ fld (t.pkgReg k) 31 16 = fld w 31 16 ∧ t.cores = s.cores) ∧
    (∃ t, Becomes (.leaseNotice v) s t ∧ ∀ j, j < 64 → let k := lsBase j
      (fld (s.pkgReg k) 0 0 = 1 → fld (s.pkgReg k) 2 1 = 0 → fld (s.pkgReg k) 12 3 = bits v 9 0 → fld (s.pkgReg k) 31 16 = bits v 25 10 →
        bits v 65 26 ≤ fld (s.pkgReg (k + 8)) 55 16 → fld (s.pkgReg (k + 8)) 55 16 < bits v 65 26 + bits v 97 66 →
        fld (t.pkgReg k) 2 1 = 1 ∧ t.leaseDue.find j = some (s.cycle + bits v 129 98 * 2500))) ∧
    (let k := lsBase (i % 64)
     fld (s.pkgReg k) 0 0 = 1 → fld (s.pkgReg k) 2 1 = 1 → s.leaseLeft (i % 64) = 0 → ∃ t, Becomes .leaseNoticeExpiry s t ∧
       fld (t.pkgReg k) 2 1 = 2) ∧
    (∃ t, Becomes (.leaseClose v) s t ∧ ∀ j, j < 64 → let k := grBase j
      (fld (s.pkgReg k) 0 0 = 1 → fld (s.pkgReg k) 13 4 = bits v 9 0 → fld (s.pkgReg k) 31 16 = bits v 25 10 →
        fld (s.pkgReg (k + 8)) 55 16 ≤ bits v 65 26 →
        bits v 65 26 < fld (s.pkgReg (k + 8)) 55 16 + fld (s.pkgReg (k + 16)) 47 16 → fld (t.pkgReg k) 0 0 = 0) ∧
      (fld (s.pkgReg k) 13 4 ≠ bits v 9 0 → t.pkgReg k = s.pkgReg k)) ∧
    (∀ r, s.cur.arg = 0 → s.feList = [] → (s.core c).feOut[i]? = some r → r.dest = none → r.due ≤ s.cycle →
      let drop := fun (q : State) => q.upCore c (fun k => { k with feOut := k.feOut.filter (fun e => !e.same r) })
      (∀ q, s.feArrive r = .taken q →
        (r.refused = none → Becomes .feOperation s (drop q).opsClosed) ∧ (r.refused ≠ none → Becomes .feRetry s (drop q).opsClosed)) ∧
      (s.feArrive r = .refused → r.refused ≠ none → Becomes .feRetry s
        (s.upCore c (fun k => { k with feOut := k.feOut.set i (r.refuse s.cycle) })).opsClosed)) ∧
    (∀ r b, (s.core c).feOut[i]? = some r → r.refused = some b → b + 2 ^ 24 ≤ s.cycle → Becomes .feRetryTimeout s
      ((s.upCore c (fun k => { k with feOut := k.feOut.eraseIdx i })).feFail r 9).opsClosed) ∧
    (let mine := fun (r : FeReq) => r.peer == some (bits s.cur.arg 9 0) && r.id == s.cur.arg / 1024
     ∀ r, s.cur.arg ≠ 0 → s.feList.find? mine = some r →
      Becomes .feWithdraw s (({ s with feList := s.feList.filter (fun e => !mine e) } : State).feBack r none)) ∧
    (∀ (f : Bool) (m x : Word), feAct false 0 m f x = some (m, none, f) ∧
      feAct false 1 m f x = (if f then some (m, none, true) else none) ∧ feAct false 2 m f x = (if f then some (m, none, false) else none) ∧
      feAct true 0 m f x = some (0, some x, f) ∧ feAct true 3 m f x = (if f then none else some (0, some x, true)) ∧
      feAct true 4 m f x = some (0, some x, true))

/-- Network engines (15 R435, R441, R443–R450): sending, retransmission and its limits, arrival and acknowledgements. The
layout of packets in an event's number is the model's (log 19). -/
def Obligations.NetworkEvents : Prop :=
  ∀ (s : State) (v : Nat),
    let die := dieOf s.cur.core
    (∀ m, s.netMsgs.find? (fun m => m.die == die && !m.taken) = none → s.nextMsg die = some m → s.engineTest 3 s.cur.core 0 = false →
      (s.neSends die = false → Becomes .netRequestStart s (s.failSender m.core m.launch 0x9D 0)) ∧
      (s.neSends die = true → ∀ q bs line,
        s.netRead m (wrLva m.w + m.sent) (min 2048 (wrLen m.w - m.sent)) 40 = .ok (q, bs, line) →
        let k := s.openConn m.die (wrMode m.w) (wrPeer m.w)
        ∃ t, Becomes .netRequestStart s t ∧ t.mem = q.mem ∧ t.outbox = q.outbox ++
          [.net k.die (netPort (q.nePorts m.die) k.mode k.peer k.next) k.peer (if k.acked then none else some k.start)
            { mode := k.mode, psn := k.next, msg := m.no, op := wrOp m.w, rkey := wrKey m.w, len := wrLen m.w
              arg := BitVec.ofNat 64 (wrArg m.w), off := m.sent, data := ofBytes bs }])) ∧
    (∀ q, let e := s.netHeldAll die
      e.netRecvs.find? (fun q => q.die == die && decide (0 < q.due) && decide (q.since + 1000 ≤ e.cycle)) = some q →
      ∃ t, Becomes .netAckTimer s t ∧ ∃ map, t.outbox = e.outbox ++ [.netAck q.die q.mode q.src q.cack map]) ∧
    (∀ q p, q.due < 8 → (s.netTake q p).2.due < 8) ∧
    (∀ q e, s.netConns.findSome? (fun q => if q.die != die then none
        else (q.fly.find? (fun e => decide (e.last + 2 ^ fld (s.dieReg die 0x080) 12 8 ≤ s.cycle))).map (fun e => (q, e))) = some (q, e) →
      (s.neSends q.die = false → Becomes .netRetxTimeout s (s.failConn q 0x9D)) ∧
      (∀ m, s.neSends q.die = true → e.rnr = false → fld (s.dieReg q.die 0x080) 7 4 ≤ e.tx → s.msgOf e.pkt = some m →
        Becomes .netRetxTimeout s (s.failSender m.core m.launch 0x9E 0)) ∧
      (s.neSends q.die = true → e.tx < fld (s.dieReg q.die 0x080) 7 4 → ∃ t, Becomes .netRetxTimeout s t ∧ t.mem = s.mem ∧
        t.outbox = s.outbox ++ [.net q.die (netRePort (s.nePorts q.die) q.mode q.peer e.port) q.peer
          (if q.acked then none else some q.start) e.pkt])) ∧
    (∀ q, s.netConns.find? (fun q => q.die == die && !q.fly.isEmpty && (decide (q.heard + 2 ^ 26 ≤ s.cycle) || !s.neSends die)) =
      some q → Becomes .netConnectionTimeout s (s.failConn q 0x9D)) ∧
    (∀ q, s.netConns.find? (fun q => q.die == die && (match q.rnrSince with | some t => decide (t + 2 ^ 26 ≤ s.cycle) | none => false)) =
      some q → Becomes .rnrTimeout s (s.failConn q 0x9F)) ∧
    (∀ src q, s.netSource die s.cur.arg = some src → s.netConn die (bits s.cur.arg 165 165) src = some q →
      let k := { q with heard := s.cycle, rnrSince := some (q.rnrSince.getD s.cycle) }
      Becomes .netRnr s (s.putConn (k.upFly (bits s.cur.arg 198 167) (fun e => { e with last := s.cycle, rnr := true })))) ∧
    (∀ src, s.netSource die v = some src →
      (∀ q, s.netRecv die (bits v 165 165) src = some q → q.start = bits v 198 167 →
        (psnAhead q.cack (bits v 230 199) = none → Becomes (.netPacketArrive v) s (s.sendAck q)) ∧
        (∀ d, psnAhead q.cack (bits v 230 199) = some d → 64 < d → q.placed.contains (bits v 230 199) = false →
          Becomes (.netPacketArrive v) s (s.putRecv q)) ∧
        (∀ d, psnAhead q.cack (bits v 230 199) = some d → d ≤ 64 → bits v 165 165 = 0 → q.placed.contains (bits v 230 199) = false →
          let r := s.netTake q (netPkt v)
          let k := r.1.netHeld r.2 [bits v 230 199] 65
          (q.held.any (fun e => e.psn == bits v 230 199) = true → Becomes (.netPacketArrive v) s (s.putRecv q)) ∧
          (q.held.any (fun e => e.psn == bits v 230 199) = false → Becomes (.netPacketArrive v) s (k.1.putRecv k.2)))) ∧
      (∀ q, s.netConn die (bits v 165 165) src = some q →
        (∀ e m, bit v 166 = true → q.fly.find? (fun e => e.pkt.psn == bits v 198 167) = some e → s.msgOf e.pkt = some m →
          Becomes (.netAck v) s ((s.putConn { q with heard := s.cycle }).failSender m.core m.launch 0x9F 0)) ∧
        (bit v 166 = false → (∀ e ∈ q.fly, psnPlaced (bits v 198 167) (bits v 262 199) e.pkt.psn = false) → bits v 262 199 = 0 →
          Becomes (.netAck v) s (s.putConn { q with acked := true, heard := s.cycle, rnrSince := none })) ∧
        (∀ e m, bit v 166 = false → q.fly = [e] → psnPlaced (bits v 198 167) (bits v 262 199) e.pkt.psn = true → s.msgOf e.pkt = some m →
          m.unacked = 1 → wrLen m.w ≤ m.sent →
          let k := s.putConn { q with acked := true, heard := s.cycle, rnrSince := none, fly := [] }
          Becomes (.netAck v) s (({ k with netMsgs := k.netMsgs.filter (fun e => e.no != m.no) } : State).netDec m.core m.launch (wrCtr m.w) 1))))
end

