-- ==== Sys2Proof/Laws/FMap.lean ====
section
/-! SUPPORT. Sparse tables: a read after a write, and that every operation keeps the canonical form. -/
namespace Sys2Proof.Machine

theorem FMap.find_put {α : Type} (m : FMap α) (k k' : Nat) (v : α) :
    (m.put k v).find k' = if k' = k then some v else m.find k' := by
  induction m with
  | nil => simp [FMap.put, FMap.find]
  | cons e r ih =>
    simp only [FMap.put]
    split
    · simp [FMap.find]
    · split
      · next h => subst h; simp only [FMap.find]; split <;> rfl
      · simp only [FMap.find, ih]; split <;> grind

@[simp] theorem FMap.find_put_self {α : Type} (m : FMap α) (k : Nat) (v : α) : (m.put k v).find k = some v := by
  simp [FMap.find_put]

theorem FMap.find_del {α : Type} (m : FMap α) (k k' : Nat) :
    (m.del k).find k' = if k' = k then none else m.find k' := by
  induction m with
  | nil => simp [FMap.del, FMap.find]
  | cons e r ih =>
    simp only [FMap.del] at ih
    simp only [FMap.del, List.filter_cons, FMap.find]
    split <;> grind [FMap.find]

@[simp] theorem FMap.get_put_self {α : Type} (m : FMap α) (k : Nat) (v d : α) : (m.put k v).get k d = v := by
  simp [FMap.get]

theorem FMap.get_put {α : Type} (m : FMap α) (k k' : Nat) (v d : α) :
    (m.put k v).get k' d = if k' = k then v else m.get k' d := by
  simp only [FMap.get, FMap.find_put]; split <;> rfl

theorem FMap.get_set {α : Type} [DecidableEq α] (m : FMap α) (k k' : Nat) (v d : α) :
    (m.set k v d).get k' d = if k' = k then v else m.get k' d := by
  unfold FMap.set
  split
  · next h => subst h; simp only [FMap.get, FMap.find_del]; split <;> rfl
  · exact FMap.get_put ..

@[simp] theorem FMap.get_set_self {α : Type} [DecidableEq α] (m : FMap α) (k : Nat) (v d : α) :
    (m.set k v d).get k d = v := by
  simp [FMap.get_set]

theorem FMap.get_set_other {α : Type} [DecidableEq α] (m : FMap α) (k k' : Nat) (v d d' : α) (h : k' ≠ k) :
    (m.set k v d).get k' d' = m.get k' d' := by
  unfold FMap.set; split <;> simp [FMap.get, FMap.find_del, FMap.find_put, h]

theorem FMap.get_upd {α : Type} (m : FMap α) (k k' : Nat) (d : α) (f : α → α) :
    (m.upd k d f).get k' d = if k' = k then f (m.get k d) else m.get k' d := FMap.get_put ..

/-- The canonical form, as an order of keys. -/
theorem FMap.wf_iff {α : Type} (m : FMap α) : m.wf = true ↔ (m.map Prod.fst).Pairwise (· < ·) := by
  induction m with
  | nil => simp [FMap.wf]
  | cons e r ih =>
    cases r with
    | nil => simp [FMap.wf]
    | cons e' r =>
      simp only [FMap.wf, Bool.and_eq_true, decide_eq_true_eq, ih, List.map_cons, List.pairwise_cons,
        List.forall_mem_cons]
      constructor
      · rintro ⟨h, h', h''⟩; exact ⟨⟨h, fun k hk => Nat.lt_trans h (h' k hk)⟩, h', h''⟩
      · rintro ⟨⟨h, -⟩, h', h''⟩; exact ⟨h, h', h''⟩

theorem FMap.wf_del {α : Type} (m : FMap α) (k : Nat) (h : m.wf = true) : (m.del k).wf = true := by
  rw [FMap.wf_iff] at *
  exact h.sublist (List.filter_sublist.map _)

theorem FMap.mem_put {α : Type} (m : FMap α) (k : Nat) (v : α) (e : Nat × α) (h : e ∈ m.put k v) :
    e = (k, v) ∨ e ∈ m := by
  induction m with
  | nil => simpa [FMap.put] using h
  | cons e' r ih => simp only [FMap.put] at h; grind

theorem FMap.wf_put {α : Type} (m : FMap α) (k : Nat) (v : α) (h : m.wf = true) : (m.put k v).wf = true := by
  rw [FMap.wf_iff] at *
  induction m with
  | nil => simp [FMap.put]
  | cons e r ih =>
    simp only [List.map_cons, List.pairwise_cons, List.mem_map] at h
    simp only [FMap.put]
    split
    · next hk =>
      simp only [List.map_cons, List.pairwise_cons, List.mem_cons, List.mem_map]
      exact ⟨fun b hb => hb.elim (fun e => e ▸ hk) (fun hb => Nat.lt_trans hk (h.1 b hb)), h⟩
    · split
      · next hk => simp only [List.map_cons, List.pairwise_cons, List.mem_map]; exact hk ▸ h
      · simp only [List.map_cons, List.pairwise_cons, List.mem_map]
        refine ⟨fun a ha => ?_, ih h.2⟩
        obtain ⟨x, hx, rfl⟩ := ha
        rcases FMap.mem_put _ _ _ _ hx with rfl | hx
        · simp only; omega
        · exact h.1 _ ⟨x, hx, rfl⟩

theorem FMap.wf_set {α : Type} [DecidableEq α] (m : FMap α) (k : Nat) (v d : α) (h : m.wf = true) :
    (m.set k v d).wf = true := by
  unfold FMap.set; split
  · exact FMap.wf_del _ _ h
  · exact FMap.wf_put _ _ _ h

end Sys2Proof.Machine
end

