-- ==== Sys2Proof/Laws/Memory.lean ====
section
/-! SUPPORT. Byte memories: a read after a write, and that every operation keeps the canonical form. -/
namespace Sys2Proof.Machine

theorem Memory.read_list (m : Memory) (a b : Nat) (v : Byte) :
    (m.list a v).read b = if b = a then v else m.read b := by
  induction m with
  | nil => simp [Memory.list, Memory.read]
  | cons c r ih =>
    simp only [Memory.list]
    split
    · simp [Memory.read]
    · split
      · next h => subst h; simp only [Memory.read]; split <;> rfl
      · simp only [Memory.read, ih]; split <;> grind

theorem Memory.read_unlist (m : Memory) (a b : Nat) :
    (m.unlist a).read b = if b = a then Memory.unlisted else m.read b := by
  induction m with
  | nil => simp [Memory.unlist, Memory.read]
  | cons c r ih =>
    simp only [Memory.unlist] at ih
    simp only [Memory.unlist, List.filter_cons, Memory.read]
    split <;> grind [Memory.read]

/-- A byte reads as it was last written, and a write leaves every other byte alone. -/
theorem Memory.read_write (m : Memory) (a b : Nat) (v : Byte) :
    (m.write a v).read b = if b = a then v else m.read b := by
  unfold Memory.write
  split
  · next h => subst h; exact Memory.read_unlist ..
  · exact Memory.read_list ..

@[simp] theorem Memory.read_write_self (m : Memory) (a : Nat) (v : Byte) : (m.write a v).read a = v := by
  simp [Memory.read_write]

/-- A byte outside the written ones stays. -/
theorem Memory.read_writeN_other (m : Memory) (a b : Nat) (bs : List Byte) (h : b < a ∨ a + bs.length ≤ b) :
    (m.writeN a bs).read b = m.read b := by
  induction bs generalizing m a with
  | nil => rfl
  | cons v r ih =>
    simp only [List.length_cons] at h
    rw [Memory.writeN, ih _ _ (by omega), Memory.read_write, if_neg (by omega)]

/-- A written byte reads as it was written. -/
theorem Memory.read_writeN (m : Memory) (a i : Nat) (bs : List Byte) (h : i < bs.length) :
    (m.writeN a bs).read (a + i) = bs[i] := by
  induction bs generalizing m a i with
  | nil => simp at h
  | cons v r ih =>
    rw [Memory.writeN]
    cases i with
    | zero => rw [Memory.read_writeN_other _ _ _ _ (by omega)]; simp
    | succ i =>
      rw [show a + (i + 1) = a + 1 + i by omega, ih _ _ _ (by simpa using h)]; simp

theorem Memory.readN_length (m : Memory) (a n : Nat) : (m.readN a n).length = n := by
  induction n generalizing a with
  | zero => rfl
  | succ n ih => simp [Memory.readN, ih]

/-- The canonical form, as an order of addresses and a test of every byte. -/
theorem Memory.wf_iff (m : Memory) :
    m.wf = true ↔ (m.map Prod.fst).Pairwise (· < ·) ∧ ∀ c ∈ m, c.2 ≠ Memory.unlisted := by
  induction m with
  | nil => simp [Memory.wf]
  | cons e r ih =>
    cases r with
    | nil => simp [Memory.wf]
    | cons e' r =>
      simp only [Memory.wf, Bool.and_eq_true, decide_eq_true_eq, bne_iff_ne, ih, List.map_cons, List.pairwise_cons,
        List.forall_mem_cons]
      constructor
      · rintro ⟨⟨hu, h⟩, ⟨h', h''⟩, hr⟩; exact ⟨⟨⟨h, fun k hk => Nat.lt_trans h (h' k hk)⟩, h', h''⟩, hu, hr⟩
      · rintro ⟨⟨⟨h, -⟩, h', h''⟩, hu, hr⟩; exact ⟨⟨hu, h⟩, ⟨h', h''⟩, hr⟩

/-- Leaving cells out keeps the form. -/
theorem Memory.wf_filter (m : Memory) (p : Host.Cell → Bool) (h : m.wf = true) : Memory.wf (m.filter p) = true := by
  rw [Memory.wf_iff] at *
  exact ⟨h.1.sublist (List.filter_sublist.map _), fun c hc => h.2 c ((List.mem_filter.1 hc).1)⟩

theorem Memory.wf_unlist (m : Memory) (a : Nat) (h : m.wf = true) : (m.unlist a).wf = true := Memory.wf_filter _ _ h

theorem Memory.wf_clear (m : Memory) (a n : Nat) (h : m.wf = true) : (m.clear a n).wf = true := Memory.wf_filter _ _ h

theorem Memory.mem_list (m : Memory) (a : Nat) (v : Byte) (c : Host.Cell) (h : c ∈ m.list a v) : c = (a, v) ∨ c ∈ m := by
  induction m with
  | nil => simpa [Memory.list] using h
  | cons c' r ih => simp only [Memory.list] at h; grind

theorem Memory.wf_list (m : Memory) (a : Nat) (v : Byte) (hv : v ≠ Memory.unlisted) (h : m.wf = true) :
    (m.list a v).wf = true := by
  rw [Memory.wf_iff] at *
  refine ⟨?_, fun c hc => (Memory.mem_list _ _ _ _ hc).elim (fun e => e ▸ hv) (h.2 c)⟩
  replace h := h.1
  induction m with
  | nil => simp [Memory.list]
  | cons e r ih =>
    simp only [List.map_cons, List.pairwise_cons, List.mem_map] at h
    simp only [Memory.list]
    split
    · next hk =>
      simp only [List.map_cons, List.pairwise_cons, List.mem_cons, List.mem_map]
      exact ⟨fun b hb => hb.elim (fun e => e ▸ hk) (fun hb => Nat.lt_trans hk (h.1 b hb)), h⟩
    · split
      · next hk => simp only [List.map_cons, List.pairwise_cons, List.mem_map]; exact hk ▸ h
      · simp only [List.map_cons, List.pairwise_cons, List.mem_map]
        refine ⟨fun b hb => ?_, ih h.2⟩
        obtain ⟨x, hx, rfl⟩ := hb
        rcases Memory.mem_list _ _ _ _ hx with rfl | hx
        · simp only; omega
        · exact h.1 _ ⟨x, hx, rfl⟩

theorem Memory.wf_write (m : Memory) (a : Nat) (v : Byte) (h : m.wf = true) : (m.write a v).wf = true := by
  unfold Memory.write; split
  · exact Memory.wf_unlist _ _ h
  · next hv => exact Memory.wf_list _ _ _ hv h

/-- A fold of operations that keep the form keeps it. -/
theorem Memory.wf_foldl {α : Type} (l : List α) (f : Memory → α → Memory) (m : Memory)
    (hf : ∀ m x, Memory.wf m = true → (f m x).wf = true) (h : m.wf = true) : (l.foldl f m).wf = true := by
  induction l generalizing m with
  | nil => exact h
  | cons x r ih => exact ih _ (hf _ _ h)

theorem Memory.wf_writeN (m : Memory) (a : Nat) (bs : List Byte) (h : m.wf = true) : (m.writeN a bs).wf = true := by
  induction bs generalizing m a with
  | nil => exact h
  | cons b r ih => exact ih _ _ (Memory.wf_write _ _ _ h)

theorem Memory.wf_writeNat (m : Memory) (a n v : Nat) (h : m.wf = true) : (m.writeNat a n v).wf = true :=
  Memory.wf_writeN _ _ _ h

theorem Memory.wf_paste (m : Memory) (a n : Nat) (p : Memory) (h : m.wf = true) : (m.paste a n p).wf = true :=
  Memory.wf_foldl _ _ _ (fun _ _ h => Memory.wf_write _ _ _ h) (Memory.wf_clear _ _ _ h)

theorem Memory.wf_fill (m : Memory) (a n : Nat) (f : Nat → Byte) (h : m.wf = true) : (m.fill a n f).wf = true :=
  Memory.wf_foldl _ _ _ (fun _ _ h => Memory.wf_write _ _ _ h) h

theorem Memory.wf_slice (m : Memory) (a n : Nat) (h : m.wf = true) : (m.slice a n).wf = true := by
  have h' := Memory.wf_filter m (fun c => decide (a ≤ c.1) && decide (c.1 < a + n)) h
  unfold Memory.slice
  have hb : ∀ c ∈ m.filter (fun c => decide (a ≤ c.1) && decide (c.1 < a + n)), a ≤ c.1 := fun c hc => by
    have := (List.mem_filter.1 hc).2; grind
  generalize m.filter (fun c => decide (a ≤ c.1) && decide (c.1 < a + n)) = l at h' hb
  rw [Memory.wf_iff] at *
  refine ⟨?_, fun c hc => ?_⟩
  · rw [List.map_map, List.pairwise_map]
    have h2 := List.pairwise_map.1 h'.1
    exact h2.imp_of_mem fun hx hy hxy => by have := hb _ hx; simp only [Function.comp]; omega
  · obtain ⟨x, hx, rfl⟩ := List.mem_map.1 hc
    exact h'.2 x hx

end Sys2Proof.Machine
end

