-- ==== Sys2Proof/Laws/State.lean ====
section
/-! SUPPORT. What the updates of the state leave alone, one lemma per field and update, and what they set: the accessors of
cores, contexts, threads and registers read back what was written. -/
namespace Sys2Proof.Machine

variable (s : State)

/-! ## `setCore` -/

@[simp] theorem State.setCore_cur (c : Nat) (k : Core) : (s.setCore c k).cur = s.cur := rfl
@[simp] theorem State.setCore_agenda (c : Nat) (k : Core) : (s.setCore c k).agenda = s.agenda := rfl
@[simp] theorem State.setCore_tick (c : Nat) (k : Core) : (s.setCore c k).tick = s.tick := rfl
@[simp] theorem State.setCore_cycle (c : Nat) (k : Core) : (s.setCore c k).cycle = s.cycle := rfl
@[simp] theorem State.setCore_mem (c : Nat) (k : Core) : (s.setCore c k).mem = s.mem := rfl
@[simp] theorem State.setCore_vault (c : Nat) (k : Core) : (s.setCore c k).vault = s.vault := rfl
@[simp] theorem State.setCore_vtag (c : Nat) (k : Core) : (s.setCore c k).vtag = s.vtag := rfl
@[simp] theorem State.setCore_acc (c : Nat) (k : Core) : (s.setCore c k).acc = s.acc := rfl
@[simp] theorem State.setCore_tlb (c : Nat) (k : Core) : (s.setCore c k).tlb = s.tlb := rfl
@[simp] theorem State.setCore_presence (c : Nat) (k : Core) : (s.setCore c k).presence = s.presence := rfl
@[simp] theorem State.setCore_clock (c : Nat) (k : Core) : (s.setCore c k).clock = s.clock := rfl
@[simp] theorem State.setCore_arrivals (c : Nat) (k : Core) : (s.setCore c k).arrivals = s.arrivals := rfl
@[simp] theorem State.setCore_released (c : Nat) (k : Core) : (s.setCore c k).released = s.released := rfl
@[simp] theorem State.setCore_rsvHolder (c : Nat) (k : Core) : (s.setCore c k).rsvHolder = s.rsvHolder := rfl
@[simp] theorem State.setCore_rsvQueue (c : Nat) (k : Core) : (s.setCore c k).rsvQueue = s.rsvQueue := rfl
@[simp] theorem State.setCore_regs (c : Nat) (k : Core) : (s.setCore c k).regs = s.regs := rfl
@[simp] theorem State.setCore_images (c : Nat) (k : Core) : (s.setCore c k).images = s.images := rfl
@[simp] theorem State.setCore_objs (c : Nat) (k : Core) : (s.setCore c k).objs = s.objs := rfl
@[simp] theorem State.setCore_poison (c : Nat) (k : Core) : (s.setCore c k).poison = s.poison := rfl
@[simp] theorem State.setCore_grans (c : Nat) (k : Core) : (s.setCore c k).grans = s.grans := rfl
@[simp] theorem State.setCore_scrubs (c : Nat) (k : Core) : (s.setCore c k).scrubs = s.scrubs := rfl
@[simp] theorem State.setCore_gathers (c : Nat) (k : Core) : (s.setCore c k).gathers = s.gathers := rfl
@[simp] theorem State.setCore_queues (c : Nat) (k : Core) : (s.setCore c k).queues = s.queues := rfl
@[simp] theorem State.setCore_served (c : Nat) (k : Core) : (s.setCore c k).served = s.served := rfl
@[simp] theorem State.setCore_powerHold (c : Nat) (k : Core) : (s.setCore c k).powerHold = s.powerHold := rfl
@[simp] theorem State.setCore_almRec (c : Nat) (k : Core) : (s.setCore c k).almRec = s.almRec := rfl
@[simp] theorem State.setCore_almBind (c : Nat) (k : Core) : (s.setCore c k).almBind = s.almBind := rfl
@[simp] theorem State.setCore_almRecPos (c : Nat) (k : Core) : (s.setCore c k).almRecPos = s.almRecPos := rfl
@[simp] theorem State.setCore_almBindPos (c : Nat) (k : Core) : (s.setCore c k).almBindPos = s.almBindPos := rfl
@[simp] theorem State.setCore_throttled (c : Nat) (k : Core) : (s.setCore c k).throttled = s.throttled := rfl
@[simp] theorem State.setCore_flits (c : Nat) (k : Core) : (s.setCore c k).flits = s.flits := rfl
@[simp] theorem State.setCore_launches (c : Nat) (k : Core) : (s.setCore c k).launches = s.launches := rfl
@[simp] theorem State.setCore_nextLaunch (c : Nat) (k : Core) : (s.setCore c k).nextLaunch = s.nextLaunch := rfl
@[simp] theorem State.setCore_bseq (c : Nat) (k : Core) : (s.setCore c k).bseq = s.bseq := rfl
@[simp] theorem State.setCore_outbox (c : Nat) (k : Core) : (s.setCore c k).outbox = s.outbox := rfl
@[simp] theorem State.setCore_doms (c : Nat) (k : Core) : (s.setCore c k).doms = s.doms := rfl
@[simp] theorem State.setCore_posts (c : Nat) (k : Core) : (s.setCore c k).posts = s.posts := rfl
@[simp] theorem State.setCore_staged (c : Nat) (k : Core) : (s.setCore c k).staged = s.staged := rfl
@[simp] theorem State.setCore_bseqIn (c : Nat) (k : Core) : (s.setCore c k).bseqIn = s.bseqIn := rfl
@[simp] theorem State.setCore_fencesIn (c : Nat) (k : Core) : (s.setCore c k).fencesIn = s.fencesIn := rfl
@[simp] theorem State.setCore_versions (c : Nat) (k : Core) : (s.setCore c k).versions = s.versions := rfl
@[simp] theorem State.setCore_leaseDue (c : Nat) (k : Core) : (s.setCore c k).leaseDue = s.leaseDue := rfl
@[simp] theorem State.setCore_closing (c : Nat) (k : Core) : (s.setCore c k).closing = s.closing := rfl
@[simp] theorem State.setCore_hostQ (c : Nat) (k : Core) : (s.setCore c k).hostQ = s.hostQ := rfl
@[simp] theorem State.setCore_full (c : Nat) (k : Core) : (s.setCore c k).full = s.full := rfl
@[simp] theorem State.setCore_feList (c : Nat) (k : Core) : (s.setCore c k).feList = s.feList := rfl
@[simp] theorem State.setCore_packets (c : Nat) (k : Core) : (s.setCore c k).packets = s.packets := rfl
@[simp] theorem State.setCore_netMsgs (c : Nat) (k : Core) : (s.setCore c k).netMsgs = s.netMsgs := rfl
@[simp] theorem State.setCore_netConns (c : Nat) (k : Core) : (s.setCore c k).netConns = s.netConns := rfl
@[simp] theorem State.setCore_netRecvs (c : Nat) (k : Core) : (s.setCore c k).netRecvs = s.netRecvs := rfl
@[simp] theorem State.setCore_regions (c : Nat) (k : Core) : (s.setCore c k).regions = s.regions := rfl
@[simp] theorem State.setCore_tests (c : Nat) (k : Core) : (s.setCore c k).tests = s.tests := rfl
@[simp] theorem State.setCore_errors (c : Nat) (k : Core) : (s.setCore c k).errors = s.errors := rfl
@[simp] theorem State.setCore_boot (c : Nat) (k : Core) : (s.setCore c k).boot = s.boot := rfl
@[simp] theorem State.setCore_credits (c : Nat) (k : Core) : (s.setCore c k).credits = s.credits := rfl
@[simp] theorem State.setCore_beats (c : Nat) (k : Core) : (s.setCore c k).beats = s.beats := rfl
@[simp] theorem State.setCore_refTaken (c : Nat) (k : Core) : (s.setCore c k).refTaken = s.refTaken := rfl
@[simp] theorem State.setCore_dets (c : Nat) (k : Core) : (s.setCore c k).dets = s.dets := rfl
@[simp] theorem State.setCore_partsOut (c : Nat) (k : Core) : (s.setCore c k).partsOut = s.partsOut := rfl
@[simp] theorem State.setCore_absent (c : Nat) (k : Core) : (s.setCore c k).absent = s.absent := rfl
@[simp] theorem State.setCore_recovery (c : Nat) (k : Core) : (s.setCore c k).recovery = s.recovery := rfl

/-! ## `upCore` -/

@[simp] theorem State.upCore_cur (c : Nat) (g : Core → Core) : (s.upCore c g).cur = s.cur := rfl
@[simp] theorem State.upCore_agenda (c : Nat) (g : Core → Core) : (s.upCore c g).agenda = s.agenda := rfl
@[simp] theorem State.upCore_cycle (c : Nat) (g : Core → Core) : (s.upCore c g).cycle = s.cycle := rfl
@[simp] theorem State.upCore_mem (c : Nat) (g : Core → Core) : (s.upCore c g).mem = s.mem := rfl
@[simp] theorem State.upCore_vault (c : Nat) (g : Core → Core) : (s.upCore c g).vault = s.vault := rfl
@[simp] theorem State.upCore_vtag (c : Nat) (g : Core → Core) : (s.upCore c g).vtag = s.vtag := rfl
@[simp] theorem State.upCore_acc (c : Nat) (g : Core → Core) : (s.upCore c g).acc = s.acc := rfl
@[simp] theorem State.upCore_tlb (c : Nat) (g : Core → Core) : (s.upCore c g).tlb = s.tlb := rfl
@[simp] theorem State.upCore_regs (c : Nat) (g : Core → Core) : (s.upCore c g).regs = s.regs := rfl
@[simp] theorem State.upCore_queues (c : Nat) (g : Core → Core) : (s.upCore c g).queues = s.queues := rfl
@[simp] theorem State.upCore_launches (c : Nat) (g : Core → Core) : (s.upCore c g).launches = s.launches := rfl
@[simp] theorem State.upCore_images (c : Nat) (g : Core → Core) : (s.upCore c g).images = s.images := rfl
@[simp] theorem State.upCore_clock (c : Nat) (g : Core → Core) : (s.upCore c g).clock = s.clock := rfl
@[simp] theorem State.upCore_rsvHolder (c : Nat) (g : Core → Core) : (s.upCore c g).rsvHolder = s.rsvHolder := rfl
@[simp] theorem State.upCore_outbox (c : Nat) (g : Core → Core) : (s.upCore c g).outbox = s.outbox := rfl
@[simp] theorem State.upCore_partsOut (c : Nat) (g : Core → Core) : (s.upCore c g).partsOut = s.partsOut := rfl
@[simp] theorem State.upCore_absent (c : Nat) (g : Core → Core) : (s.upCore c g).absent = s.absent := rfl
@[simp] theorem State.upCore_recovery (c : Nat) (g : Core → Core) : (s.upCore c g).recovery = s.recovery := rfl

/-! ## `setCx` -/

@[simp] theorem State.setCx_cur (c : Nat) (x : Ctx) : (s.setCx c x).cur = s.cur := rfl
@[simp] theorem State.setCx_agenda (c : Nat) (x : Ctx) : (s.setCx c x).agenda = s.agenda := rfl
@[simp] theorem State.setCx_cycle (c : Nat) (x : Ctx) : (s.setCx c x).cycle = s.cycle := rfl
@[simp] theorem State.setCx_mem (c : Nat) (x : Ctx) : (s.setCx c x).mem = s.mem := rfl
@[simp] theorem State.setCx_vault (c : Nat) (x : Ctx) : (s.setCx c x).vault = s.vault := rfl
@[simp] theorem State.setCx_vtag (c : Nat) (x : Ctx) : (s.setCx c x).vtag = s.vtag := rfl
@[simp] theorem State.setCx_acc (c : Nat) (x : Ctx) : (s.setCx c x).acc = s.acc := rfl
@[simp] theorem State.setCx_tlb (c : Nat) (x : Ctx) : (s.setCx c x).tlb = s.tlb := rfl
@[simp] theorem State.setCx_regs (c : Nat) (x : Ctx) : (s.setCx c x).regs = s.regs := rfl
@[simp] theorem State.setCx_queues (c : Nat) (x : Ctx) : (s.setCx c x).queues = s.queues := rfl
@[simp] theorem State.setCx_launches (c : Nat) (x : Ctx) : (s.setCx c x).launches = s.launches := rfl
@[simp] theorem State.setCx_images (c : Nat) (x : Ctx) : (s.setCx c x).images = s.images := rfl
@[simp] theorem State.setCx_clock (c : Nat) (x : Ctx) : (s.setCx c x).clock = s.clock := rfl
@[simp] theorem State.setCx_rsvHolder (c : Nat) (x : Ctx) : (s.setCx c x).rsvHolder = s.rsvHolder := rfl
@[simp] theorem State.setCx_outbox (c : Nat) (x : Ctx) : (s.setCx c x).outbox = s.outbox := rfl
@[simp] theorem State.setCx_partsOut (c : Nat) (x : Ctx) : (s.setCx c x).partsOut = s.partsOut := rfl
@[simp] theorem State.setCx_absent (c : Nat) (x : Ctx) : (s.setCx c x).absent = s.absent := rfl
@[simp] theorem State.setCx_recovery (c : Nat) (x : Ctx) : (s.setCx c x).recovery = s.recovery := rfl

/-! ## `upCx` -/

@[simp] theorem State.upCx_cur (c : Nat) (g : Ctx → Ctx) : (s.upCx c g).cur = s.cur := rfl
@[simp] theorem State.upCx_agenda (c : Nat) (g : Ctx → Ctx) : (s.upCx c g).agenda = s.agenda := rfl
@[simp] theorem State.upCx_cycle (c : Nat) (g : Ctx → Ctx) : (s.upCx c g).cycle = s.cycle := rfl
@[simp] theorem State.upCx_mem (c : Nat) (g : Ctx → Ctx) : (s.upCx c g).mem = s.mem := rfl
@[simp] theorem State.upCx_vault (c : Nat) (g : Ctx → Ctx) : (s.upCx c g).vault = s.vault := rfl
@[simp] theorem State.upCx_vtag (c : Nat) (g : Ctx → Ctx) : (s.upCx c g).vtag = s.vtag := rfl
@[simp] theorem State.upCx_acc (c : Nat) (g : Ctx → Ctx) : (s.upCx c g).acc = s.acc := rfl
@[simp] theorem State.upCx_tlb (c : Nat) (g : Ctx → Ctx) : (s.upCx c g).tlb = s.tlb := rfl
@[simp] theorem State.upCx_regs (c : Nat) (g : Ctx → Ctx) : (s.upCx c g).regs = s.regs := rfl
@[simp] theorem State.upCx_queues (c : Nat) (g : Ctx → Ctx) : (s.upCx c g).queues = s.queues := rfl
@[simp] theorem State.upCx_launches (c : Nat) (g : Ctx → Ctx) : (s.upCx c g).launches = s.launches := rfl
@[simp] theorem State.upCx_images (c : Nat) (g : Ctx → Ctx) : (s.upCx c g).images = s.images := rfl
@[simp] theorem State.upCx_clock (c : Nat) (g : Ctx → Ctx) : (s.upCx c g).clock = s.clock := rfl
@[simp] theorem State.upCx_rsvHolder (c : Nat) (g : Ctx → Ctx) : (s.upCx c g).rsvHolder = s.rsvHolder := rfl
@[simp] theorem State.upCx_outbox (c : Nat) (g : Ctx → Ctx) : (s.upCx c g).outbox = s.outbox := rfl
@[simp] theorem State.upCx_partsOut (c : Nat) (g : Ctx → Ctx) : (s.upCx c g).partsOut = s.partsOut := rfl
@[simp] theorem State.upCx_absent (c : Nat) (g : Ctx → Ctx) : (s.upCx c g).absent = s.absent := rfl
@[simp] theorem State.upCx_recovery (c : Nat) (g : Ctx → Ctx) : (s.upCx c g).recovery = s.recovery := rfl

/-! ## `setArch` -/

@[simp] theorem State.setArch_cur (c : Nat) (a : Arch) : (s.setArch c a).cur = s.cur := rfl
@[simp] theorem State.setArch_agenda (c : Nat) (a : Arch) : (s.setArch c a).agenda = s.agenda := rfl
@[simp] theorem State.setArch_cycle (c : Nat) (a : Arch) : (s.setArch c a).cycle = s.cycle := rfl
@[simp] theorem State.setArch_mem (c : Nat) (a : Arch) : (s.setArch c a).mem = s.mem := rfl
@[simp] theorem State.setArch_vault (c : Nat) (a : Arch) : (s.setArch c a).vault = s.vault := rfl
@[simp] theorem State.setArch_vtag (c : Nat) (a : Arch) : (s.setArch c a).vtag = s.vtag := rfl
@[simp] theorem State.setArch_acc (c : Nat) (a : Arch) : (s.setArch c a).acc = s.acc := rfl
@[simp] theorem State.setArch_tlb (c : Nat) (a : Arch) : (s.setArch c a).tlb = s.tlb := rfl
@[simp] theorem State.setArch_regs (c : Nat) (a : Arch) : (s.setArch c a).regs = s.regs := rfl
@[simp] theorem State.setArch_queues (c : Nat) (a : Arch) : (s.setArch c a).queues = s.queues := rfl
@[simp] theorem State.setArch_launches (c : Nat) (a : Arch) : (s.setArch c a).launches = s.launches := rfl
@[simp] theorem State.setArch_images (c : Nat) (a : Arch) : (s.setArch c a).images = s.images := rfl
@[simp] theorem State.setArch_clock (c : Nat) (a : Arch) : (s.setArch c a).clock = s.clock := rfl
@[simp] theorem State.setArch_rsvHolder (c : Nat) (a : Arch) : (s.setArch c a).rsvHolder = s.rsvHolder := rfl
@[simp] theorem State.setArch_outbox (c : Nat) (a : Arch) : (s.setArch c a).outbox = s.outbox := rfl
@[simp] theorem State.setArch_partsOut (c : Nat) (a : Arch) : (s.setArch c a).partsOut = s.partsOut := rfl
@[simp] theorem State.setArch_absent (c : Nat) (a : Arch) : (s.setArch c a).absent = s.absent := rfl
@[simp] theorem State.setArch_recovery (c : Nat) (a : Arch) : (s.setArch c a).recovery = s.recovery := rfl

/-! ## `upArch` -/

@[simp] theorem State.upArch_cur (c : Nat) (g : Arch → Arch) : (s.upArch c g).cur = s.cur := rfl
@[simp] theorem State.upArch_agenda (c : Nat) (g : Arch → Arch) : (s.upArch c g).agenda = s.agenda := rfl
@[simp] theorem State.upArch_cycle (c : Nat) (g : Arch → Arch) : (s.upArch c g).cycle = s.cycle := rfl
@[simp] theorem State.upArch_mem (c : Nat) (g : Arch → Arch) : (s.upArch c g).mem = s.mem := rfl
@[simp] theorem State.upArch_vault (c : Nat) (g : Arch → Arch) : (s.upArch c g).vault = s.vault := rfl
@[simp] theorem State.upArch_vtag (c : Nat) (g : Arch → Arch) : (s.upArch c g).vtag = s.vtag := rfl
@[simp] theorem State.upArch_acc (c : Nat) (g : Arch → Arch) : (s.upArch c g).acc = s.acc := rfl
@[simp] theorem State.upArch_tlb (c : Nat) (g : Arch → Arch) : (s.upArch c g).tlb = s.tlb := rfl
@[simp] theorem State.upArch_regs (c : Nat) (g : Arch → Arch) : (s.upArch c g).regs = s.regs := rfl
@[simp] theorem State.upArch_queues (c : Nat) (g : Arch → Arch) : (s.upArch c g).queues = s.queues := rfl
@[simp] theorem State.upArch_launches (c : Nat) (g : Arch → Arch) : (s.upArch c g).launches = s.launches := rfl
@[simp] theorem State.upArch_images (c : Nat) (g : Arch → Arch) : (s.upArch c g).images = s.images := rfl
@[simp] theorem State.upArch_clock (c : Nat) (g : Arch → Arch) : (s.upArch c g).clock = s.clock := rfl
@[simp] theorem State.upArch_rsvHolder (c : Nat) (g : Arch → Arch) : (s.upArch c g).rsvHolder = s.rsvHolder := rfl
@[simp] theorem State.upArch_outbox (c : Nat) (g : Arch → Arch) : (s.upArch c g).outbox = s.outbox := rfl
@[simp] theorem State.upArch_recovery (c : Nat) (g : Arch → Arch) : (s.upArch c g).recovery = s.recovery := rfl

/-! ## `setThrAt` -/

@[simp] theorem State.setThrAt_cur (c t : Nat) (v : Thr) : (s.setThrAt c t v).cur = s.cur := rfl
@[simp] theorem State.setThrAt_agenda (c t : Nat) (v : Thr) : (s.setThrAt c t v).agenda = s.agenda := rfl
@[simp] theorem State.setThrAt_cycle (c t : Nat) (v : Thr) : (s.setThrAt c t v).cycle = s.cycle := rfl
@[simp] theorem State.setThrAt_mem (c t : Nat) (v : Thr) : (s.setThrAt c t v).mem = s.mem := rfl
@[simp] theorem State.setThrAt_vault (c t : Nat) (v : Thr) : (s.setThrAt c t v).vault = s.vault := rfl
@[simp] theorem State.setThrAt_vtag (c t : Nat) (v : Thr) : (s.setThrAt c t v).vtag = s.vtag := rfl
@[simp] theorem State.setThrAt_acc (c t : Nat) (v : Thr) : (s.setThrAt c t v).acc = s.acc := rfl
@[simp] theorem State.setThrAt_tlb (c t : Nat) (v : Thr) : (s.setThrAt c t v).tlb = s.tlb := rfl
@[simp] theorem State.setThrAt_regs (c t : Nat) (v : Thr) : (s.setThrAt c t v).regs = s.regs := rfl
@[simp] theorem State.setThrAt_queues (c t : Nat) (v : Thr) : (s.setThrAt c t v).queues = s.queues := rfl
@[simp] theorem State.setThrAt_launches (c t : Nat) (v : Thr) : (s.setThrAt c t v).launches = s.launches := rfl
@[simp] theorem State.setThrAt_images (c t : Nat) (v : Thr) : (s.setThrAt c t v).images = s.images := rfl
@[simp] theorem State.setThrAt_clock (c t : Nat) (v : Thr) : (s.setThrAt c t v).clock = s.clock := rfl
@[simp] theorem State.setThrAt_rsvHolder (c t : Nat) (v : Thr) : (s.setThrAt c t v).rsvHolder = s.rsvHolder := rfl
@[simp] theorem State.setThrAt_outbox (c t : Nat) (v : Thr) : (s.setThrAt c t v).outbox = s.outbox := rfl
@[simp] theorem State.setThrAt_recovery (c t : Nat) (v : Thr) : (s.setThrAt c t v).recovery = s.recovery := rfl

/-! ## `upThrAt` -/

@[simp] theorem State.upThrAt_cur (c t : Nat) (g : Thr → Thr) : (s.upThrAt c t g).cur = s.cur := rfl
@[simp] theorem State.upThrAt_agenda (c t : Nat) (g : Thr → Thr) : (s.upThrAt c t g).agenda = s.agenda := rfl
@[simp] theorem State.upThrAt_cycle (c t : Nat) (g : Thr → Thr) : (s.upThrAt c t g).cycle = s.cycle := rfl
@[simp] theorem State.upThrAt_mem (c t : Nat) (g : Thr → Thr) : (s.upThrAt c t g).mem = s.mem := rfl
@[simp] theorem State.upThrAt_vault (c t : Nat) (g : Thr → Thr) : (s.upThrAt c t g).vault = s.vault := rfl
@[simp] theorem State.upThrAt_vtag (c t : Nat) (g : Thr → Thr) : (s.upThrAt c t g).vtag = s.vtag := rfl
@[simp] theorem State.upThrAt_acc (c t : Nat) (g : Thr → Thr) : (s.upThrAt c t g).acc = s.acc := rfl
@[simp] theorem State.upThrAt_tlb (c t : Nat) (g : Thr → Thr) : (s.upThrAt c t g).tlb = s.tlb := rfl
@[simp] theorem State.upThrAt_regs (c t : Nat) (g : Thr → Thr) : (s.upThrAt c t g).regs = s.regs := rfl
@[simp] theorem State.upThrAt_queues (c t : Nat) (g : Thr → Thr) : (s.upThrAt c t g).queues = s.queues := rfl
@[simp] theorem State.upThrAt_launches (c t : Nat) (g : Thr → Thr) : (s.upThrAt c t g).launches = s.launches := rfl
@[simp] theorem State.upThrAt_images (c t : Nat) (g : Thr → Thr) : (s.upThrAt c t g).images = s.images := rfl
@[simp] theorem State.upThrAt_clock (c t : Nat) (g : Thr → Thr) : (s.upThrAt c t g).clock = s.clock := rfl
@[simp] theorem State.upThrAt_rsvHolder (c t : Nat) (g : Thr → Thr) : (s.upThrAt c t g).rsvHolder = s.rsvHolder := rfl
@[simp] theorem State.upThrAt_outbox (c t : Nat) (g : Thr → Thr) : (s.upThrAt c t g).outbox = s.outbox := rfl
@[simp] theorem State.upThrAt_recovery (c t : Nat) (g : Thr → Thr) : (s.upThrAt c t g).recovery = s.recovery := rfl

/-! ## `setMtAt` -/

@[simp] theorem State.setMtAt_cur (c i : Nat) (m : Mt) : (s.setMtAt c i m).cur = s.cur := rfl
@[simp] theorem State.setMtAt_agenda (c i : Nat) (m : Mt) : (s.setMtAt c i m).agenda = s.agenda := rfl
@[simp] theorem State.setMtAt_cycle (c i : Nat) (m : Mt) : (s.setMtAt c i m).cycle = s.cycle := rfl
@[simp] theorem State.setMtAt_mem (c i : Nat) (m : Mt) : (s.setMtAt c i m).mem = s.mem := rfl
@[simp] theorem State.setMtAt_vault (c i : Nat) (m : Mt) : (s.setMtAt c i m).vault = s.vault := rfl
@[simp] theorem State.setMtAt_vtag (c i : Nat) (m : Mt) : (s.setMtAt c i m).vtag = s.vtag := rfl
@[simp] theorem State.setMtAt_acc (c i : Nat) (m : Mt) : (s.setMtAt c i m).acc = s.acc := rfl
@[simp] theorem State.setMtAt_tlb (c i : Nat) (m : Mt) : (s.setMtAt c i m).tlb = s.tlb := rfl
@[simp] theorem State.setMtAt_regs (c i : Nat) (m : Mt) : (s.setMtAt c i m).regs = s.regs := rfl
@[simp] theorem State.setMtAt_queues (c i : Nat) (m : Mt) : (s.setMtAt c i m).queues = s.queues := rfl
@[simp] theorem State.setMtAt_launches (c i : Nat) (m : Mt) : (s.setMtAt c i m).launches = s.launches := rfl
@[simp] theorem State.setMtAt_images (c i : Nat) (m : Mt) : (s.setMtAt c i m).images = s.images := rfl
@[simp] theorem State.setMtAt_clock (c i : Nat) (m : Mt) : (s.setMtAt c i m).clock = s.clock := rfl
@[simp] theorem State.setMtAt_rsvHolder (c i : Nat) (m : Mt) : (s.setMtAt c i m).rsvHolder = s.rsvHolder := rfl
@[simp] theorem State.setMtAt_outbox (c i : Nat) (m : Mt) : (s.setMtAt c i m).outbox = s.outbox := rfl
@[simp] theorem State.setMtAt_recovery (c i : Nat) (m : Mt) : (s.setMtAt c i m).recovery = s.recovery := rfl

/-! ## `upMtAt` -/

@[simp] theorem State.upMtAt_cur (c i : Nat) (g : Mt → Mt) : (s.upMtAt c i g).cur = s.cur := rfl
@[simp] theorem State.upMtAt_agenda (c i : Nat) (g : Mt → Mt) : (s.upMtAt c i g).agenda = s.agenda := rfl
@[simp] theorem State.upMtAt_cycle (c i : Nat) (g : Mt → Mt) : (s.upMtAt c i g).cycle = s.cycle := rfl
@[simp] theorem State.upMtAt_mem (c i : Nat) (g : Mt → Mt) : (s.upMtAt c i g).mem = s.mem := rfl
@[simp] theorem State.upMtAt_vault (c i : Nat) (g : Mt → Mt) : (s.upMtAt c i g).vault = s.vault := rfl
@[simp] theorem State.upMtAt_vtag (c i : Nat) (g : Mt → Mt) : (s.upMtAt c i g).vtag = s.vtag := rfl
@[simp] theorem State.upMtAt_acc (c i : Nat) (g : Mt → Mt) : (s.upMtAt c i g).acc = s.acc := rfl
@[simp] theorem State.upMtAt_tlb (c i : Nat) (g : Mt → Mt) : (s.upMtAt c i g).tlb = s.tlb := rfl
@[simp] theorem State.upMtAt_regs (c i : Nat) (g : Mt → Mt) : (s.upMtAt c i g).regs = s.regs := rfl
@[simp] theorem State.upMtAt_queues (c i : Nat) (g : Mt → Mt) : (s.upMtAt c i g).queues = s.queues := rfl
@[simp] theorem State.upMtAt_launches (c i : Nat) (g : Mt → Mt) : (s.upMtAt c i g).launches = s.launches := rfl
@[simp] theorem State.upMtAt_images (c i : Nat) (g : Mt → Mt) : (s.upMtAt c i g).images = s.images := rfl
@[simp] theorem State.upMtAt_clock (c i : Nat) (g : Mt → Mt) : (s.upMtAt c i g).clock = s.clock := rfl
@[simp] theorem State.upMtAt_rsvHolder (c i : Nat) (g : Mt → Mt) : (s.upMtAt c i g).rsvHolder = s.rsvHolder := rfl
@[simp] theorem State.upMtAt_outbox (c i : Nat) (g : Mt → Mt) : (s.upMtAt c i g).outbox = s.outbox := rfl
@[simp] theorem State.upMtAt_recovery (c i : Nat) (g : Mt → Mt) : (s.upMtAt c i g).recovery = s.recovery := rfl

/-! ## `setThr` -/

@[simp] theorem State.setThr_cur (v : Thr) : (s.setThr v).cur = s.cur := rfl
@[simp] theorem State.setThr_agenda (v : Thr) : (s.setThr v).agenda = s.agenda := rfl
@[simp] theorem State.setThr_cycle (v : Thr) : (s.setThr v).cycle = s.cycle := rfl
@[simp] theorem State.setThr_mem (v : Thr) : (s.setThr v).mem = s.mem := rfl
@[simp] theorem State.setThr_vault (v : Thr) : (s.setThr v).vault = s.vault := rfl
@[simp] theorem State.setThr_vtag (v : Thr) : (s.setThr v).vtag = s.vtag := rfl
@[simp] theorem State.setThr_acc (v : Thr) : (s.setThr v).acc = s.acc := rfl
@[simp] theorem State.setThr_tlb (v : Thr) : (s.setThr v).tlb = s.tlb := rfl
@[simp] theorem State.setThr_regs (v : Thr) : (s.setThr v).regs = s.regs := rfl
@[simp] theorem State.setThr_queues (v : Thr) : (s.setThr v).queues = s.queues := rfl
@[simp] theorem State.setThr_launches (v : Thr) : (s.setThr v).launches = s.launches := rfl
@[simp] theorem State.setThr_images (v : Thr) : (s.setThr v).images = s.images := rfl
@[simp] theorem State.setThr_clock (v : Thr) : (s.setThr v).clock = s.clock := rfl
@[simp] theorem State.setThr_rsvHolder (v : Thr) : (s.setThr v).rsvHolder = s.rsvHolder := rfl
@[simp] theorem State.setThr_outbox (v : Thr) : (s.setThr v).outbox = s.outbox := rfl
@[simp] theorem State.setThr_recovery (v : Thr) : (s.setThr v).recovery = s.recovery := rfl

/-! ## `upThr` -/

@[simp] theorem State.upThr_cur (g : Thr → Thr) : (s.upThr g).cur = s.cur := rfl
@[simp] theorem State.upThr_agenda (g : Thr → Thr) : (s.upThr g).agenda = s.agenda := rfl
@[simp] theorem State.upThr_cycle (g : Thr → Thr) : (s.upThr g).cycle = s.cycle := rfl
@[simp] theorem State.upThr_mem (g : Thr → Thr) : (s.upThr g).mem = s.mem := rfl
@[simp] theorem State.upThr_vault (g : Thr → Thr) : (s.upThr g).vault = s.vault := rfl
@[simp] theorem State.upThr_vtag (g : Thr → Thr) : (s.upThr g).vtag = s.vtag := rfl
@[simp] theorem State.upThr_acc (g : Thr → Thr) : (s.upThr g).acc = s.acc := rfl
@[simp] theorem State.upThr_tlb (g : Thr → Thr) : (s.upThr g).tlb = s.tlb := rfl
@[simp] theorem State.upThr_regs (g : Thr → Thr) : (s.upThr g).regs = s.regs := rfl
@[simp] theorem State.upThr_queues (g : Thr → Thr) : (s.upThr g).queues = s.queues := rfl
@[simp] theorem State.upThr_launches (g : Thr → Thr) : (s.upThr g).launches = s.launches := rfl
@[simp] theorem State.upThr_images (g : Thr → Thr) : (s.upThr g).images = s.images := rfl
@[simp] theorem State.upThr_clock (g : Thr → Thr) : (s.upThr g).clock = s.clock := rfl
@[simp] theorem State.upThr_rsvHolder (g : Thr → Thr) : (s.upThr g).rsvHolder = s.rsvHolder := rfl
@[simp] theorem State.upThr_outbox (g : Thr → Thr) : (s.upThr g).outbox = s.outbox := rfl
@[simp] theorem State.upThr_recovery (g : Thr → Thr) : (s.upThr g).recovery = s.recovery := rfl

/-! ## `setMt` -/

@[simp] theorem State.setMt_cur (m : Mt) : (s.setMt m).cur = s.cur := rfl
@[simp] theorem State.setMt_agenda (m : Mt) : (s.setMt m).agenda = s.agenda := rfl
@[simp] theorem State.setMt_cycle (m : Mt) : (s.setMt m).cycle = s.cycle := rfl
@[simp] theorem State.setMt_mem (m : Mt) : (s.setMt m).mem = s.mem := rfl
@[simp] theorem State.setMt_vault (m : Mt) : (s.setMt m).vault = s.vault := rfl
@[simp] theorem State.setMt_vtag (m : Mt) : (s.setMt m).vtag = s.vtag := rfl
@[simp] theorem State.setMt_acc (m : Mt) : (s.setMt m).acc = s.acc := rfl
@[simp] theorem State.setMt_tlb (m : Mt) : (s.setMt m).tlb = s.tlb := rfl
@[simp] theorem State.setMt_regs (m : Mt) : (s.setMt m).regs = s.regs := rfl
@[simp] theorem State.setMt_queues (m : Mt) : (s.setMt m).queues = s.queues := rfl
@[simp] theorem State.setMt_launches (m : Mt) : (s.setMt m).launches = s.launches := rfl
@[simp] theorem State.setMt_images (m : Mt) : (s.setMt m).images = s.images := rfl
@[simp] theorem State.setMt_clock (m : Mt) : (s.setMt m).clock = s.clock := rfl
@[simp] theorem State.setMt_rsvHolder (m : Mt) : (s.setMt m).rsvHolder = s.rsvHolder := rfl
@[simp] theorem State.setMt_outbox (m : Mt) : (s.setMt m).outbox = s.outbox := rfl
@[simp] theorem State.setMt_recovery (m : Mt) : (s.setMt m).recovery = s.recovery := rfl

/-! ## `setX` -/

@[simp] theorem State.setX_cur (n : Nat) (v : Word) : (s.setX n v).cur = s.cur := rfl
@[simp] theorem State.setX_agenda (n : Nat) (v : Word) : (s.setX n v).agenda = s.agenda := rfl
@[simp] theorem State.setX_cycle (n : Nat) (v : Word) : (s.setX n v).cycle = s.cycle := rfl
@[simp] theorem State.setX_mem (n : Nat) (v : Word) : (s.setX n v).mem = s.mem := rfl
@[simp] theorem State.setX_vault (n : Nat) (v : Word) : (s.setX n v).vault = s.vault := rfl
@[simp] theorem State.setX_vtag (n : Nat) (v : Word) : (s.setX n v).vtag = s.vtag := rfl
@[simp] theorem State.setX_acc (n : Nat) (v : Word) : (s.setX n v).acc = s.acc := rfl
@[simp] theorem State.setX_tlb (n : Nat) (v : Word) : (s.setX n v).tlb = s.tlb := rfl
@[simp] theorem State.setX_regs (n : Nat) (v : Word) : (s.setX n v).regs = s.regs := rfl
@[simp] theorem State.setX_queues (n : Nat) (v : Word) : (s.setX n v).queues = s.queues := rfl
@[simp] theorem State.setX_launches (n : Nat) (v : Word) : (s.setX n v).launches = s.launches := rfl
@[simp] theorem State.setX_images (n : Nat) (v : Word) : (s.setX n v).images = s.images := rfl
@[simp] theorem State.setX_clock (n : Nat) (v : Word) : (s.setX n v).clock = s.clock := rfl
@[simp] theorem State.setX_rsvHolder (n : Nat) (v : Word) : (s.setX n v).rsvHolder = s.rsvHolder := rfl
@[simp] theorem State.setX_outbox (n : Nat) (v : Word) : (s.setX n v).outbox = s.outbox := rfl
@[simp] theorem State.setX_recovery (n : Nat) (v : Word) : (s.setX n v).recovery = s.recovery := rfl

/-! ## `setF` -/

@[simp] theorem State.setF_cur (n : Nat) (b : Bool) : (s.setF n b).cur = s.cur := rfl
@[simp] theorem State.setF_agenda (n : Nat) (b : Bool) : (s.setF n b).agenda = s.agenda := rfl
@[simp] theorem State.setF_cycle (n : Nat) (b : Bool) : (s.setF n b).cycle = s.cycle := rfl
@[simp] theorem State.setF_mem (n : Nat) (b : Bool) : (s.setF n b).mem = s.mem := rfl
@[simp] theorem State.setF_vault (n : Nat) (b : Bool) : (s.setF n b).vault = s.vault := rfl
@[simp] theorem State.setF_vtag (n : Nat) (b : Bool) : (s.setF n b).vtag = s.vtag := rfl
@[simp] theorem State.setF_acc (n : Nat) (b : Bool) : (s.setF n b).acc = s.acc := rfl
@[simp] theorem State.setF_tlb (n : Nat) (b : Bool) : (s.setF n b).tlb = s.tlb := rfl
@[simp] theorem State.setF_regs (n : Nat) (b : Bool) : (s.setF n b).regs = s.regs := rfl
@[simp] theorem State.setF_queues (n : Nat) (b : Bool) : (s.setF n b).queues = s.queues := rfl
@[simp] theorem State.setF_launches (n : Nat) (b : Bool) : (s.setF n b).launches = s.launches := rfl
@[simp] theorem State.setF_images (n : Nat) (b : Bool) : (s.setF n b).images = s.images := rfl
@[simp] theorem State.setF_clock (n : Nat) (b : Bool) : (s.setF n b).clock = s.clock := rfl
@[simp] theorem State.setF_rsvHolder (n : Nat) (b : Bool) : (s.setF n b).rsvHolder = s.rsvHolder := rfl
@[simp] theorem State.setF_outbox (n : Nat) (b : Bool) : (s.setF n b).outbox = s.outbox := rfl
@[simp] theorem State.setF_recovery (n : Nat) (b : Bool) : (s.setF n b).recovery = s.recovery := rfl

/-! ## `requestCut` -/

@[simp] theorem State.requestCut_cur (c : Nat) : (s.requestCut c).cur = s.cur := rfl
@[simp] theorem State.requestCut_agenda (c : Nat) : (s.requestCut c).agenda = s.agenda := rfl
@[simp] theorem State.requestCut_cycle (c : Nat) : (s.requestCut c).cycle = s.cycle := rfl
@[simp] theorem State.requestCut_mem (c : Nat) : (s.requestCut c).mem = s.mem := rfl
@[simp] theorem State.requestCut_vault (c : Nat) : (s.requestCut c).vault = s.vault := rfl
@[simp] theorem State.requestCut_vtag (c : Nat) : (s.requestCut c).vtag = s.vtag := rfl
@[simp] theorem State.requestCut_acc (c : Nat) : (s.requestCut c).acc = s.acc := rfl
@[simp] theorem State.requestCut_tlb (c : Nat) : (s.requestCut c).tlb = s.tlb := rfl
@[simp] theorem State.requestCut_regs (c : Nat) : (s.requestCut c).regs = s.regs := rfl
@[simp] theorem State.requestCut_queues (c : Nat) : (s.requestCut c).queues = s.queues := rfl
@[simp] theorem State.requestCut_launches (c : Nat) : (s.requestCut c).launches = s.launches := rfl
@[simp] theorem State.requestCut_images (c : Nat) : (s.requestCut c).images = s.images := rfl
@[simp] theorem State.requestCut_clock (c : Nat) : (s.requestCut c).clock = s.clock := rfl
@[simp] theorem State.requestCut_rsvHolder (c : Nat) : (s.requestCut c).rsvHolder = s.rsvHolder := rfl
@[simp] theorem State.requestCut_outbox (c : Nat) : (s.requestCut c).outbox = s.outbox := rfl
@[simp] theorem State.requestCut_recovery (c : Nat) : (s.requestCut c).recovery = s.recovery := rfl

/-! ## `setPkgReg` -/

@[simp] theorem State.setPkgReg_cur (o : Nat) (v : Word) : (s.setPkgReg o v).cur = s.cur := rfl
@[simp] theorem State.setPkgReg_agenda (o : Nat) (v : Word) : (s.setPkgReg o v).agenda = s.agenda := rfl
@[simp] theorem State.setPkgReg_cycle (o : Nat) (v : Word) : (s.setPkgReg o v).cycle = s.cycle := rfl
@[simp] theorem State.setPkgReg_mem (o : Nat) (v : Word) : (s.setPkgReg o v).mem = s.mem := rfl
@[simp] theorem State.setPkgReg_vault (o : Nat) (v : Word) : (s.setPkgReg o v).vault = s.vault := rfl
@[simp] theorem State.setPkgReg_vtag (o : Nat) (v : Word) : (s.setPkgReg o v).vtag = s.vtag := rfl
@[simp] theorem State.setPkgReg_acc (o : Nat) (v : Word) : (s.setPkgReg o v).acc = s.acc := rfl
@[simp] theorem State.setPkgReg_tlb (o : Nat) (v : Word) : (s.setPkgReg o v).tlb = s.tlb := rfl
@[simp] theorem State.setPkgReg_queues (o : Nat) (v : Word) : (s.setPkgReg o v).queues = s.queues := rfl
@[simp] theorem State.setPkgReg_launches (o : Nat) (v : Word) : (s.setPkgReg o v).launches = s.launches := rfl
@[simp] theorem State.setPkgReg_images (o : Nat) (v : Word) : (s.setPkgReg o v).images = s.images := rfl
@[simp] theorem State.setPkgReg_clock (o : Nat) (v : Word) : (s.setPkgReg o v).clock = s.clock := rfl
@[simp] theorem State.setPkgReg_rsvHolder (o : Nat) (v : Word) : (s.setPkgReg o v).rsvHolder = s.rsvHolder := rfl
@[simp] theorem State.setPkgReg_outbox (o : Nat) (v : Word) : (s.setPkgReg o v).outbox = s.outbox := rfl
@[simp] theorem State.setPkgReg_partsOut (o : Nat) (v : Word) : (s.setPkgReg o v).partsOut = s.partsOut := rfl
@[simp] theorem State.setPkgReg_absent (o : Nat) (v : Word) : (s.setPkgReg o v).absent = s.absent := rfl
@[simp] theorem State.setPkgReg_recovery (o : Nat) (v : Word) : (s.setPkgReg o v).recovery = s.recovery := rfl
@[simp] theorem State.setPkgReg_cores (o : Nat) (v : Word) : (s.setPkgReg o v).cores = s.cores := rfl

/-! ## `setDieReg` -/

@[simp] theorem State.setDieReg_cur (d o : Nat) (v : Word) : (s.setDieReg d o v).cur = s.cur := rfl
@[simp] theorem State.setDieReg_agenda (d o : Nat) (v : Word) : (s.setDieReg d o v).agenda = s.agenda := rfl
@[simp] theorem State.setDieReg_cycle (d o : Nat) (v : Word) : (s.setDieReg d o v).cycle = s.cycle := rfl
@[simp] theorem State.setDieReg_mem (d o : Nat) (v : Word) : (s.setDieReg d o v).mem = s.mem := rfl
@[simp] theorem State.setDieReg_vault (d o : Nat) (v : Word) : (s.setDieReg d o v).vault = s.vault := rfl
@[simp] theorem State.setDieReg_vtag (d o : Nat) (v : Word) : (s.setDieReg d o v).vtag = s.vtag := rfl
@[simp] theorem State.setDieReg_acc (d o : Nat) (v : Word) : (s.setDieReg d o v).acc = s.acc := rfl
@[simp] theorem State.setDieReg_tlb (d o : Nat) (v : Word) : (s.setDieReg d o v).tlb = s.tlb := rfl
@[simp] theorem State.setDieReg_queues (d o : Nat) (v : Word) : (s.setDieReg d o v).queues = s.queues := rfl
@[simp] theorem State.setDieReg_launches (d o : Nat) (v : Word) : (s.setDieReg d o v).launches = s.launches := rfl
@[simp] theorem State.setDieReg_images (d o : Nat) (v : Word) : (s.setDieReg d o v).images = s.images := rfl
@[simp] theorem State.setDieReg_clock (d o : Nat) (v : Word) : (s.setDieReg d o v).clock = s.clock := rfl
@[simp] theorem State.setDieReg_rsvHolder (d o : Nat) (v : Word) : (s.setDieReg d o v).rsvHolder = s.rsvHolder := rfl
@[simp] theorem State.setDieReg_outbox (d o : Nat) (v : Word) : (s.setDieReg d o v).outbox = s.outbox := rfl
@[simp] theorem State.setDieReg_partsOut (d o : Nat) (v : Word) : (s.setDieReg d o v).partsOut = s.partsOut := rfl
@[simp] theorem State.setDieReg_absent (d o : Nat) (v : Word) : (s.setDieReg d o v).absent = s.absent := rfl
@[simp] theorem State.setDieReg_recovery (d o : Nat) (v : Word) : (s.setDieReg d o v).recovery = s.recovery := rfl
@[simp] theorem State.setDieReg_cores (d o : Nat) (v : Word) : (s.setDieReg d o v).cores = s.cores := rfl

/-! ## `setLineTag` -/

@[simp] theorem State.setLineTag_cur (c l : Nat) (t : LineTag) : (s.setLineTag c l t).cur = s.cur := rfl
@[simp] theorem State.setLineTag_agenda (c l : Nat) (t : LineTag) : (s.setLineTag c l t).agenda = s.agenda := rfl
@[simp] theorem State.setLineTag_cycle (c l : Nat) (t : LineTag) : (s.setLineTag c l t).cycle = s.cycle := rfl
@[simp] theorem State.setLineTag_mem (c l : Nat) (t : LineTag) : (s.setLineTag c l t).mem = s.mem := rfl
@[simp] theorem State.setLineTag_vault (c l : Nat) (t : LineTag) : (s.setLineTag c l t).vault = s.vault := rfl
@[simp] theorem State.setLineTag_acc (c l : Nat) (t : LineTag) : (s.setLineTag c l t).acc = s.acc := rfl
@[simp] theorem State.setLineTag_tlb (c l : Nat) (t : LineTag) : (s.setLineTag c l t).tlb = s.tlb := rfl
@[simp] theorem State.setLineTag_regs (c l : Nat) (t : LineTag) : (s.setLineTag c l t).regs = s.regs := rfl
@[simp] theorem State.setLineTag_queues (c l : Nat) (t : LineTag) : (s.setLineTag c l t).queues = s.queues := rfl
@[simp] theorem State.setLineTag_launches (c l : Nat) (t : LineTag) : (s.setLineTag c l t).launches = s.launches := rfl
@[simp] theorem State.setLineTag_images (c l : Nat) (t : LineTag) : (s.setLineTag c l t).images = s.images := rfl
@[simp] theorem State.setLineTag_clock (c l : Nat) (t : LineTag) : (s.setLineTag c l t).clock = s.clock := rfl
@[simp] theorem State.setLineTag_rsvHolder (c l : Nat) (t : LineTag) : (s.setLineTag c l t).rsvHolder = s.rsvHolder := rfl
@[simp] theorem State.setLineTag_outbox (c l : Nat) (t : LineTag) : (s.setLineTag c l t).outbox = s.outbox := rfl
@[simp] theorem State.setLineTag_partsOut (c l : Nat) (t : LineTag) : (s.setLineTag c l t).partsOut = s.partsOut := rfl
@[simp] theorem State.setLineTag_absent (c l : Nat) (t : LineTag) : (s.setLineTag c l t).absent = s.absent := rfl
@[simp] theorem State.setLineTag_recovery (c l : Nat) (t : LineTag) : (s.setLineTag c l t).recovery = s.recovery := rfl
@[simp] theorem State.setLineTag_cores (c l : Nat) (t : LineTag) : (s.setLineTag c l t).cores = s.cores := rfl

/-! ## `vaultWrite` -/

@[simp] theorem State.vaultWrite_cur (c p : Nat) (bs : List Byte) : (s.vaultWrite c p bs).cur = s.cur := rfl
@[simp] theorem State.vaultWrite_agenda (c p : Nat) (bs : List Byte) : (s.vaultWrite c p bs).agenda = s.agenda := rfl
@[simp] theorem State.vaultWrite_cycle (c p : Nat) (bs : List Byte) : (s.vaultWrite c p bs).cycle = s.cycle := rfl
@[simp] theorem State.vaultWrite_mem (c p : Nat) (bs : List Byte) : (s.vaultWrite c p bs).mem = s.mem := rfl
@[simp] theorem State.vaultWrite_vtag (c p : Nat) (bs : List Byte) : (s.vaultWrite c p bs).vtag = s.vtag := rfl
@[simp] theorem State.vaultWrite_acc (c p : Nat) (bs : List Byte) : (s.vaultWrite c p bs).acc = s.acc := rfl
@[simp] theorem State.vaultWrite_tlb (c p : Nat) (bs : List Byte) : (s.vaultWrite c p bs).tlb = s.tlb := rfl
@[simp] theorem State.vaultWrite_regs (c p : Nat) (bs : List Byte) : (s.vaultWrite c p bs).regs = s.regs := rfl
@[simp] theorem State.vaultWrite_queues (c p : Nat) (bs : List Byte) : (s.vaultWrite c p bs).queues = s.queues := rfl
@[simp] theorem State.vaultWrite_launches (c p : Nat) (bs : List Byte) : (s.vaultWrite c p bs).launches = s.launches := rfl
@[simp] theorem State.vaultWrite_images (c p : Nat) (bs : List Byte) : (s.vaultWrite c p bs).images = s.images := rfl
@[simp] theorem State.vaultWrite_clock (c p : Nat) (bs : List Byte) : (s.vaultWrite c p bs).clock = s.clock := rfl
@[simp] theorem State.vaultWrite_rsvHolder (c p : Nat) (bs : List Byte) : (s.vaultWrite c p bs).rsvHolder = s.rsvHolder := rfl
@[simp] theorem State.vaultWrite_outbox (c p : Nat) (bs : List Byte) : (s.vaultWrite c p bs).outbox = s.outbox := rfl
@[simp] theorem State.vaultWrite_partsOut (c p : Nat) (bs : List Byte) : (s.vaultWrite c p bs).partsOut = s.partsOut := rfl
@[simp] theorem State.vaultWrite_absent (c p : Nat) (bs : List Byte) : (s.vaultWrite c p bs).absent = s.absent := rfl
@[simp] theorem State.vaultWrite_recovery (c p : Nat) (bs : List Byte) : (s.vaultWrite c p bs).recovery = s.recovery := rfl
@[simp] theorem State.vaultWrite_cores (c p : Nat) (bs : List Byte) : (s.vaultWrite c p bs).cores = s.cores := rfl

end Sys2Proof.Machine
end

