-- ==== Sys2Proof/Laws/Access.lean ====
section
/-! SUPPORT. Cores, contexts, threads and registers read back what was written, and a write to one leaves the others alone. -/
namespace Sys2Proof.Machine

variable (s : State)

/-! ## Cores -/

theorem State.core_setCore (c d : Nat) (k : Core) : (s.setCore c k).core d = if d = c then k else s.core d := FMap.get_put ..
@[simp] theorem State.core_setCore_self (c : Nat) (k : Core) : (s.setCore c k).core c = k := by simp [State.core_setCore]
@[simp] theorem State.core_upCore_self (c : Nat) (f : Core → Core) : (s.upCore c f).core c = f (s.core c) :=
  State.core_setCore_self ..

/-! ## The running context -/

@[simp] theorem Core.runs1_setCx (k : Core) (x : Ctx) : (k.setCx x).runs1 = k.runs1 := by
  unfold Core.setCx; split <;> rfl
@[simp] theorem Core.cx_setCx (k : Core) (x : Ctx) : (k.setCx x).cx = x := by
  unfold Core.cx; rw [Core.runs1_setCx]; unfold Core.setCx; split <;> simp_all
@[simp] theorem Core.setCx_cx (k : Core) : k.setCx k.cx = k := by
  unfold Core.setCx Core.cx; split <;> rfl
theorem State.core_setCx (c d : Nat) (x : Ctx) : (s.setCx c x).core d = if d = c then (s.core c).setCx x else s.core d :=
  State.core_setCore ..
theorem State.cx_setCx (c d : Nat) (x : Ctx) : (s.setCx c x).cx d = if d = c then x else s.cx d := by
  unfold State.cx; rw [State.core_setCx]; split <;> simp
@[simp] theorem State.cx_setCx_self (c : Nat) (x : Ctx) : (s.setCx c x).cx c = x := by simp [State.cx_setCx]
@[simp] theorem State.cx_upCx_self (c : Nat) (f : Ctx → Ctx) : (s.upCx c f).cx c = f (s.cx c) := State.cx_setCx_self ..

/-! ## Threads -/

theorem State.arch_setArch (c d : Nat) (a : Arch) : (s.setArch c a).arch d = if d = c then a else s.arch d := by
  unfold State.arch State.setArch; rw [State.cx_setCx]; split <;> rfl
@[simp] theorem State.arch_setArch_self (c : Nat) (a : Arch) : (s.setArch c a).arch c = a := by simp [State.arch_setArch]
theorem Arch.mt_setMt (a : Arch) (i j : Nat) (m : Mt) : (a.setMt i m).mt j = if j = i then m else a.mt j := FMap.get_put ..
theorem Arch.thr_setThr (a : Arch) (t u : Nat) (v : Thr) : (a.setThr t v).thr u = if u = t then v else a.thr u := by
  unfold Arch.thr Arch.setThr
  by_cases ht : t = 16 <;> by_cases hu : u = 16 <;> by_cases h : u = t <;>
    simp_all [Arch.mt, Arch.setMt, FMap.get_put]
theorem State.thrAt_setThrAt (c d t u : Nat) (v : Thr) :
    (s.setThrAt c t v).thrAt d u = if d = c ∧ u = t then v else s.thrAt d u := by
  unfold State.thrAt State.setThrAt
  rw [State.arch_setArch]
  by_cases h : d = c
  · subst h; simp [Arch.thr_setThr]
  · simp [h]
@[simp] theorem State.thrAt_setThrAt_self (c t : Nat) (v : Thr) : (s.setThrAt c t v).thrAt c t = v := by
  simp [State.thrAt_setThrAt]
@[simp] theorem State.thr_setThr (v : Thr) : (s.setThr v).thr = v := by
  simp [State.thr, State.setThr]

/-! ## Registers (01 R9, R10) -/

@[simp] theorem Thr.getX_zero (t : Thr) : t.getX 0 = 0 := rfl
@[simp] theorem Thr.getF_zero (t : Thr) : t.getF 0 = true := rfl
theorem Thr.getX_setX (t : Thr) (n m : Nat) (v : Word) :
    (t.setX n v).getX m = if m = n ∧ n ≠ 0 then v else t.getX m := by
  unfold Thr.getX Thr.setX
  by_cases hn : n = 0 <;> by_cases hm : m = 0 <;> by_cases h : m = n <;> simp_all [FMap.get_set]
theorem State.x_setX (n m : Nat) (v : Word) : (s.setX n v).x m = if m = n ∧ n ≠ 0 then v else s.x m := by
  simp [State.x, State.setX, Thr.getX_setX]
@[simp] theorem State.x_zero : s.x 0 = 0 := rfl
@[simp] theorem State.setX_zero_x (m : Nat) (v : Word) : (s.setX 0 v).x m = s.x m := by simp [State.x_setX]
@[simp] theorem State.f_zero : s.f 0 = true := rfl

/-! ## Registers of the package and of a die (10 R309; 13 R386) -/

theorem State.pkgReg_setPkgReg (a b : Nat) (v : Word) : (s.setPkgReg a v).pkgReg b = if b = a then v else s.pkgReg b := by
  unfold State.pkgReg State.setPkgReg
  by_cases h : b = a
  · subst h; simp
  · rw [if_neg h]; exact FMap.get_set_other _ _ _ _ _ _ h

theorem State.lineTag_setLineTag_self (c l : Nat) (t : LineTag) : (s.setLineTag c l t).lineTag c l = t := by
  simp [State.lineTag, State.setLineTag]

/-! ## The vault (01 R17) -/

/-- Bytes put beside protected units keep the form. -/
theorem putBytes_wf (m : Memory) (objs : List Nat) (a : Nat) (bs : List Byte) (h : m.wf = true) : (putBytes m objs a bs).wf = true := by
  unfold putBytes
  dsimp only
  generalize bs.zip _ = l
  induction l generalizing m a with
  | nil => exact h
  | cons e r ih =>
    rw [List.foldl_cons]
    exact ih _ _ (by dsimp only; split; exact h; exact Memory.wf_write _ _ _ h)

/-- A write to a slot keeps the form. -/
theorem State.vaultWrite_wf (s : State) (c p : Nat) (bs : List Byte) (h : s.vault.wf = true) :
    (s.vaultWrite c p bs).vault.wf = true := putBytes_wf _ _ _ _ h

end Sys2Proof.Machine
end

