-- ==== Sys2Proof/Laws/Decode.lean ====
section
/-! SUPPORT. The majors of base words: no base word of an allocated major is a prefix word (02 R42, R45). -/
namespace Sys2Proof

/-- The bits of the upper part of a concatenation. -/
theorem append_top {k n : Nat} (m : BitVec k) (x : BitVec n) (i : Nat) : (m ++ x).getLsbD (n + i) = m.getLsbD i := by
  rw [BitVec.getLsbD_append]; simp

/-- A word whose upper bits are a major is a prefix word when the upper three bits of the major are ones. -/
theorem isPfx_of {w : Half} {m : BitVec 6} (h : ∀ i, w.getLsbD (13 + i) = m.getLsbD (3 + i)) :
    isPfx w = (m.extractLsb' 3 3 == 7) := by
  unfold isPfx
  congr 1
  exact BitVec.eq_of_getLsbD_eq fun i _ => by rw [BitVec.getLsbD_extractLsb', BitVec.getLsbD_extractLsb', h]
theorem isPfx_wA (m : BitVec 6) (f : FA) (z : BitVec 2) : isPfx (wA m f z) = (m.extractLsb' 3 3 == 7) :=
  isPfx_of fun i => by
    show (m ++ f.d ++ f.s ++ z).getLsbD (13 + i) = _
    rw [show 13 + i = 2 + (4 + (4 + (3 + i))) by omega, append_top, append_top, append_top]
theorem isPfx_wZ (m : BitVec 6) (f : FAZ) : isPfx (wZ m f) = (m.extractLsb' 3 3 == 7) := isPfx_wA m ⟨f.d, f.s⟩ f.z
theorem isPfx_wI (m : BitVec 6) (f : FI) : isPfx (wI m f) = (m.extractLsb' 3 3 == 7) :=
  isPfx_of fun i => by
    show (m ++ f.d ++ f.i).getLsbD (13 + i) = _
    rw [show 13 + i = 6 + (4 + (3 + i)) by omega, append_top, append_top]
theorem isPfx_wB (m : BitVec 6) (o : BitVec 10) : isPfx (wB m o) = (m.extractLsb' 3 3 == 7) :=
  isPfx_of fun i => by
    show (m ++ o).getLsbD (13 + i) = _
    rw [show 13 + i = 10 + (3 + i) by omega, append_top]
theorem isPfx_wV (m : BitVec 6) (f : FV) : isPfx (wV m f) = (m.extractLsb' 3 3 == 7) :=
  isPfx_of fun i => by
    show (m ++ f.d ++ f.a ++ f.b ++ f.h).getLsbD (13 + i) = _
    rw [show 13 + i = 1 + (3 + (3 + (3 + (3 + i)))) by omega, append_top, append_top, append_top, append_top]

end Sys2Proof
end

