-- ==== Sys2Proof/Laws/PerInstr.lean ====
section
/-! SUPPORT. Per instruction: its prefixes are those of its form, and its base word is no prefix word (02 R45, R65–R67), so
a chain ends where its base word stands. -/
namespace Sys2Proof.Laws.Encodable

open Sys2Proof

/-- The prefixes of the words are those of the form, and the base word is no prefix. -/
def Statement (i : Instr) : Prop :=
  i.form.map (·.2) = i.words.map (·.2.1) ∧ ∀ x, i.words = some x → isPfx x.2.2 = false

/-- An instruction with words. -/
theorem statement_of {i : Instr} {pg : Option (BitVec 11)} {p : Pfx} {w : Half}
    (h : i.words = some (pg, p, w)) (hf : i.form.map (·.2) = some p) (hw : isPfx w = false) : Statement i := by
  refine ⟨by rw [hf, h]; rfl, fun x hx => ?_⟩
  rw [h] at hx; cases hx; exact hw

/-- An event, which has no words. -/
theorem statement_none {i : Instr} (h : i.words = none) (hf : i.form = none) : Statement i :=
  ⟨by rw [hf, h]; rfl, fun x hx => by rw [h] at hx; cases hx⟩

theorem add : ∀ p f, Statement (.add p f) := fun _ _ => statement_of rfl rfl (by rw [isPfx_wA]; decide)
theorem sub : ∀ p f, Statement (.sub p f) := fun _ _ => statement_of rfl rfl (by rw [isPfx_wA]; decide)
theorem and : ∀ p f, Statement (.and p f) := fun _ _ => statement_of rfl rfl (by rw [isPfx_wA]; decide)
theorem or : ∀ p f, Statement (.or p f) := fun _ _ => statement_of rfl rfl (by rw [isPfx_wA]; decide)
theorem xor : ∀ p f, Statement (.xor p f) := fun _ _ => statement_of rfl rfl (by rw [isPfx_wA]; decide)
theorem andn : ∀ p f, Statement (.andn p f) := fun _ _ => statement_of rfl rfl (by rw [isPfx_wA]; decide)
theorem mov : ∀ p f, Statement (.mov p f) := fun _ _ => statement_of rfl rfl (by rw [isPfx_wA]; decide)
theorem shl : ∀ p f, Statement (.shl p f) := fun _ _ => statement_of rfl rfl (by rw [isPfx_wA]; decide)
theorem shr : ∀ p f, Statement (.shr p f) := fun _ _ => statement_of rfl rfl (by rw [isPfx_wA]; decide)
theorem sar : ∀ p f, Statement (.sar p f) := fun _ _ => statement_of rfl rfl (by rw [isPfx_wA]; decide)
theorem mul : ∀ p f, Statement (.mul p f) := fun _ _ => statement_of rfl rfl (by rw [isPfx_wA]; decide)
theorem mulh : ∀ p f, Statement (.mulh p f) := fun _ _ => statement_of rfl rfl (by rw [isPfx_wA]; decide)
theorem mulhn : ∀ p f, Statement (.mulhn p f) := fun _ _ => statement_of rfl rfl (by rw [isPfx_wA]; decide)
theorem div : ∀ p f, Statement (.div p f) := fun _ _ => statement_of rfl rfl (by rw [isPfx_wA]; decide)
theorem divn : ∀ p f, Statement (.divn p f) := fun _ _ => statement_of rfl rfl (by rw [isPfx_wA]; decide)
theorem rem : ∀ p f, Statement (.rem p f) := fun _ _ => statement_of rfl rfl (by rw [isPfx_wA]; decide)
theorem remn : ∀ p f, Statement (.remn p f) := fun _ _ => statement_of rfl rfl (by rw [isPfx_wA]; decide)
theorem min : ∀ p f, Statement (.min p f) := fun _ _ => statement_of rfl rfl (by rw [isPfx_wA]; decide)
theorem minn : ∀ p f, Statement (.minn p f) := fun _ _ => statement_of rfl rfl (by rw [isPfx_wA]; decide)
theorem max : ∀ p f, Statement (.max p f) := fun _ _ => statement_of rfl rfl (by rw [isPfx_wA]; decide)
theorem maxn : ∀ p f, Statement (.maxn p f) := fun _ _ => statement_of rfl rfl (by rw [isPfx_wA]; decide)
theorem clz : ∀ p f, Statement (.clz p f) := fun _ _ => statement_of rfl rfl (by rw [isPfx_wA]; decide)
theorem ctz : ∀ p f, Statement (.ctz p f) := fun _ _ => statement_of rfl rfl (by rw [isPfx_wA]; decide)
theorem popc : ∀ p f, Statement (.popc p f) := fun _ _ => statement_of rfl rfl (by rw [isPfx_wA]; decide)
theorem bext : ∀ p f, Statement (.bext p f) := fun _ _ => statement_of rfl rfl (by rw [isPfx_wA]; decide)
theorem bins : ∀ p f, Statement (.bins p f) := fun _ _ => statement_of rfl rfl (by rw [isPfx_wA]; decide)
theorem cmpEq : ∀ p f, Statement (.cmpEq p f) := fun _ _ => statement_of rfl rfl (by rw [isPfx_wA]; decide)
theorem cmpNe : ∀ p f, Statement (.cmpNe p f) := fun _ _ => statement_of rfl rfl (by rw [isPfx_wA]; decide)
theorem cmpLt : ∀ p f, Statement (.cmpLt p f) := fun _ _ => statement_of rfl rfl (by rw [isPfx_wA]; decide)
theorem cmpGe : ∀ p f, Statement (.cmpGe p f) := fun _ _ => statement_of rfl rfl (by rw [isPfx_wA]; decide)
theorem cmpLtn : ∀ p f, Statement (.cmpLtn p f) := fun _ _ => statement_of rfl rfl (by rw [isPfx_wA]; decide)
theorem cmpGen : ∀ p f, Statement (.cmpGen p f) := fun _ _ => statement_of rfl rfl (by rw [isPfx_wA]; decide)
theorem li : ∀ p f, Statement (.li p f) := fun _ _ => statement_of rfl rfl (by rw [isPfx_wI]; decide)
theorem addi : ∀ p f, Statement (.addi p f) := fun _ _ => statement_of rfl rfl (by rw [isPfx_wI]; decide)
theorem sel : ∀ p f, Statement (.sel p f) := fun _ _ => statement_of rfl rfl (by rw [isPfx_wA]; decide)
theorem br : ∀ p o, Statement (.br p o) := fun _ _ => statement_of rfl rfl (by rw [isPfx_wB]; decide)
theorem brc : ∀ p f, Statement (.brc p f) := fun _ _ => statement_of rfl rfl (by rw [isPfx_wI]; decide)
theorem call : ∀ p o, Statement (.call p o) := fun _ _ => statement_of rfl rfl (by rw [isPfx_wB]; decide)
theorem loop : ∀ p f, Statement (.loop p f) := fun _ _ => statement_of rfl rfl (by rw [isPfx_wI]; decide)
theorem jmp : ∀ p f, Statement (.jmp p f) := fun _ _ => statement_of rfl rfl (by rw [isPfx_wA]; decide)
theorem ret : ∀ p f, Statement (.ret p f) := fun _ _ => statement_of rfl rfl (by rw [isPfx_wA]; decide)
theorem stop : ∀ p f, Statement (.stop p f) := fun _ _ => statement_of rfl rfl (by rw [isPfx_wA]; decide)
theorem nop : ∀ p f, Statement (.nop p f) := fun _ _ => statement_of rfl rfl (by rw [isPfx_wA]; decide)
theorem ldSigned : ∀ p f, Statement (.ldSigned p f) := fun _ _ => statement_of rfl rfl (by rw [isPfx_wZ]; decide)
theorem ldUnsigned : ∀ p f, Statement (.ldUnsigned p f) := fun _ _ => statement_of rfl rfl (by rw [isPfx_wZ]; decide)
theorem st : ∀ p f, Statement (.st p f) := fun _ _ => statement_of rfl rfl (by rw [isPfx_wZ]; decide)
theorem spldSigned : ∀ p f, Statement (.spldSigned p f) := fun _ _ => statement_of rfl rfl (by rw [isPfx_wZ]; decide)
theorem spldUnsigned : ∀ p f, Statement (.spldUnsigned p f) :=
  fun _ _ => statement_of rfl rfl (by rw [isPfx_wZ]; decide)
theorem spst : ∀ p f, Statement (.spst p f) := fun _ _ => statement_of rfl rfl (by rw [isPfx_wZ]; decide)
theorem amo : ∀ p f, Statement (.amo p f) := fun _ _ => statement_of rfl rfl (by rw [isPfx_wZ]; decide)
theorem cas : ∀ p f, Statement (.cas p f) := fun _ _ => statement_of rfl rfl (by rw [isPfx_wZ]; decide)
theorem famo : ∀ p f, Statement (.famo p f) := fun _ _ => statement_of rfl rfl (by rw [isPfx_wZ]; decide)
theorem fencePkg : ∀ p f, Statement (.fencePkg p f) := fun _ _ => statement_of rfl rfl (by rw [isPfx_wA]; decide)
theorem fenceSys : ∀ p f, Statement (.fenceSys p f) := fun _ _ => statement_of rfl rfl (by rw [isPfx_wA]; decide)
theorem qpop : ∀ p f, Statement (.qpop p f) := fun _ _ => statement_of rfl rfl (by rw [isPfx_wA]; decide)
theorem qpush : ∀ p f, Statement (.qpush p f) := fun _ _ => statement_of rfl rfl (by rw [isPfx_wA]; decide)
theorem lsend : ∀ p f, Statement (.lsend p f) := fun _ _ => statement_of rfl rfl (by rw [isPfx_wA]; decide)
theorem lrecv : ∀ p f, Statement (.lrecv p f) := fun _ _ => statement_of rfl rfl (by rw [isPfx_wA]; decide)
theorem rng : ∀ p f, Statement (.rng p f) := fun _ _ => statement_of rfl rfl (by rw [isPfx_wI]; decide)
theorem rdid : ∀ p f, Statement (.rdid p f) := fun _ _ => statement_of rfl rfl (by rw [isPfx_wI]; decide)
theorem csrr : ∀ p f, Statement (.csrr p f) := fun _ _ => statement_of rfl rfl (by rw [isPfx_wI]; decide)
theorem csrw : ∀ p f, Statement (.csrw p f) := fun _ _ => statement_of rfl rfl (by rw [isPfx_wI]; decide)
theorem trap : ∀ p f, Statement (.trap p f) := fun _ _ => statement_of rfl rfl (by rw [isPfx_wI]; decide)
theorem brk : ∀ p f, Statement (.brk p f) := fun _ _ => statement_of rfl rfl (by rw [isPfx_wA]; decide)
theorem eret : ∀ p f, Statement (.eret p f) := fun _ _ => statement_of rfl rfl (by rw [isPfx_wA]; decide)
theorem cut : ∀ p f, Statement (.cut p f) := fun _ _ => statement_of rfl rfl (by rw [isPfx_wA]; decide)
theorem vadd : ∀ p f, Statement (.vadd p f) := fun _ _ => statement_of rfl rfl (by rw [isPfx_wV]; decide)
theorem vsub : ∀ p f, Statement (.vsub p f) := fun _ _ => statement_of rfl rfl (by rw [isPfx_wV]; decide)
theorem vmul : ∀ p f, Statement (.vmul p f) := fun _ _ => statement_of rfl rfl (by rw [isPfx_wV]; decide)
theorem vfma : ∀ p f, Statement (.vfma p f) := fun _ _ => statement_of rfl rfl (by rw [isPfx_wV]; decide)
theorem vfms : ∀ p f, Statement (.vfms p f) := fun _ _ => statement_of rfl rfl (by rw [isPfx_wV]; decide)
theorem vmax : ∀ p f, Statement (.vmax p f) := fun _ _ => statement_of rfl rfl (by rw [isPfx_wV]; decide)
theorem vmin : ∀ p f, Statement (.vmin p f) := fun _ _ => statement_of rfl rfl (by rw [isPfx_wV]; decide)
theorem vand : ∀ p f, Statement (.vand p f) := fun _ _ => statement_of rfl rfl (by rw [isPfx_wV]; decide)
theorem vor : ∀ p f, Statement (.vor p f) := fun _ _ => statement_of rfl rfl (by rw [isPfx_wV]; decide)
theorem vxor : ∀ p f, Statement (.vxor p f) := fun _ _ => statement_of rfl rfl (by rw [isPfx_wV]; decide)
theorem vshl : ∀ p f, Statement (.vshl p f) := fun _ _ => statement_of rfl rfl (by rw [isPfx_wV]; decide)
theorem vshr : ∀ p f, Statement (.vshr p f) := fun _ _ => statement_of rfl rfl (by rw [isPfx_wV]; decide)
theorem vmac : ∀ p f, Statement (.vmac p f) := fun _ _ => statement_of rfl rfl (by rw [isPfx_wV]; decide)
theorem vcmp : ∀ p f t, Statement (.vcmp p f t) := fun _ _ _ => statement_of rfl rfl (by rw [isPfx_wV]; decide)
theorem vsel : ∀ p f, Statement (.vsel p f) := fun _ _ => statement_of rfl rfl (by rw [isPfx_wV]; decide)
theorem vredsum : ∀ p f o, Statement (.vredsum p f o) := fun _ _ _ => statement_of rfl rfl (by rw [isPfx_wV]; decide)
theorem vredmax : ∀ p f o, Statement (.vredmax p f o) := fun _ _ _ => statement_of rfl rfl (by rw [isPfx_wV]; decide)
theorem vredmin : ∀ p f o, Statement (.vredmin p f o) := fun _ _ _ => statement_of rfl rfl (by rw [isPfx_wV]; decide)
theorem vdot : ∀ p f o, Statement (.vdot p f o) := fun _ _ _ => statement_of rfl rfl (by rw [isPfx_wV]; decide)
theorem vexp2 : ∀ p f, Statement (.vexp2 p f) := fun _ _ => statement_of rfl rfl (by rw [isPfx_wV]; decide)
theorem vlog2 : ∀ p f, Statement (.vlog2 p f) := fun _ _ => statement_of rfl rfl (by rw [isPfx_wV]; decide)
theorem vrcp : ∀ p f, Statement (.vrcp p f) := fun _ _ => statement_of rfl rfl (by rw [isPfx_wV]; decide)
theorem vrsqrt : ∀ p f, Statement (.vrsqrt p f) := fun _ _ => statement_of rfl rfl (by rw [isPfx_wV]; decide)
theorem vsqrt : ∀ p f, Statement (.vsqrt p f) := fun _ _ => statement_of rfl rfl (by rw [isPfx_wV]; decide)
theorem vtanh : ∀ p f, Statement (.vtanh p f) := fun _ _ => statement_of rfl rfl (by rw [isPfx_wV]; decide)
theorem vsig : ∀ p f, Statement (.vsig p f) := fun _ _ => statement_of rfl rfl (by rw [isPfx_wV]; decide)
theorem vsin : ∀ p f, Statement (.vsin p f) := fun _ _ => statement_of rfl rfl (by rw [isPfx_wV]; decide)
theorem vcos : ∀ p f, Statement (.vcos p f) := fun _ _ => statement_of rfl rfl (by rw [isPfx_wV]; decide)
theorem vcvt : ∀ p f o, Statement (.vcvt p f o) := fun _ _ _ => statement_of rfl rfl (by rw [isPfx_wV]; decide)
theorem vqmx : ∀ p f o, Statement (.vqmx p f o) := fun _ _ _ => statement_of rfl rfl (by rw [isPfx_wV]; decide)
theorem vdqmx : ∀ p f, Statement (.vdqmx p f) := fun _ _ => statement_of rfl rfl (by rw [isPfx_wV]; decide)
theorem vqbx : ∀ p f o, Statement (.vqbx p f o) := fun _ _ _ => statement_of rfl rfl (by rw [isPfx_wV]; decide)
theorem vdqbx : ∀ p f, Statement (.vdqbx p f) := fun _ _ => statement_of rfl rfl (by rw [isPfx_wV]; decide)
theorem vtag : ∀ p f t, Statement (.vtag p f t) := fun _ _ _ => statement_of rfl rfl (by rw [isPfx_wV]; decide)
theorem vgtag : ∀ p f r, Statement (.vgtag p f r) := fun _ _ _ => statement_of rfl rfl (by rw [isPfx_wZ]; decide)
theorem vmov : ∀ p f, Statement (.vmov p f) := fun _ _ => statement_of rfl rfl (by rw [isPfx_wV]; decide)
theorem vbcast : ∀ p f r t, Statement (.vbcast p f r t) :=
  fun _ _ _ _ => statement_of rfl rfl (by rw [isPfx_wZ]; decide)
theorem vperm : ∀ p f, Statement (.vperm p f) := fun _ _ => statement_of rfl rfl (by rw [isPfx_wV]; decide)
theorem vshuf : ∀ p f o, Statement (.vshuf p f o) := fun _ _ _ => statement_of rfl rfl (by rw [isPfx_wV]; decide)
theorem vext : ∀ p f r t, Statement (.vext p f r t) := fun _ _ _ _ => statement_of rfl rfl (by rw [isPfx_wZ]; decide)
theorem vins : ∀ p f r t, Statement (.vins p f r t) := fun _ _ _ _ => statement_of rfl rfl (by rw [isPfx_wZ]; decide)
theorem vld : ∀ p f r t, Statement (.vld p f r t) := fun _ _ _ _ => statement_of rfl rfl (by rw [isPfx_wZ]; decide)
theorem vst : ∀ p f r t, Statement (.vst p f r t) := fun _ _ _ _ => statement_of rfl rfl (by rw [isPfx_wZ]; decide)
theorem aaddX : ∀ p f r, Statement (.aaddX p f r) := fun _ _ _ => statement_of rfl rfl (by rw [isPfx_wA]; decide)
theorem aaddA : ∀ p f r, Statement (.aaddA p f r) := fun _ _ _ => statement_of rfl rfl (by rw [isPfx_wA]; decide)
theorem ali : ∀ p f r, Statement (.ali p f r) := fun _ _ _ => statement_of rfl rfl (by rw [isPfx_wI]; decide)
theorem amovAx : ∀ p f r, Statement (.amovAx p f r) := fun _ _ _ => statement_of rfl rfl (by rw [isPfx_wA]; decide)
theorem amovXa : ∀ p f r, Statement (.amovXa p f r) := fun _ _ _ => statement_of rfl rfl (by rw [isPfx_wA]; decide)
theorem amovMx : ∀ p f r, Statement (.amovMx p f r) := fun _ _ _ => statement_of rfl rfl (by rw [isPfx_wA]; decide)
theorem amovXm : ∀ p f r, Statement (.amovXm p f r) := fun _ _ _ => statement_of rfl rfl (by rw [isPfx_wA]; decide)
theorem bcast : ∀ p f, Statement (.bcast p f) := fun _ _ => statement_of rfl rfl (by rw [isPfx_wI]; decide)
theorem mtgo : ∀ p f, Statement (.mtgo p f) := fun _ _ => statement_of rfl rfl (by rw [isPfx_wI]; decide)
theorem mtjoin : ∀ p f, Statement (.mtjoin p f) := fun _ _ => statement_of rfl rfl (by rw [isPfx_wZ]; decide)
theorem mtstat : ∀ p f o, Statement (.mtstat p f o) := fun _ _ _ => statement_of rfl rfl (by rw [isPfx_wZ]; decide)
theorem mtres : ∀ p f o, Statement (.mtres p f o) := fun _ _ _ => statement_of rfl rfl (by rw [isPfx_wZ]; decide)
theorem mtkill : ∀ p f, Statement (.mtkill p f) := fun _ _ => statement_of rfl rfl (by rw [isPfx_wZ]; decide)
theorem qwr : ∀ p f, Statement (.qwr p f) := fun _ _ => statement_of rfl rfl (by rw [isPfx_wZ]; decide)
theorem qrd : ∀ p f, Statement (.qrd p f) := fun _ _ => statement_of rfl rfl (by rw [isPfx_wZ]; decide)
theorem gang : ∀ p f, Statement (.gang p f) := fun _ _ => statement_of rfl rfl (by rw [isPfx_wI]; decide)
theorem split : ∀ p f, Statement (.split p f) := fun _ _ => statement_of rfl rfl (by rw [isPfx_wZ]; decide)
theorem ctpl : ∀ p f o, Statement (.ctpl p f o) := fun _ _ _ => statement_of rfl rfl (by rw [isPfx_wZ]; decide)
theorem cwait : ∀ p f, Statement (.cwait p f) := fun _ _ => statement_of rfl rfl (by rw [isPfx_wI]; decide)
theorem cread : ∀ p f o, Statement (.cread p f o) := fun _ _ _ => statement_of rfl rfl (by rw [isPfx_wZ]; decide)
theorem cset : ∀ p f, Statement (.cset p f) := fun _ _ => statement_of rfl rfl (by rw [isPfx_wZ]; decide)
theorem wmrd : ∀ p f, Statement (.wmrd p f) := fun _ _ => statement_of rfl rfl (by rw [isPfx_wZ]; decide)
theorem epush : ∀ p f, Statement (.epush p f) := fun _ _ => statement_of rfl rfl (by rw [isPfx_wZ]; decide)
theorem epop : ∀ p f, Statement (.epop p f) := fun _ _ => statement_of rfl rfl (by rw [isPfx_wZ]; decide)
theorem msetA : ∀ p f, Statement (.msetA p f) := fun _ _ => statement_of rfl rfl (by rw [isPfx_wZ]; decide)
theorem msetB : ∀ p f, Statement (.msetB p f) := fun _ _ => statement_of rfl rfl (by rw [isPfx_wZ]; decide)
theorem msetOp : ∀ p f, Statement (.msetOp p f) := fun _ _ => statement_of rfl rfl (by rw [isPfx_wZ]; decide)
theorem mgo : ∀ p f, Statement (.mgo p f) := fun _ _ => statement_of rfl rfl (by rw [isPfx_wZ]; decide)
theorem mzero : ∀ p f, Statement (.mzero p f) := fun _ _ => statement_of rfl rfl (by rw [isPfx_wZ]; decide)
theorem mrd : ∀ p f, Statement (.mrd p f) := fun _ _ => statement_of rfl rfl (by rw [isPfx_wZ]; decide)
theorem mwr : ∀ p f, Statement (.mwr p f) := fun _ _ => statement_of rfl rfl (by rw [isPfx_wZ]; decide)
theorem msclSet : ∀ p f, Statement (.msclSet p f) := fun _ _ => statement_of rfl rfl (by rw [isPfx_wZ]; decide)
theorem msclRd : ∀ p f, Statement (.msclRd p f) := fun _ _ => statement_of rfl rfl (by rw [isPfx_wZ]; decide)
theorem msclClr : ∀ p f, Statement (.msclClr p f) := fun _ _ => statement_of rfl rfl (by rw [isPfx_wZ]; decide)
theorem gemvh : ∀ p f, Statement (.gemvh p f) := fun _ _ => statement_of rfl rfl (by rw [isPfx_wZ]; decide)
theorem barinit : ∀ p f, Statement (.barinit p f) := fun _ _ => statement_of rfl rfl (by rw [isPfx_wZ]; decide)
theorem barv : ∀ p f, Statement (.barv p f) := fun _ _ => statement_of rfl rfl (by rw [isPfx_wI]; decide)
theorem barw : ∀ p f, Statement (.barw p f) := fun _ _ => statement_of rfl rfl (by rw [isPfx_wZ]; decide)
theorem dsync : ∀ p f, Statement (.dsync p f) := fun _ _ => statement_of rfl rfl (by rw [isPfx_wI]; decide)
theorem dmemCl : ∀ p f, Statement (.dmemCl p f) := fun _ _ => statement_of rfl rfl (by rw [isPfx_wZ]; decide)
theorem dmemDie : ∀ p f, Statement (.dmemDie p f) := fun _ _ => statement_of rfl rfl (by rw [isPfx_wZ]; decide)
theorem dmemPkg : ∀ p f, Statement (.dmemPkg p f) := fun _ _ => statement_of rfl rfl (by rw [isPfx_wZ]; decide)
theorem ldsh : ∀ p f x h, Statement (.ldsh p f x h) := fun _ _ _ _ => statement_of rfl rfl (by rw [isPfx_wZ]; decide)
theorem stsh : ∀ p f h, Statement (.stsh p f h) := fun _ _ _ => statement_of rfl rfl (by rw [isPfx_wZ]; decide)
theorem shfence : ∀ p f, Statement (.shfence p f) := fun _ _ => statement_of rfl rfl (by rw [isPfx_wI]; decide)
theorem feld : ∀ p f m, Statement (.feld p f m) := fun _ _ _ => statement_of rfl rfl (by rw [isPfx_wZ]; decide)
theorem fest : ∀ p f m, Statement (.fest p f m) := fun _ _ _ => statement_of rfl rfl (by rw [isPfx_wZ]; decide)
theorem netpost : ∀ p f, Statement (.netpost p f) := fun _ _ => statement_of rfl rfl (by rw [isPfx_wZ]; decide)
theorem netpostM : ∀ p f, Statement (.netpostM p f) := fun _ _ => statement_of rfl rfl (by rw [isPfx_wZ]; decide)
theorem tlbiPage : ∀ p f, Statement (.tlbiPage p f) := fun _ _ => statement_of rfl rfl (by rw [isPfx_wZ]; decide)
theorem tlbiAsid : ∀ p f, Statement (.tlbiAsid p f) := fun _ _ => statement_of rfl rfl (by rw [isPfx_wZ]; decide)
theorem tlbiAll : ∀ p f, Statement (.tlbiAll p f) := fun _ _ => statement_of rfl rfl (by rw [isPfx_wZ]; decide)
theorem tlbiWbinv : ∀ p f, Statement (.tlbiWbinv p f) := fun _ _ => statement_of rfl rfl (by rw [isPfx_wZ]; decide)
theorem chkcfgLen : ∀ p f, Statement (.chkcfgLen p f) := fun _ _ => statement_of rfl rfl (by rw [isPfx_wZ]; decide)
theorem chkcfgStat : ∀ p f, Statement (.chkcfgStat p f) := fun _ _ => statement_of rfl rfl (by rw [isPfx_wZ]; decide)
theorem chkcfgOrder : ∀ p f, Statement (.chkcfgOrder p f) :=
  fun _ _ => statement_of rfl rfl (by rw [isPfx_wZ]; decide)
theorem seedrd : ∀ p f, Statement (.seedrd p f) := fun _ _ => statement_of rfl rfl (by rw [isPfx_wZ]; decide)
theorem seedrdDepth : ∀ p f, Statement (.seedrdDepth p f) :=
  fun _ _ => statement_of rfl rfl (by rw [isPfx_wZ]; decide)
theorem digrd : ∀ p f, Statement (.digrd p f) := fun _ _ => statement_of rfl rfl (by rw [isPfx_wZ]; decide)
theorem digrdQ : ∀ p f, Statement (.digrdQ p f) := fun _ _ => statement_of rfl rfl (by rw [isPfx_wZ]; decide)
theorem fqRplReady : ∀ a0, Statement (.fqRplReady a0) := fun _ => statement_none rfl rfl
theorem fqRplDecline : ∀ a0, Statement (.fqRplDecline a0) := fun _ => statement_none rfl rfl
theorem stwSend1 : ∀ a0, Statement (.stwSend1 a0) := fun _ => statement_none rfl rfl
theorem stwFwd : ∀ a0, Statement (.stwFwd a0) := fun _ => statement_none rfl rfl
theorem stwRun : ∀ a0, Statement (.stwRun a0) := fun _ => statement_none rfl rfl
theorem cqTailWrite : ∀ a0, Statement (.cqTailWrite a0) := fun _ => statement_none rfl rfl
theorem featureNegotiation : Statement (.featureNegotiation) := statement_none rfl rfl
theorem powerAverageCheck : ∀ a0, Statement (.powerAverageCheck a0) := fun _ => statement_none rfl rfl
theorem torusMessageDeliver : ∀ a0, Statement (.torusMessageDeliver a0) := fun _ => statement_none rfl rfl
theorem errorDetect : ∀ a0, Statement (.errorDetect a0) := fun _ => statement_none rfl rfl
theorem selfTestEnd : ∀ a0, Statement (.selfTestEnd a0) := fun _ => statement_none rfl rfl
theorem coreMapWrite : ∀ a0, Statement (.coreMapWrite a0) := fun _ => statement_none rfl rfl
theorem bootCtlClr : ∀ a0, Statement (.bootCtlClr a0) := fun _ => statement_none rfl rfl
theorem packageReset : ∀ a0, Statement (.packageReset a0) := fun _ => statement_none rfl rfl
theorem dbgCmdResume : ∀ a0, Statement (.dbgCmdResume a0) := fun _ => statement_none rfl rfl
theorem dbgCmdHalt : ∀ a0, Statement (.dbgCmdHalt a0) := fun _ => statement_none rfl rfl
theorem dbgCmdStep : ∀ a0, Statement (.dbgCmdStep a0) := fun _ => statement_none rfl rfl
theorem attn : ∀ a0, Statement (.attn a0) := fun _ => statement_none rfl rfl
theorem hostWrite : ∀ a0 a1 a2, Statement (.hostWrite a0 a1 a2) := fun _ _ _ => statement_none rfl rfl
theorem peerLoad : ∀ a0, Statement (.peerLoad a0) := fun _ => statement_none rfl rfl
theorem bundleRequest : ∀ a0, Statement (.bundleRequest a0) := fun _ => statement_none rfl rfl
theorem bundleAck : ∀ a0, Statement (.bundleAck a0) := fun _ => statement_none rfl rfl
theorem leaseWrite : ∀ a0, Statement (.leaseWrite a0) := fun _ => statement_none rfl rfl
theorem grantRevoke : ∀ a0, Statement (.grantRevoke a0) := fun _ => statement_none rfl rfl
theorem leaseNotice : ∀ a0, Statement (.leaseNotice a0) := fun _ => statement_none rfl rfl
theorem leaseClose : ∀ a0, Statement (.leaseClose a0) := fun _ => statement_none rfl rfl
theorem netPacketArrive : ∀ a0, Statement (.netPacketArrive a0) := fun _ => statement_none rfl rfl
theorem netAck : ∀ a0, Statement (.netAck a0) := fun _ => statement_none rfl rfl
theorem registerWrite : ∀ a0 a1, Statement (.registerWrite a0 a1) := fun _ _ => statement_none rfl rfl
theorem illegalEncoding : ∀ a0, Statement (.illegalEncoding a0) := fun _ => statement_none rfl rfl
theorem thermalThrottling : ∀ a0, Statement (.thermalThrottling a0) := fun _ => statement_none rfl rfl
theorem dynamicCapacityEvent : ∀ a0, Statement (.dynamicCapacityEvent a0) := fun _ => statement_none rfl rfl
theorem errorResponse : ∀ a0, Statement (.errorResponse a0) := fun _ => statement_none rfl rfl
theorem shfenceMessage : ∀ a0, Statement (.shfenceMessage a0) := fun _ => statement_none rfl rfl
theorem shfenceAck : ∀ a0, Statement (.shfenceAck a0) := fun _ => statement_none rfl rfl
theorem farResultArrive : Statement (.farResultArrive) := statement_none rfl rfl
theorem admitEntry : Statement (.admitEntry) := statement_none rfl rfl
theorem mtBeginEntry : Statement (.mtBeginEntry) := statement_none rfl rfl
theorem mtjoinComplete : Statement (.mtjoinComplete) := statement_none rfl rfl
theorem queueStallRelease : Statement (.queueStallRelease) := statement_none rfl rfl
theorem taskInstanceEnd : Statement (.taskInstanceEnd) := statement_none rfl rfl
theorem chunkCut : Statement (.chunkCut) := statement_none rfl rfl
theorem commitRequest : Statement (.commitRequest) := statement_none rfl rfl
theorem writeSignatureArrive : Statement (.writeSignatureArrive) := statement_none rfl rfl
theorem commitFinish : Statement (.commitFinish) := statement_none rfl rfl
theorem reservationRequest : Statement (.reservationRequest) := statement_none rfl rfl
theorem reservationGrant : Statement (.reservationGrant) := statement_none rfl rfl
theorem lateralWaitTimeout : Statement (.lateralWaitTimeout) := statement_none rfl rfl
theorem lateralWaitRelease : Statement (.lateralWaitRelease) := statement_none rfl rfl
theorem steppedTrap : Statement (.steppedTrap) := statement_none rfl rfl
theorem cutWatchdog : Statement (.cutWatchdog) := statement_none rfl rfl
theorem gangForm : Statement (.gangForm) := statement_none rfl rfl
theorem contextSwitch : Statement (.contextSwitch) := statement_none rfl rfl
theorem streaminComplete : Statement (.streaminComplete) := statement_none rfl rfl
theorem drainComplete : Statement (.drainComplete) := statement_none rfl rfl
theorem streamoutComplete : Statement (.streamoutComplete) := statement_none rfl rfl
theorem quantumExpiry : Statement (.quantumExpiry) := statement_none rfl rfl
theorem pageFaultPark : Statement (.pageFaultPark) := statement_none rfl rfl
theorem faultRecordPost : Statement (.faultRecordPost) := statement_none rfl rfl
theorem l2MissTranslate : Statement (.l2MissTranslate) := statement_none rfl rfl
theorem tlbiComplete : Statement (.tlbiComplete) := statement_none rfl rfl
theorem farAtomicApply : Statement (.farAtomicApply) := statement_none rfl rfl
theorem detUpdateArrive : Statement (.detUpdateArrive) := statement_none rfl rfl
theorem detPhaseApply : Statement (.detPhaseApply) := statement_none rfl rfl
theorem copyLineWrite : Statement (.copyLineWrite) := statement_none rfl rfl
theorem copyComplete : Statement (.copyComplete) := statement_none rfl rfl
theorem engineFault : Statement (.engineFault) := statement_none rfl rfl
theorem resumePacket : Statement (.resumePacket) := statement_none rfl rfl
theorem abandonPacket : Statement (.abandonPacket) := statement_none rfl rfl
theorem stewardHalt : Statement (.stewardHalt) := statement_none rfl rfl
theorem gatherElement : Statement (.gatherElement) := statement_none rfl rfl
theorem rowBarrierClose : Statement (.rowBarrierClose) := statement_none rfl rfl
theorem rowBarrierTimeout : Statement (.rowBarrierTimeout) := statement_none rfl rfl
theorem exponentRecord : Statement (.exponentRecord) := statement_none rfl rfl
theorem mgoComplete : Statement (.mgoComplete) := statement_none rfl rfl
theorem mzeroExecute : Statement (.mzeroExecute) := statement_none rfl rfl
theorem mrdExecute : Statement (.mrdExecute) := statement_none rfl rfl
theorem mwrExecute : Statement (.mwrExecute) := statement_none rfl rfl
theorem msclClrExecute : Statement (.msclClrExecute) := statement_none rfl rfl
theorem gemvhExecute : Statement (.gemvhExecute) := statement_none rfl rfl
theorem barrierWake : Statement (.barrierWake) := statement_none rfl rfl
theorem barwTimeout : Statement (.barwTimeout) := statement_none rfl rfl
theorem dsyncArrival : Statement (.dsyncArrival) := statement_none rfl rfl
theorem phaseEndReceive : Statement (.phaseEndReceive) := statement_none rfl rfl
theorem dmemRelease : Statement (.dmemRelease) := statement_none rfl rfl
theorem scrubPass : Statement (.scrubPass) := statement_none rfl rfl
theorem scrubWrite : Statement (.scrubWrite) := statement_none rfl rfl
theorem refreshInterval : Statement (.refreshInterval) := statement_none rfl rfl
theorem heartbeat : Statement (.heartbeat) := statement_none rfl rfl
theorem refreshTakeover : Statement (.refreshTakeover) := statement_none rfl rfl
theorem packetHeaderCheck : Statement (.packetHeaderCheck) := statement_none rfl rfl
theorem packetBegin : Statement (.packetBegin) := statement_none rfl rfl
theorem packetComplete : Statement (.packetComplete) := statement_none rfl rfl
theorem launchPlace : Statement (.launchPlace) := statement_none rfl rfl
theorem launchComplete : Statement (.launchComplete) := statement_none rfl rfl
theorem launchAging : Statement (.launchAging) := statement_none rfl rfl
theorem passedOverLimit : Statement (.passedOverLimit) := statement_none rfl rfl
theorem replayHoldTimeout : Statement (.replayHoldTimeout) := statement_none rfl rfl
theorem pcSample : Statement (.pcSample) := statement_none rfl rfl
theorem traceFull : Statement (.traceFull) := statement_none rfl rfl
theorem linkRequestTimeout : Statement (.linkRequestTimeout) := statement_none rfl rfl
theorem bundleStagingTimeout : Statement (.bundleStagingTimeout) := statement_none rfl rfl
theorem feOperation : Statement (.feOperation) := statement_none rfl rfl
theorem feRetry : Statement (.feRetry) := statement_none rfl rfl
theorem feRetryTimeout : Statement (.feRetryTimeout) := statement_none rfl rfl
theorem feWithdraw : Statement (.feWithdraw) := statement_none rfl rfl
theorem leaseNoticeExpiry : Statement (.leaseNoticeExpiry) := statement_none rfl rfl
theorem netRequestStart : Statement (.netRequestStart) := statement_none rfl rfl
theorem netAckTimer : Statement (.netAckTimer) := statement_none rfl rfl
theorem netRetxTimeout : Statement (.netRetxTimeout) := statement_none rfl rfl
theorem netRnr : Statement (.netRnr) := statement_none rfl rfl
theorem netConnectionTimeout : Statement (.netConnectionTimeout) := statement_none rfl rfl
theorem rnrTimeout : Statement (.rnrTimeout) := statement_none rfl rfl

end Sys2Proof.Laws.Encodable
end

