-- ==== Sys2Proof/Laws/Regs.lean ====
section
/-! SUPPORT. The host's register writes (14 R431), once for every register. -/
namespace Sys2Proof.Machine

/-- With no earlier host write waiting, a register write takes effect at once. -/
theorem State.hostPut_nil (s : State) (a : Nat) (v : Word) (h : s.hostQ = []) : s.hostPut a v = s.regWrite a v := by
  have e : ({ s with hostQ := [] } : State) = s := by cases s; simp_all
  have n : ¬ 2 ^ 52 + a < 2 ^ 52 := by omega
  unfold State.hostPut
  rw [h]
  simp only [List.nil_append, List.length_singleton, State.hostPump, if_neg n, e, Nat.add_sub_cancel_left, BitVec.ofNat_toNat,
    BitVec.setWidth_eq]

/-- A write at a package register's address is one of that register. -/
theorem State.regWrite_pkg (s : State) (a : Nat) (v : Word) (h : a < 2 ^ 20) : s.regWrite a v = s.pkgWrite a v := by
  unfold State.regWrite
  exact if_pos h

/-- A write at a die register's address is one of that register, where the die is present. -/
theorem State.regWrite_die (s : State) (d o : Nat) (v : Word) (hd : d < 4) (ho : o < 2 ^ 16)
    (ha : s.isAbsent d 4095 = false) : s.regWrite (dieAddr d o) v = s.dieWrite d o v := by
  have h1 : (dieAddr d o - 2 ^ 20) / 2 ^ 16 % 4 = d := by unfold dieAddr; omega
  have h2 : (dieAddr d o - 2 ^ 20) % 2 ^ 16 = o := by unfold dieAddr; omega
  have h3 : ¬ dieAddr d o < 2 ^ 20 := by unfold dieAddr; omega
  unfold State.regWrite
  simp only [if_neg h3, h1, h2, ha]
  simp

end Sys2Proof.Machine
end

