-- ==== Sys2Proof/Laws/Run.lean ====
section
/-! SUPPORT. What an instruction does as a whole: outside a row gang, with no cause due and no breakpoint, its checks come first
and then its effect. -/
namespace Sys2Proof

open Machine

/-- A plain state performs the body as it stands. -/
theorem Plain.perform {s : State} (h : Plain s) (b : State → Res) : s.perform b = s.finish (b s) := by
  obtain ⟨h1, h2, h3⟩ := h
  simp [State.perform, h1, State.tryBody, h2, h3]

/-- A passing instruction performs its body. -/
theorem Passes.instr {s : State} {p : Pfx} {r : State → Rules} (h : Passes s p (r s)) (b : State → Res) :
    s.instr p r b = .next (s.finish (b s)) := by
  unfold State.instr; rw [h.1.perform]; simp [h.2]

/-- An instruction that fails a check answers it. -/
theorem Plain.instr_error {s : State} {p : Pfx} {r : State → Rules} (h : Plain s) {e : Stop} (he : s.gate p (r s) = .error e)
    (b : State → Res) : s.instr p r b = .next (s.finish (.error e)) := by
  unfold State.instr; rw [h.perform]; simp [he]

/-- `Passes` as a test. -/
theorem passes_of (s : State) (p : Pfx) (r : Rules)
    (h : (!(s.isCt && s.inStream s.cur.core) && s.thr.late.isNone && !s.breaks &&
      (match s.gate p r with | .ok _ => true | .error _ => false)) = true) : Passes s p r := by
  simp only [Bool.and_eq_true, Bool.not_eq_true', Option.isNone_iff_eq_none] at h
  refine ⟨⟨h.1.1.1, h.1.1.2, h.1.2⟩, ?_⟩
  have h2 := h.2
  split at h2
  · next u hu => exact hu
  · cases h2

/-! ## Completion -/

theorem samePackage_refl (s : State) : SamePackage s s := rfl
theorem SamePackage.trans {s t u : State} (h : SamePackage s t) (h' : SamePackage t u) : SamePackage s u := by
  unfold SamePackage at *; rw [h', h]
theorem samePackage_setCore (s : State) (c : Nat) (k : Core) : SamePackage s (s.setCore c k) := rfl
theorem samePackage_flow (s : State) (fl : Flow) : SamePackage s (s.flow fl) := by cases fl <;> rfl
theorem samePackage_noteCut (s : State) (c : Nat) : SamePackage s (s.noteCut c) := by unfold State.noteCut; split <;> rfl
theorem samePackage_retire (s : State) : SamePackage s s.retire := by
  unfold State.retire
  split
  · rfl
  · exact (show SamePackage s (s.upCx _ _) from rfl).trans (samePackage_noteCut _ _)
theorem samePackage_settle (s : State) (c t : Nat) : SamePackage s (s.settle c t) := by unfold State.settle; split <;> rfl

theorem samePackage_stepEvent (s : State) : SamePackage s s.stepEvent := by
  unfold State.stepEvent
  split <;> first | rfl | (split <;> rfl)

/-- Completion touches only the cores. -/
theorem samePackage_complete (s : State) (fl : Flow) : SamePackage s (s.complete fl) := by
  unfold State.complete
  split
  · rfl
  · dsimp only
    have h := ((samePackage_retire s).trans (samePackage_flow _ fl)).trans
      (samePackage_settle (s.retire.flow fl) s.cur.core s.cur.thr)
    split
    · exact h.trans (samePackage_stepEvent _)
    · exact h

/-- With no cause raised there is no trap. -/
theorem steppedTrap_none (s : State) (c : Nat) (h : (s.gangCores c).any s.anyRaised = false) : s.steppedTrap c = s := by
  simp [State.steppedTrap, h]

end Sys2Proof
end

