-- ==== Sys2Proof/Tests/Slice0.lean ====
section
/-! SUPPORT. Tests: ill-formed terms, words of the spec, single steps, and for every statement with hypotheses a state that
meets them, clause by clause, with the conclusion computed on it. Expected values are the spec's. -/
set_option Elab.async false
namespace Sys2Proof.Tests

open Sys2Proof Sys2Proof.Machine

/-! ## Means -/

/-- `Passes` as a test (`passes_of`). -/
def passB (s : State) (p : Pfx) (r : Rules) : Bool :=
  !(s.isCt && s.inStream s.cur.core) && s.thr.late.isNone && !s.breaks &&
  (match s.gate p r with | .ok _ => true | .error _ => false)
/-- `Plain` as a test. -/
def plainB (s : State) : Bool := !(s.isCt && s.inStream s.cur.core) && s.thr.late.isNone && !s.breaks
/-- `Quiet` as a test. -/
def quietB (s : State) : Bool :=
  !(s.gangCores s.cur.core).any s.anyRaised && !s.thr.stepOne && !((s.arch s.cur.core).dbg.get 0x300 0).getLsbD 4
/-- The value of a computation passes a test. -/
def okB {ε α : Type} (x : Except ε α) (f : α → Bool) : Bool := match x with | .ok a => f a | .error _ => false
/-- The instruction answers a state that passes a test. -/
def nextB (i : Instr) (s : State) (f : State → Bool) : Bool := match exec i s with | .next t => f t | _ => false
/-- `Becomes` as a test. -/
def becomesB (i : Instr) (s t : State) : Bool := nextB i s (fun u => decide (u = t))
/-- `Performs` as a test. -/
def performsB (i : Instr) (s e : State) (fl : Flow) : Bool := becomesB i s (s.finish (.ok (e, fl)))
/-- `Does` as a test. -/
def doesB (i : Instr) (s e : State) : Bool := performsB i s e .next
/-- `Raises` as a test. -/
def raisesB (i : Instr) (s : State) (c : Cause) (info : Word) : Bool := becomesB i s (s.finish (.error (.cause c info)))
/-- `Waits` as a test. -/
def waitsB (i : Instr) (s : State) (w : Wait) : Bool := becomesB i s (s.finish (.error (.wait w)))

theorem passB_passes {s : State} {p : Pfx} {r : Rules} (h : passB s p r = true) : Passes s p r := passes_of s p r h
theorem plainB_plain {s : State} (h : plainB s = true) : Plain s := by
  simp only [plainB, Bool.and_eq_true, Bool.not_eq_true', Option.isNone_iff_eq_none] at h
  exact ⟨h.1.1, h.1.2, h.2⟩
theorem quietB_quiet {s : State} (h : quietB s = true) : Quiet s := by
  simp only [quietB, Bool.and_eq_true, Bool.not_eq_true'] at h
  exact ⟨h.1.1, h.1.2, h.2⟩

/-- No prefixes. -/
def p0 : Pfx := ⟨[], none, none, none⟩
/-- The CT of core 0 stands at the last instruction of a block of kind 2, with one context. -/
def ct : State := { State.reset.placeWord 16 0x5003 with agenda := [], cur := { core := 0, thr := 16, len := 1 } }
/-- MT 0 of core 0 in a detached block, likewise. -/
def mt : State := { State.reset.placeWord 16 0x8800 with agenda := [], cur := { core := 0, thr := 0, len := 1 } }

/-! ## Terms that are no instruction (02 R48, R51) -/

theorem test_wf_prefixes : (Instr.add ⟨[0, 0, 0, 0, 0], none, none, none⟩ ⟨1, 2⟩).encodable = false := by decide
theorem test_wf_page : (Instr.mgo ⟨[], none, none, some 0⟩ ⟨0, 1, 0⟩).encodable = false := by decide
theorem test_wf_sub : (Instr.famo p0 ⟨1, 2, 3⟩).encodable = false := by decide
theorem test_wf_good : (Instr.vadd ⟨[1], some 2, some 3, none⟩ ⟨1, 2, 3, 0, 7⟩).encodable = true := by decide

/-! ## Words (02 R42–R51, R65–R67), bit by bit -/

/-- `vadd`: PAGE 1 with r = 7, major 0x01, d = 1, a = 2, b = 3, h = 1. -/
theorem test_word_vadd : decode [0b1111001111000000, 0b0000010010100111] (fun _ => false) =
    (.vadd p0 ⟨1, 2, 3, 1, 7⟩, 2) := by decide
/-- `vext`: PAGE 1 with r = 7, sub-operation 19; major 0x28, d = 5, s = 2, sub 1. -/
theorem test_word_vext : decode [0b1111001111010011, 0b1010000101001001] (fun _ => false) =
    (.vext p0 ⟨5, 2, 1⟩ 7 19, 2) := by decide
/-- `mgo`: PAGE 2, major 0x13, s = 3. -/
theorem test_word_mgo : decode [0b1111010000000000, 0b0100110000001100] (fun _ => false) = (.mgo p0 ⟨0, 3, 0⟩, 2) := by decide
/-- `ldsh`: PAGE 2 with E = 0x45; major 0x1E, d = 1, s = 2, sub 3. -/
theorem test_word_ldsh : decode [0b1111010001000101, 0b0111100001001011] (fun _ => false) =
    (.ldsh p0 ⟨1, 2, 3⟩ 1 5, 2) := by decide
/-- `barw`: PAGE 2, major 0x1B, d = 2, s = 4, sub 0; `csrr` with IMM 1: major 0x25, d = 3, imm6 = 4. -/
theorem test_word_sync : decode [0b1111010000000000, 0b0110110010010000] (fun _ => false) = (.barw p0 ⟨2, 4, 0⟩, 2) ∧
    decode [0b1110000000000001, 0b1001010011000100] (fun _ => false) = (.csrr ⟨[1], none, none, none⟩ ⟨3, 4⟩, 2) := by decide

/-! ## Witnesses: encodings and steps -/

theorem test_DecodeEncode : (let i := Instr.vfma ⟨[5, 6], none, some 7, none⟩ ⟨1, 2, 3, 0, 6⟩
    i.encodable && (encode i).length == 5 && decide (decode (encode i ++ [0xFFFF]) (fun k => k == 5) = (i, 5))) = true := by decide +kernel

theorem test_ReservedEncodings :
    ((decode [0xE001, 0xE002, 0xE003, 0xE004, 0xE005, 0x5003] (fun _ => false)).1 == .illegalEncoding 0x03 &&
    (decode [0xE901, 0xE902, 0x5003] (fun _ => false)).1 == .illegalEncoding 0x04 && pfxKind 0xE901 == 1 &&
    (decode [0xE001] (fun _ => false)) == (.illegalEncoding 0x05, 1) &&
    (decode [0xE001, 0x5003] (fun k => k == 1)) == (.illegalEncoding 0x0C, 2) &&
    (decode [0xF600, 0x5003] (fun _ => false)) == (.illegalEncoding 0x02, 2) &&
    [0x0000, 0x3800, 0x3C00, 0xA400].all (fun w => !isPfx w && (decode [w] (fun _ => false)) == (.illegalEncoding 0x00, 1)) &&
    plainB ct && raisesB (.illegalEncoding 0) ct 0 0) = true := by decide +kernel

theorem test_StepRunsDecoded : (let s := State.reset.placeWord 16 0x5003
    let q : State := (({ ({ s with agenda := [] } : State).pass with cur := { core := 0, thr := 16 } } : State).drainAll none)
    s.agenda == [⟨{ core := 0, thr := 16 }, none⟩] && !s.recovery && q.mayAct 0 16 && q.thr.phase == .body &&
    okB q.fetch (fun x => x == (.nop p0 ⟨0, 0⟩, 1)) && okB (ct.fetchN 0 (ct.thr.blk.toNat + 4) 2 2) (fun v => v == 0x5003) &&
    decide (ct.thr.off ≤ hdrLen ct.thr.hdr) && !isPfx 0x5003 &&
    (match step s with | .next t => t.thr.phase == .entry 0x10008 | _ => false)) = true := by decide +kernel

theorem test_StepRunsEvent : (let s : State := { State.reset with agenda := [⟨{ core := 3 }, some .refreshInterval⟩] }
    let r : State := { s with recovery := true }
    !s.recovery && (match step s with | .next _ => true | _ => false) &&
    !({ cur := { core := 3 }, ev := some .refreshInterval } : Turn).starts &&
    (match step r with | .fault .recoveryMode => true | _ => false) &&
    (match step { r with agenda := [] } with | .fault .recoveryMode => true | _ => false)) = true := by decide +kernel

theorem test_StepKeepsMemoriesOk : MemoriesOk (State.reset.placeWord 16 0x5003) ∧
    (match step (State.reset.placeWord 16 0x5003) with | .next t => t.mem.wf && t.vault.wf && t.acc.wf | _ => false) = true := by
  unfold MemoriesOk; decide +kernel

/-! ## Witnesses: scalar registers -/

theorem test_ZeroRegisters : (let s := mt.upThr (fun t => { t with far := [⟨0, .value 9⟩] })
    (s.setX 15 7).x 15 == 7 && (s.setX 15 7).x 14 == 0 && (s.setF 7 true).f 7 && !(s.setF 7 true).f 6 &&
    (s.thrAt 0 0).far == [⟨0, .value 9⟩] && ((s.arriveFar 0 0 0).thrAt 0 0).getX 3 == 0 && (s.arriveFar 0 0 0).x 0 == 0) = true := by
  decide +kernel

/-- R79, R80: −7 and 2; the divisor 0; the most negative number by −1. -/
theorem test_IntegerResults : (let s := (ct.setX 1 (-7)).setX 2 2
    let f : FA := ⟨1, 2⟩
    let res := fun (q : State) (i : Instr) (v : Word) => doesB i q (q.setX 1 v)
    let z := ct.setX 1 5
    let m := (ct.setX 1 0x8000000000000000).setX 2 (-1)
    passB s p0 (binRules p0 f) && res s (.add p0 f) (-5) && res s (.div p0 f) (-3) && res s (.rem p0 f) (-1) && res s (.sar p0 f) (-2) &&
    res s (.mulhn p0 f) 1 && res s (.max p0 f) 2 && res s (.maxn p0 f) (-7) && res z (.div p0 f) (-1) && res z (.remn p0 f) 5 &&
    res m (.div p0 f) 0x8000000000000000 && res m (.rem p0 f) 0) = true := by decide +kernel

theorem test_IntegerOperands : (let s := (ct.setX 1 10).setX 3 4
    let f : FA := ⟨2, 1⟩
    let r : Pfx := ⟨[], some 0x180, none, none⟩
    let u : Pfx := ⟨[], some 0x181, none, none⟩
    let i : Pfx := ⟨[0x7FF], none, none, none⟩
    let ii : Pfx := ⟨[1, 2], some 0, none, none⟩
    let m : Pfx := ⟨[], none, some 0, none⟩
    doesB (.add r f) s (s.setX 2 14) && doesB (.add i ⟨1, 0⟩) s (s.setX 1 9) && doesB (.add ii f) s (s.setX 2 2060) &&
    doesB (.add ⟨[0, 1, 2], some 0, none, none⟩ f) s (s.setX 2 2060) && doesB (.add ⟨[0, 0, 1, 2], some 0, none, none⟩ f) s (s.setX 2 2060) &&
    raisesB (.maxn ⟨[1], some 0x080, none, none⟩ f) s 0x08 0 && (Instr.maxn u f).scalar == some (u, binRules u f, [2], []) &&
    raisesB (.add u f) s 0x08 0 && raisesB (.add i ⟨1, 2⟩) s 0x08 0 && raisesB (.add m f) s 0x06 0 && plainB s) = true := by decide +kernel

theorem test_UnaryResults : (let s := ct.setX 2 0x00F0
    let f : FA := ⟨1, 2⟩
    let r : Pfx := ⟨[], some 0, none, none⟩
    passB s p0 { named := [1, 2] } && doesB (.mov p0 f) s (s.setX 1 0xF0) && doesB (.clz p0 f) s (s.setX 1 56) &&
    doesB (.ctz p0 f) s (s.setX 1 4) && doesB (.popc p0 f) s (s.setX 1 4) && doesB (.clz p0 f) ct (ct.setX 1 64) &&
    raisesB (.mov r f) s 0x06 0 && raisesB (.popc ⟨[0], none, none, none⟩ f) s 0x06 0) = true := by decide +kernel

/-- R82's example: pos 8, len 12 (IMM 0x308); the bounds len 64 at pos 0 (0x1000) and pos + len = 65. -/
theorem test_BitFields : (let s := (ct.setX 2 0xFEDCBA9876543210).setX 1 (-1)
    let f : FA := ⟨1, 2⟩
    let p : Pfx := ⟨[0x308], none, none, none⟩
    let w : Pfx := ⟨[2, 0], none, none, none⟩
    let bad := fun (l : List (BitVec 11)) => let p : Pfx := ⟨l, none, none, none⟩
      raisesB (.bext p f) s 0x09 0 && raisesB (.bins p f) s 0x09 0
    passB s p (fieldRules p f) && doesB (.bext p f) s (s.setX 1 0x432) && doesB (.bins p f) s (s.setX 1 0xFFFFFFFFFFF210FF) &&
    passB s w (fieldRules w f) && doesB (.bext w f) s (s.setX 1 0xFEDCBA9876543210) && bad [2, 1] && bad [5] && bad [4, 0] &&
    bad [0, 2, 1] && doesB (.bext ⟨[0, 0, 0, 0x308], none, none, none⟩ f) s (s.setX 1 0x432) &&
    raisesB (.bext p0 f) s 0x07 0 && raisesB (.bins ⟨[0x308], some 0, none, none⟩ f) s 0x06 0) = true := by decide +kernel

theorem test_Immediates : (let s := ct.setX 4 10
    let q : Pfx := ⟨[1, 0, 0, 0], none, none, none⟩
    passB s p0 { imm := true, named := [4] } && doesB (.li p0 ⟨4, 0x20⟩) s (s.setX 4 (-32)) &&
    doesB (.addi p0 ⟨4, 0x3F⟩) s (s.setX 4 9) && doesB (.li q ⟨4, 1⟩) s (s.setX 4 (2 ^ 39 + 1)) &&
    doesB (.li ⟨[1], none, none, none⟩ ⟨4, 1⟩) s (s.setX 4 65) && doesB (.li ⟨[1, 0], none, none, none⟩ ⟨4, 1⟩) s (s.setX 4 (2 ^ 17 + 1)) &&
    doesB (.addi ⟨[0x7FF, 0x7FF, 0x7FF], none, none, none⟩ ⟨4, 0x3F⟩) s (s.setX 4 9) &&
    raisesB (.li ⟨[], some 0, none, none⟩ ⟨4, 1⟩) s 0x06 0) = true := by decide +kernel

theorem test_ComparisonsAndSelect : (let s := (ct.setX 2 (-1)).setX 3 1
    let r : Pfx := ⟨[], some 0x180, none, none⟩
    let i : Pfx := ⟨[1], none, none, none⟩
    let f : FA := ⟨7, 2⟩
    passB s r (cmpRules r f) && doesB (.cmpLt r f) s (s.setF 7 true) && doesB (.cmpLtn r f) s (s.setF 7 false) &&
    doesB (.cmpGe i f) s (s.setF 7 false) && doesB (.cmpLt ⟨[0, 0, 1], none, none, none⟩ f) s (s.setF 7 true) &&
    doesB (.cmpLt ⟨[0, 0, 0, 1], none, none, none⟩ f) s (s.setF 7 true) && doesB (.cmpGen i f) s (s.setF 7 true) && doesB (.cmpEq i ⟨7, 3⟩) s (s.setF 7 true) &&
    raisesB (.cmpEq r ⟨8, 2⟩) s 0x08 0 && raisesB (.cmpEq ⟨[], some 0x181, none, none⟩ f) s 0x08 0 && raisesB (.cmpNe p0 f) s 0x07 0 && raisesB (.cmpNe ⟨[1], some 0x180, none, none⟩ f) s 0x06 0) =
    true := by decide +kernel

theorem test_ComparisonsAndSelect_sel : (let s := ((ct.setX 2 5).setX 3 6).setF 4 true
    let r := fun (v : BitVec 11) => (⟨[], some v, none, none⟩ : Pfx)
    let f : FA := ⟨1, 2⟩
    passB s (r 0x184) { reg := true, named := [1, 2, 3] } && doesB (.sel (r 0x184) f) s (s.setX 1 5) &&
    doesB (.sel (r 0x185) f) s (s.setX 1 6) && raisesB (.sel (r 0x188) f) s 0x08 0 && raisesB (.sel p0 f) s 0x07 0 &&
    raisesB (.sel ⟨[0], some 0x184, none, none⟩ f) s 0x06 0) = true := by decide +kernel

theorem test_RelativeTransfers : (let s := ct.setF 1 true
    let up : Pfx := ⟨[0x400, 0, 0, 0], none, none, none⟩
    !s.follows && passB s p0 { transfer := true, imm := true } && passB s p0 { transfer := true, imm := true, named := [15] } &&
    performsB (.br p0 0x3FF) s s (.jump 0xFFF8) && performsB (.brc p0 ⟨1, 2⟩) s s (.jump 0x10010) && doesB (.brc p0 ⟨9, 2⟩) s s &&
    performsB (.call p0 1) s (s.setX 15 0x10008) (.jump 0x10008) && raisesB (.br up 0) s 0x73 (s.thr.blk + wordOfInt (simm up 10 0 * 8)) &&
    s.targetCause (2 ^ 56) == some 0x73 && s.targetCause (3 * 2 ^ 54) == some 0x73 && s.targetCause 0x10004 == some 0x70 &&
    s.targetCause (2 ^ 54 - 8) == none) = true := by decide +kernel

theorem test_LoopsAndJumps_loop : (let s := (ct.setX 2 2).setX 3 1
    passB s p0 { transfer := true, imm := true, named := [2] } && performsB (.loop p0 ⟨2, 0x3F⟩) s (s.setX 2 1) (.jump 0xFFF8) &&
    doesB (.loop p0 ⟨3, 1⟩) s (s.setX 3 0) && doesB (.loop p0 ⟨4, 1⟩) s (s.setX 4 0) &&
    passB s p0 { transfer := true, imm := true } && raisesB (.loop p0 ⟨0, 1⟩) s 0x08 0) = true := by decide +kernel

theorem test_LoopsAndJumps : (let s := ct.setX 2 0x20000
    let m := mt
    let b := mt.setMt { mt.mt with mode := .broadcast }
    !s.follows && !m.follows && !b.follows && passB s p0 { transfer := true, named := [2] } &&
    performsB (.jmp p0 ⟨0, 2⟩) s s (.jump 0x20000) && performsB (.ret p0 ⟨0, 2⟩) s s (.jump 0x20000) &&
    passB m p0 { transfer := true } && performsB (.stop p0 ⟨0, 0⟩) m m .stop &&
    performsB (.stop p0 ⟨0, 0⟩) s (s.upArch 0 (fun a => { a with gang := none })) .stop && plainB b && b.inBcast &&
    raisesB (.stop p0 ⟨1, 1⟩) b 0x0D 0 && raisesB (.br p0 1) b 0x0D 0) = true := by decide +kernel

/-- A target that is not a multiple of 8, and one outside the address space. -/
theorem test_LoopsAndJumps_targets : (let s := (ct.setX 2 0x20004).setX 3 (2 ^ 60)
    let up : Pfx := ⟨[0x400, 0, 0, 0], none, none, none⟩
    let out := s.thr.blk + wordOfInt (simm up 6 0 * 8)
    passB s p0 { transfer := true, named := [2] } && raisesB (.jmp p0 ⟨0, 2⟩) s 0x70 0x20004 && raisesB (.ret p0 ⟨0, 3⟩) s 0x73 (2 ^ 60) &&
    passB s up { transfer := true, imm := true, named := [3] } && s.targetCause out == some 0x73 && raisesB (.loop up ⟨3, 0⟩) s 0x73 out &&
    passB s up { transfer := true, imm := true, named := [15] } && raisesB (.call up 0) s 0x73 (s.thr.blk + wordOfInt (simm up 10 0 * 8)) &&
    raisesB (.brc up ⟨9, 0⟩) s 0x73 out) = true := by decide +kernel

theorem test_NoOperation : (doesB (.nop p0 ⟨0, 0⟩) ct ct && raisesB (.nop p0 ⟨1, 0⟩) mt 0x08 0 && raisesB (.nop p0 ⟨0, 15⟩) mt 0x08 0) =
    true := by decide +kernel

theorem test_ScalarFrame : (let s := (ct.setX 1 3).setX 2 4
    (Instr.add p0 ⟨1, 2⟩).scalar.isSome && passB s p0 (binRules p0 ⟨1, 2⟩) && quietB s &&
    nextB (.add p0 ⟨1, 2⟩) s (fun t => t.x 1 == 7 && t.x 2 == 4 && t.x 15 == 0)) = true := by decide +kernel

theorem test_GoesOn : (let two := ct.upThr (fun t => { t with hdr := bootHdr 2 2 })
    let b := mt.setMt { mt.mt with mode := .broadcast }
    let ok := fun (e : State) => quietB e && !e.atSteward && e.thr.phase == .body && e.thr.far.isEmpty && !e.thr.parkDue &&
      hdrParks e.thr.hdr == 0
    let t := fun (e : State) => e.finish (.ok (e, .next))
    ok two && ok ct && ok b && (t two).thr.off == 2 && (t two).thr.phase == .body && (t ct).thr.phase == .entry 0x10008 &&
    b.inBcast && (t b).thr.phase == .idle && (t b).mt.mode == .idle && ((t ct).cx 0).chunk.retired == 1) = true := by decide +kernel

/-! ## Witnesses: fences, draws, control registers -/

/-- A steward's control thread. -/
def stw : State := { ct with cur := { core := 4096, thr := 16, len := 1 } }
/-- A supervisor. -/
def sup (s : State) : State := s.upArch 0 (fun a => { a with sup := true })
/-- One IMM prefix. -/
def pI (v : BitVec 11) : Pfx := ⟨[v], none, none, none⟩
/-- A REG prefix. -/
def pR (v : BitVec 11) : Pfx := ⟨[], some v, none, none⟩

theorem test_FencesAndCut : (let q := ct.upCx 0 (fun x => { x with pend := [{ fenceSys := true }] })
    passB ct p0 {} && !ct.atSteward && doesB (.cut p0 ⟨0, 0⟩) ct (ct.requestCut 0) && doesB (.fencePkg p0 ⟨0, 0⟩) ct (ct.requestCut 0) &&
    nextB (.fenceSys p0 ⟨0, 0⟩) ct (fun t => (t.cx 0).chunk.fenceSys && (t.cx 0).chunk.cutReq) &&
    passB stw p0 {} && stw.atSteward && doesB (.cut p0 ⟨0, 0⟩) stw stw && doesB (.fenceSys p0 ⟨0, 0⟩) stw stw &&
    (q.cx 0).pend.any (·.fenceSys) && (match q.peerRead 0 { dev := 0, asid := 0, tva := 0, n := 8, va := 0 } [] with | .error (.wait .offPackage) => true | _ => false)) = true := by
  decide +kernel

theorem test_DrawsAndIdentity : (let gives := fun (i : BitVec 6) (w : Word) => doesB (.rdid p0 ⟨3, i⟩) mt (mt.setX 3 w)
    let c := ct.upArch 0 (fun a => { a with ids := [(0x44, 11), (0x4C, 12)] })
    passB mt p0 { named := [3] } && nextB (.rng p0 ⟨3, 0⟩) mt (fun t => t.thr.srnd == 1 && t.x 3 == fzr4 0 0 0) &&
    nextB (.rng p0 ⟨3, 4⟩) mt (fun t => t.thr.srnd == 1 && decide ((t.x 3).toNat < 16)) && nextB (.rng p0 ⟨0, 4⟩) mt (fun t => t.thr.srnd == 1) &&
    passB mt p0 { range := false, named := [3] } && gives 0 0 && gives 1 0 && gives 5 0 && gives 7 0 && gives 17 0 &&
    doesB (.rdid p0 ⟨3, 8⟩) c (c.setX 3 11) && doesB (.rdid p0 ⟨3, 16⟩) c (c.setX 3 12) && doesB (.rdid p0 ⟨3, 1⟩) c (c.setX 3 65536) &&
    raisesB (.rdid p0 ⟨3, 18⟩) mt 0x09 0) = true := by decide +kernel

theorem test_ControlRegisters : (let w := fun (s : State) (v : Word) => s.setX 1 v
    let s := w (sup ct) 0xFFFFFFFFFFFFFFFF
    let a := s.arch 0
    let pend := fun (s : State) => s.upThr (fun t => { t with far := [⟨2, .value 1⟩] })
    passB mt p0 (csrRules p0 ⟨1, 0⟩) && mt.csr 0 == some 8 && doesB (.csrr p0 ⟨1, 0⟩) mt (mt.setX 1 8) &&
    waitsB (.csrr p0 ⟨1, 0⟩) (pend mt) .results && mt.csr 9 == none && raisesB (.csrr p0 ⟨1, 9⟩) mt 0x13 0 &&
    (let m := w mt 0xFFFFFFFFFFFFFFFF
     doesB (.csrw p0 ⟨1, 0⟩) m (m.setMt { m.mt with fmtCtl := writeFmtCtl 8 0xFFFFFFFFFFFFFFFF }) && raisesB (.csrw p0 ⟨1, 4⟩) m 0x13 0 &&
     raisesB (.csrw (pI 6) ⟨1, 0⟩) m 0x13 0 && doesB (.csrw p0 ⟨1, 2⟩) m (m.upThr (fun t => { t with srnd := 0xFFFFFFFFFFFFFFFF }))) &&
    passB ct (pI 1) (csrRules (pI 1) ⟨1, 0x24⟩) && raisesB (.csrw (pI 1) ⟨1, 0x20⟩) ct 0x0F 0 && raisesB (.csrw (pI 1) ⟨1, 0x27⟩) ct 0x0F 0 &&
    passB s (pI 1) (csrRules (pI 1) ⟨1, 0x24⟩) && s.isSup 0 &&
    doesB (.csrw (pI 1) ⟨1, 0x24⟩) s (s.setArch 0 { a with trap := { a.trap with vec := 0x00FFFFFFFFFFFFF8 } }) &&
    doesB (.csrw (pI 1) ⟨1, 0x23⟩) s (s.setArch 0 { a with trap := { a.trap with info := 0xFFFFFFFFFFFFFFFF } }) &&
    doesB (.csrw (pI 1) ⟨1, 0x26⟩) s (s.setArch 0 { a with trap := { a.trap with save0 := 0xFFFFFFFFFFFFFFFF } }) &&
    doesB (.csrw p0 ⟨1, 4⟩) s (s.setArch 0 { a with scaleBase := 0x1FFFC0 })) = true := by decide +kernel

/-! ## Witnesses: causes and handlers -/

theorem test_TrapInstruction : (raisesB (.trap p0 ⟨0, 31⟩) mt 0xFF 0 && raisesB (.trap p0 ⟨0, 0⟩) ct 0xE0 0 &&
    raisesB (.trap p0 ⟨0, 32⟩) mt 0x09 0 && raisesB (.trap p0 ⟨1, 0⟩) mt 0x08 0 && raisesB (.trap (pI 0) ⟨0, 0⟩) mt 0x06 0 && plainB mt &&
    encode (.trap p0 ⟨0, 5⟩) == [0x9C05]) = true := by decide +kernel

theorem test_RaisingACause : (let st := ct.upCx 0 (fun x => { x with chunk := { x.chunk with stepped := true } })
    let run := st.upMtAt 0 3 (fun m => { m with thr := { m.thr with phase := .body, off := 1, hdr := bootHdr 2 1 }, mode := .detached })
    let t := ct.finish (.error (.cause 0x50 9))
    let u := run.finish (.error (.cause 0x50 9))
    (ct.arch 0).gang.isNone && !(ct.cx 0).chunk.stepped && !(ct.cx 0).taking && (t.cx 0).chunk.stepped && t.mem == ct.mem &&
    !(run.raiseHere 0x50 9).steppedReady 0 && u == run.raiseHere 0x50 9 && u.thr.raised == some ⟨0x50, 9, false, 0, 0⟩ && u.thr.off == 1 &&
    stw.atSteward && (stw.arch 4096).gang.isNone && (stw.finish (.error (.cause 0x50 9)) ==
      ((stw.raiseHere 0x50 9).upThrAt 4096 16 (fun t => { t with raised := none })).takeException 4096 0x50 false
        ⟨stw.thr.blk, stw.thr.off, stw.thr.park⟩ 9)) = true := by decide +kernel

/-- The trap cut, and the causes taken once its chunk has committed: by an MT, and by the CT. -/
theorem test_RaisingACause_cut : (let st := ct.upCx 0 (fun x => { x with chunk := { x.chunk with stepped := true } })
    let r : Raised := { cause := 0x50, info := 9, hdrFault := false, blk := 0 }
    let due := ct.upCx 0 (fun x => { x with taking := true })
    let m := due.upMtAt 0 3 (fun m => { m with thr := { m.thr with phase := .body, raised := some r }, mode := .detached })
    let c := (due.upThr (fun t => { t with raised := some r })).upArch 0 (fun a => { a with trap := { a.trap with vec := 0x8000 } })
    (st.raiseHere 0x50 9).steppedReady 0 && st.finish (.error (.cause 0x50 9)) == (st.raiseHere 0x50 9).cut 0 true &&
    m.takeDue 0 && nextB .commitFinish m (fun t => !(t.cx 0).taking && (t.mtAt 0 3).cause == 0x50 && (t.mtAt 0 3).thr.phase == .faulted) &&
    c.takeDue 0 && !haltsOn ((c.arch 0).dbg.get 0x300 0) 0x50 && !(c.arch 0).ct.stepOne &&
    nextB .commitFinish c (fun t => (t.arch 0).trap.cause == 0x50 && (t.arch 0).trap.info == 9 && (t.arch 0).ct.phase == .entry 0x8000)) =
    true := by decide +kernel

theorem test_HandlerEntry : (let h := ct.upArch 0 (fun a => { a with trap := { a.trap with vec := 0x8000 } })
    let n := h.upArch 0 (fun a => { a with trap := { a.trap with stat := 1 } })
    let t := h.takeException 0 0x14 false ⟨0x10007, 3, 1⟩ 5
    let a := t.arch 0
    !(h.arch 0).trap.stat.getLsbD 0 && (h.arch 0).trap.vec != 0 && a.trap.cause == 0x14 && a.trap.info == 5 && a.trap.blk == 0x10000 &&
    a.trap.off == 0x903 && a.trap.stat == 1 && a.sup && a.ct.phase == .entry 0x8000 &&
    (h.takeException 0 0x17 true ⟨0, 0, 0⟩ 0 |>.arch 0).trap.cause == 0x117 && (ct.arch 0).trap.vec == 0 &&
    ct.takeException 0 0x50 false ⟨8, 1, 0⟩ 2 == ct.endInstance 0 0 { code := 0x50, thr := 16, blk := 8, off := 1, park := 0, info := 2 } &&
    (n.arch 0).trap.stat.getLsbD 0 && n.takeException 0 0x50 false ⟨8, 1, 0⟩ 2 ==
      n.endInstance 0 0 { code := 0xAF, sub := 0x50, thr := 16, blk := 8, off := 1, park := 0, info := 2 }) = true := by decide +kernel

theorem test_FaultsAndHalts : (let b := mt.upMtAt 0 0 (fun m => { m with thr := { m.thr with off := 2, park := 1 } })
    let on := b.upArch 0 (fun a => { a with dbg := [(0x300, 1)] })
    let r : Raised := ⟨0x14, 7, false, 0, 0⟩
    let k := fun (s : State) => (s.mtFault 0 0 r).mtAt 0 0
    let h := ct.haltCt 0 0x14 ⟨0x10000, 1, 0⟩ 0
    (k b).state == 4 && (k b).cause == 0x14 && (k b).trapOff == 2 && (k b).trapPark == 1 && (k b).trapInfo == 7 && (k on).state == 5 &&
    ((k b).resume false).thr.phase == .resume 0x10000 2 1 true && passB mt p0 { bad := false } && raisesB (.brk p0 ⟨0, 3⟩) mt 0x14 0 &&
    (h.arch 0).ct.phase == .halted && (h.arch 0).trap.off == 0x801 && (h.arch 0).trap.stat == 0) = true := by decide +kernel

theorem test_HandlerReturn : (let s := sup ct
    let h := s.upArch 0 (fun a => { a with trap := { a.trap with stat := 1, blk := 0x20000, off := 0x802 } })
    passB s p0 { who := .notMt, super := true } && raisesB (.eret p0 ⟨0, 0⟩) s 0x16 0 &&
    passB h p0 { who := .notMt, super := true } && performsB (.eret p0 ⟨0, 0⟩) h (h.eretTo 0) .stay &&
    ((h.eretTo 0).arch 0).ct.phase == .resume 0x20000 2 0 true && !((h.eretTo 0).arch 0).sup && ((h.eretTo 0).cx 0).chunk.cutReq &&
    ((h.eretTo 0).arch 0).ct.hold && plainB mt && raisesB (.eret p0 ⟨0, 0⟩) mt 0x12 0 && raisesB (.eret p0 ⟨0, 0⟩) ct 0x0F 0) = true := by
  decide +kernel

/-! ## Witnesses: memory -/

/-- A translation of pages 2 and 3 with R and W (10 R315), of which page 3 has no W. -/
def dat (s : State) : State := { s with tlb := ⟨false, 0, 2, 7, 0x18D⟩ :: ⟨false, 0, 3, 3, 0x185⟩ :: s.tlb }

theorem test_LocalAccess : (let s := dat ct
    let r := fun (va n kind reason : Nat) => (match s.place 0 va n n kind with
      | .error (.cause c i) => c.toNat == 0x40 + 16 * kind + reason && i == BitVec.ofNat 64 va | _ => false)
    r (2 ^ 56) 8 0 3 && r 0x20004 8 0 0 && r 0x30000 8 1 2 && (s.xlatOf 0 0x20008).isSome && (s.xlatOf 0 0x50000).isNone &&
    (match s.place 0 0x50000 8 8 2 with | .error (.wait (.translate 0x50000 2)) => true | _ => false) &&
    !s.inAperture 0 0x20008 && !s.ownMemExtent 0 0 0x20008 0x20010 && !s.poisoned 0x70008 8 && !s.grantHeld 0 (0x70008 / 64) &&
    okB (s.place 0 0x20008 8 8 1) (fun x => x == .mem 0x70008 (memKey false 0 0x20008)) &&
    (let a := s.upArch 0 (fun a => { a with cpyAp := 0x20001 })
     a.inAperture 0 0x20040 && (match a.place 0 0x20040 8 8 0 with | .error (.cause 0x42 _) => true | _ => false))) = true := by decide +kernel

theorem test_LoadsAndStores : (let s := ((dat { ct with mem := ct.mem.write 0x70008 0x80 }).setX 2 0x20008).setX 3 0x1234
    let f : FAZ := ⟨4, 2, 0⟩
    let g : FAZ := ⟨3, 2, 1⟩
    let c := (ct.upCx 0 (fun x => { x with win := 1 })).setX 2 16
    passB s p0 (ldRules p0 f) && okB (s.memLoad 0x20008 1 1) (fun x => x.2 == [0x80]) &&
    nextB (.ldSigned p0 f) s (fun t => t.thr.far == [⟨4, .value 0xFFFFFFFFFFFFFF80⟩]) &&
    nextB (.ldUnsigned p0 f) s (fun t => t.thr.far == [⟨4, .value 0x80⟩]) &&
    okB (s.place 0 0x20008 1 1 0) (fun x => x == .mem 0x70008 (memKey false 0 0x20008)) && !s.watchHit 0x20008 1 true false &&
    passB s p0 (ldRules p0 g) && !s.inAperture 0 0x20008 && okB (s.memStore 0x20008 2 [0x34, 0x12]) (fun e => doesB (.st p0 g) s e) &&
    passB c p0 (spRules p0 ⟨3, 2, 1⟩ c) && okB (c.spSpot p0 g 0) (fun q => okB (c.spRead 0 q 2) (fun x => x.2 == [0, 0])) &&
    okB (c.spSpot p0 g 1) (fun q => okB (c.spWrite 0 q [0, 0]) (fun e => doesB (.spst p0 g) c e))) = true := by decide +kernel

theorem test_StoreFrame : (let s := (dat ct |>.setX 2 0x20008).setX 3 0x1234
    let g : FAZ := ⟨3, 2, 1⟩
    let c := ((ct.upCx 0 (fun x => { x with win := 1 })).setX 2 16).setX 3 0x1234
    quietB s && passB s p0 (ldRules p0 g) && !s.inAperture 0 0x20008 && okB (s.place 0 0x20008 2 2 1) (fun x => x == .mem 0x70008 (memKey false 0 0x20008)) &&
    !s.watchHit 0x20008 2 false true && okB (s.storeTo 0 0x20008 (.mem 0x70008 (memKey false 0 0x20008)) [0x34, 0x12]) (fun _ => true) &&
    nextB (.st p0 g) s (fun t => t.seeByte 0 0x70009 == 0x12 && t.seeByte 0 0x7000A == 0 && t.seeByte 5 0x70009 == 0 && t.mem == s.mem) &&
    quietB c && passB c p0 (spRules p0 g c) && c.rsvHolder != some 0 && okB (c.spSpot p0 g 1) (fun q => q.core == 0 && q.phys == 16 &&
      okB (c.spWrite 0 q [0x34, 0x12]) (fun _ => !c.wakeByte 0 16)) &&
    nextB (.spst p0 g) c (fun t => t.vault.read 17 == 0x12 && t.vault.read 18 == 0 && t.mem == c.mem)) = true := by decide +kernel

/-- cos 2^-24 lies just above a tie of 48 bits, and 1/(1 + e^−x) at 2^-47 just below one (04 R140). -/
theorem test_specialTies : (fnCos 1 (-24)).a = .fin false (2 ^ 48) (-48) false ∧ (fnSig false 1 (-47)).a = .fin false (2 ^ 47) (-48) false := by
  constructor <;> decide +kernel

theorem test_AtomicOperations : (amoNew 0 32 0xFFFFFFFF 2 == 1 && amoNew 4 32 0xFFFFFFFF 2 == 0xFFFFFFFF && amoNew 7 32 0xFFFFFFFF 2 == 0xFFFFFFFF &&
    amoNew 5 64 0xFFFFFFFF 2 == 2 && amoNew 8 64 3 4 == 4) = true := by decide

/-- The state of the atomics' witnesses. -/
def atom : State := (((dat ct).setX 2 0x20008).setX 4 5).setX 3 1

theorem test_Atomics_reachable : Reachable atom 0x20008 8 2 ((dat ct).tlb.headD ⟨false, 0, 0, 0, 0⟩) ∧
    Reachable atom 0x20008 4 2 ((dat ct).tlb.headD ⟨false, 0, 0, 0, 0⟩) := by
  constructor <;> constructor <;> decide +kernel

theorem test_Atomics_room : (let k := memKey false 0 0x20008
    let s := ((atom.noteMem 0 k 0x1C00 true true).noteMem 0 k 0x1C00 false true).putN 0 0x70008 (toBytes 8 5)
    decide (s.setLines 0 0x70008 < atom.usableWays 0) && decide (atom.cmdsUsed 0 < 256) && !stw.synthBusy none 0x20008 &&
    okB (stw.watched 0x20008 8 8 2) (fun x => match x with | .mem pa _ => pa == 0x20008 | _ => false)) = true := by decide +kernel

theorem test_LogRoom : LogRoom ct 0 1 ∧ LogRoom mt 0 1 := by constructor <;> (right; decide +kernel)

theorem test_Atomics : (let s := (((dat ct).setX 2 0x20008).setX 4 5).setX 3 1
    let near := pR 0x200
    let far := pR 0x210
    let sp := pR 0x220
    let f : FAZ := ⟨3, 2, 1⟩
    let c := (((ct.upCx 0 (fun x => { x with win := 1 })).setX 2 16).setX 4 5).setX 3 1
    let mid := s.upThr (fun t => { t with hdr := bootHdr 2 2 })
    amoSp near == false && amoFar near == false && amoFar far && amoSp sp && passB s near (amoRules near f 0 s) &&
    okB (s.watched 0x20008 8 8 2) (fun x => x == .mem 0x70008 (memKey false 0 0x20008)) &&
    nextB (.amo near f) s (fun t => t.seeByte 0 0x70008 == 5 && t.thr.far == [⟨3, .value 0⟩]) &&
    passB s near (amoRules near f 1 s) && nextB (.cas near f) s (fun t => t.seeByte 0 0x70008 == 0 && t.thr.far == [⟨3, .value 0⟩]) &&
    (let z := s.setX 3 0; passB z near (amoRules near f 1 z) && nextB (.cas near f) z (fun t => t.seeByte 0 0x70008 == 5)) &&
    passB c sp (amoRules sp f 0 c) && okB (c.spot 0 (c.spAddr sp 2 0) 8 8 2) (fun q => okB (c.spRead 0 q 8) (fun x => x.2 == List.replicate 8 0)) &&
    nextB (.amo sp f) c (fun t => t.vault.read 16 == 5) && passB c sp (amoRules sp f 1 c) && nextB (.cas sp f) c (fun t => t.vault.read 16 == 0) &&
    s.isLast && passB s far (amoRules far f 0 s) && nextB (.amo far f) s (fun t => (t.cx 0).chunk.held.length == 1 && (t.cx 0).chunk.cutReq) &&
    passB s far (amoRules far f 1 s) && nextB (.cas far f) s (fun t => (t.cx 0).chunk.held.length == 1) &&
    passB s near (amoRules near ⟨3, 2, 0⟩ 2 s) && okB (s.watched 0x20008 4 4 2) (fun _ => true) &&
    nextB (.famo near ⟨3, 2, 0⟩) s (fun t => (t.cx 0).chunk.held.length == 1) &&
    !mid.isLast && passB mid far (amoRules far f 0 mid) && raisesB (.amo far f) mid 0x15 0 && passB mid near (amoRules near ⟨3, 2, 0⟩ 2 mid) &&
    raisesB (.famo near ⟨3, 2, 0⟩) mid 0x15 0) = true := by decide +kernel

theorem test_QueuesAndLinks : (let s := mt.setX 2 9
    let up := fun (f : Mt → Mt) => s.upMtAt 0 0 f
    let q := up (fun m => m.setQ 3 [7, 8])
    let rq := up (fun m => { m with rq := List.replicate 16 1 })
    let ln := up (fun m => { m with linkUp := some 5 })
    let c := ((ct.setX 1 1).setX 2 7).upMtAt 0 7 (fun m => { m with rq := [4] })
    let full := fun (p : Phase) => (ct.setX 1 1).upMtAt 0 0 (fun m => { m.setQ 0 (List.replicate 16 0) with thr := { m.thr with phase := p } })
    let far := (mt.upThr (fun t => { t with far := [⟨4, .value 6⟩] }))
    let far := { far with cur := { far.cur with unit := 4 } }
    let room := s.upThr (fun t => { t with stall := some ⟨.returnRoom 9, 1, 0⟩ })
    passB s p0 { who := .mt, named := [4] } && nextB (.qpop p0 ⟨4, 3⟩) s (fun t => t.thr.far == [⟨4, .inputQueue 3⟩]) &&
    nextB (.qpop p0 ⟨4, 3⟩) q (fun t => t.thr.far == [⟨4, .value 7⟩] && t.mt.getQ 3 == [8]) &&
    nextB (.qpush p0 ⟨0, 2⟩) s (fun t => t.mt.rq == [9]) && waitsB (.qpush p0 ⟨0, 2⟩) rq (.returnRoom 9) &&
    nextB (.lsend p0 ⟨0, 2⟩) s (fun t => (t.mtAt 0 1).linkUp == some 9) &&
    (let b := s.upMtAt 0 1 (fun m => { m with linkUp := some 5 }); waitsB (.lsend p0 ⟨0, 2⟩) b (.linkRoom 1 9)) &&
    nextB (.lrecv p0 ⟨4, 1⟩) ln (fun t => t.thr.far == [⟨4, .value 5⟩] && t.mt.linkUp == none) &&
    nextB (.lrecv p0 ⟨4, 1⟩) s (fun t => t.thr.far == [⟨4, .link 0⟩]) &&
    passB c p0 (ctOnly { named := [1, 2] }) && c.inRoom 0 0 1 && nextB (.qwr p0 ⟨1, 2, 0⟩) c (fun t => (t.mtAt 0 0).getQ 0 == [7]) &&
    !(full .body).inRoom 0 0 1 && !(full .body).inDead 0 0 1 && waitsB (.qwr p0 ⟨1, 2, 0⟩) (full .body) (.inputRoom 0 1 0) &&
    (full .faulted).inDead 0 0 1 && raisesB (.qwr p0 ⟨1, 2, 0⟩) (full .faulted) 0xA8 0 &&
    nextB (.qrd p0 ⟨3, 2, 0⟩) c (fun t => t.thr.far == [⟨3, .value 4⟩] && (t.mtAt 0 7).rq.isEmpty) &&
    nextB (.qrd p0 ⟨3, 1, 0⟩) c (fun t => t.thr.far == [⟨3, .returnQueue 1⟩]) &&
    nextB .farResultArrive far (fun t => t.x 4 == 6 && t.thr.far.isEmpty) &&
    room.runs 0 && nextB .queueStallRelease room (fun t => t.mt.rq == [9])) = true := by decide +kernel

/-! ## Witnesses: vectors -/

/-- The checked and opened operands of a vector instruction. -/
def vecB (i : Instr) (s : State) (g : Pfx → VForm → VSet → Opnd → State → Bool) : Bool :=
  match i.vector with
  | some (p, f, r, v) => passB s p r && okB (s.vset p f v) (fun q => match q.2.dst with
    | some o => okB (q.1.vopen v q.2) (g p v q.2 o)
    | none => false)
  | none => false
/-- `Leaves` as a test. -/
def leavesB (i : Instr) (s : State) (cs : Nat → List Nat → List Nat → List Nat) : Bool := vecB i s (fun p v q o e =>
  doesB i s (((e.putCodes o (e.masked p (cs (elemBits q.ty) (q.src e 0) (q.src e 1)))).tagLines o false).vdone p v q (s.clashes q) 0))
/-- `Delivers` as a test. -/
def deliversB (i : Instr) (s : State) (sp : Bool) (k : Opnd → State → State → State) (nv : Flags)
    (g : Pfx → FV → VSet → Opnd → State → Nat → Nat → Nat × Flags) : Bool :=
  match i.vector with
  | some (p, f, r, v) => passB s p r && okB (s.vset p f v) (fun q => match q.2.dst with
    | some o => okB (q.1.vopen v q.2) (fun e =>
      let z := e.vdraws (v.rounds && e.vMode f == .sr) (vLen f)
      let es := (List.range (vLen f)).map (fun j => g p f q.2 o e (z.1.getD j 0) j)
      doesB i s ((((k o e z.2).putCodes o (e.masked p (es.map (·.1)))).tagLines o sp).vdone p v q.2 (s.clashes q.2)
        (e.activeFlags p (es.map (·.2)) ||| nv)))
    | none => false)
  | none => false
/-- MT 0 with a window of 64 KiB, in which lines 0 and 1 hold elements of a type; a0 = 0, a1 = 64, a2 = 128. -/
def vm (t : Nat) (bs cs : List Byte) : State :=
  let s := mt.upCx 0 (fun x => { x with win := 1 })
  let s := s.setMt (((s.mt.setA 1 64).setA 2 128).setA 3 256)
  let s : State := { s with vault := (s.vault.writeN 0 bs).writeN 64 cs }
  (s.setLineTag 0 0 ⟨t, false⟩).setLineTag 0 1 ⟨t, false⟩
/-- 16 elements of 32 bits. -/
def vi : State := vm tagI32 [0xFF, 0xFF, 0xFF, 0xFF, 5, 0, 0, 0] [2, 0, 0, 0, 0xFD, 0xFF, 0xFF, 0xFF]
/-- a2 := a0 with a1, 16 elements. -/
def v3 : FV := ⟨2, 0, 1, 1, 7⟩

theorem test_VectorFrame : (quietB vi && vi.rsvHolder != some 0 && vecB (.vadd p0 v3) vi (fun _ _ q o _ => q.ty == tagI32 && o.lines == [2]) &&
    nextB (.vadd p0 v3) vi (fun t => t.vault.read 128 == 1 && t.vault.read 132 == 2 && t.vault.read 192 == 0 && t.vault.read 64 == 2 &&
      (t.lineTag 0 2).tag == tagI32 && t.mt.getA 2 == 128 && t.mem == vi.mem)) = true := by decide +kernel

/-- FP32: 1.5 and 3 beside 2.25, and 1 in the destination. -/
def vf : State :=
  let s := vm tagF32 [0, 0, 0xC0, 0x3F, 0, 0, 0x40, 0x40] [0, 0, 0x10, 0x40]
  { s.setLineTag 0 2 ⟨tagF32, false⟩ with vault := s.vault.writeNat 128 4 0x3F800000 }
/-- The element of 32 bits at the destination. -/
def gives32 (i : Instr) (s : State) (n : Nat) : Bool := nextB i s (fun t => t.vault.readNat 128 4 == n)

/-- The numbers are those of IEEE 754: 1.5 + 2.25 = 3.75, 1.5 × 2.25 = 3.375, and so on. -/
theorem test_VectorArithmetic_floats : (let num := fun (q : VSet) (e : State) (i j : Nat) => elemNum q.ty false 0x7F ((q.src e i).getD j 0)
    let h := (vm tagF16 [0, 0x3E] [0x80, 0x40]).setLineTag 0 2 ⟨tagF32, false⟩
    let h := h.setLineTag 0 3 ⟨tagF32, false⟩
    deliversB (.vadd p0 v3) vf false (fun _ _ t => t) 0 (fun p f q o e z j => (modOf p).apply (fmtOr o.ty) (e.vRnd f z)
      (fadd (e.vMode f) (num q e 0 j) (num q e 1 j))) &&
    gives32 (.vadd p0 v3) vf 0x40700000 && gives32 (.vsub p0 v3) vf 0xBF400000 && gives32 (.vmul p0 v3) vf 0x40580000 &&
    gives32 (.vmax p0 v3) vf 0x40100000 && gives32 (.vmin p0 v3) vf 0x3FC00000 && gives32 (.vfma p0 v3) vf 0x408C0000 &&
    gives32 (.vfms p0 v3) vf 0x40180000 && vecB (.vmac p0 v3) h (fun _ _ q o _ => q.ty == tagF16 && o.ty == tagF32) &&
    gives32 (.vmac p0 v3) h 0x40580000) = true := by decide +kernel

theorem test_FloatRounding : (tagIsFloat tagF16 && (fp16.encode { mode := .rne } (.fin false 2049 0 false)) == (0x6800, fNX) &&
    (fp16.encode { mode := .ru } (.fin false 2049 0 false)) == (0x6801, fNX) &&
    (fp16.encode { mode := .rz } (.fin true 65536 0 false)) == (0xFBFF, fOF ||| fNX)) = true := by decide +kernel

theorem test_FunctionsAndConversions : (let all := fun (_ : Opnd) (_ : State) (t : State) => t
    let up := fun (k : SpFn) (i : Instr) => deliversB i vf false all 0 (fun p f q _ e z j =>
      let r := k.eval (elemNum q.ty false 0x7F ((q.src e 0).getD j 0))
      (modOf p).applyMore (fmtOr q.ty) (e.vRnd f z) (r.a, r.fl) r.more)
    let f1 : FV := { v3 with b := 0 }
    let vals := fun (q : VSet) (e : State) (j : Nat) => ((q.srcs.head?.map (fun k => e.values k false)).getD []).getD j (.zero false)
    let tgt := fun (t : Nat) => pR (BitVec.ofNat 11 (t * 4))
    let x := vm tagE4m3 [0x38, 0x44] []
    let y := ((vm tagF32 [0, 0, 0xC0, 0x3F] []).upArch 0 (fun a => { a with scaleBase := 4096 })).setPkgReg 0x0030 0xFFFFFF
    let mx := fun (o : Opnd) (e : State) => chooseMx o.ty ((List.range 32).map (fun j => if e.active p0 j && j == 0 then .fin false 3 (-1) false else .zero false))
    let bx := fun (o : Opnd) (e : State) => chooseBx o.ty ((List.range 16).map (fun j => if e.active p0 j && j == 0 then .fin false 3 (-1) false else .zero false))
    let w := ([0, 1, 2, 3].foldl (fun (s : State) l => s.setLineTag 0 l ⟨17, true⟩) (vm 17 [1] [])).upArch 0 (fun a => { a with scaleBase := 4096 })
    let w : State := { w with vault := (w.vault.write 64 0).write 4096 128, regs := y.regs }
    up .exp2 (.vexp2 p0 f1) && up .sqrt (.vsqrt p0 f1) && gives32 (.vrcp (pR 0) f1) vf 0x3F2AAAAB &&
    deliversB (.vcvt (tgt tagI32) f1 0) vf false all 0 (fun p f q _ e z j => encodeElem (vEtag p) (vU p) (e.vRnd f z) 0x7F (vals q e j)) &&
    gives32 (.vcvt (tgt tagI32) f1 0) vf 2 && gives32 (.vcvt (tgt tagF32) f1 0) vi 0xBF800000 &&
    deliversB (.vdqmx (tgt tagF32) f1) x false all 0 (fun p f q _ e z j => (modOf p).apply (fmtOr (vEtag p)) (e.vRnd f z) (vals q e j, 0)) &&
    gives32 (.vdqmx (tgt tagF32) f1) x 0x3F800000 &&
    deliversB (.vqmx (tgt tagE4m3) { f1 with h := 0 } 0) y true (fun o e t => t.putScale o (o.first / 32) (mx o e)) 0 (fun _ f _ o e z j =>
      encodeElem o.ty false (e.vRnd f z) (mx o e) (if j = 0 then .fin false 3 (-1) false else .zero false)) &&
    nextB (.vqmx (tgt tagE4m3) { f1 with h := 0 } 0) y (fun t => t.vault.read 128 == 0x7C && t.vault.read 4100 == 119) &&
    deliversB (.vqbx (tgt 17) { f1 with d := 3 } 0) y true (fun o e t => t.putScale o (o.first / 16) (bx o e)) 0 (fun _ f _ o e z j =>
      encodeElem o.ty false (e.vRnd f z) (bx o e) (if j = 0 then .fin false 3 (-1) false else .zero false)) &&
    deliversB (.vdqbx (tgt tagF32) { f1 with d := 3 }) w false all 0 (fun p f q _ e z j =>
      (modOf p).apply (fmtOr (vEtag p)) (e.vRnd f z) (vals q e j, 0)) &&
    nextB (.vdqbx (tgt tagF32) { f1 with d := 3 }) w (fun t => t.vault.readNat 256 4 == 0x3E800000)) = true := by decide +kernel

theorem test_VectorArithmetic : (let first := fun (a b : Nat) => a :: b :: List.replicate 14 0
    (vi.mt.getM 0 == 0xFFFFFFFF) && leavesB (.vadd p0 v3) vi (fun _ _ _ => first 1 2) &&
    leavesB (.vsub p0 v3) vi (fun _ _ _ => first 0xFFFFFFFD 8) && leavesB (.vmul p0 v3) vi (fun _ _ _ => first 0xFFFFFFFE 0xFFFFFFF1) &&
    leavesB (.vmax p0 v3) vi (fun _ _ _ => first 2 5) && leavesB (.vmin (pR 2) v3) vi (fun _ _ _ => first 2 5) &&
    leavesB (.vand p0 v3) vi (fun _ a b => a.zipWith (· &&& ·) b) && leavesB (.vxor p0 v3) vi (fun _ _ _ => first 0xFFFFFFFD 0xFFFFFFF8) &&
    leavesB (.vshl p0 v3) vi (fun _ _ _ => first 0xFFFFFFFC 0xA0000000) && leavesB (.vshr p0 v3) vi (fun _ _ _ => first 0xFFFFFFFF 0) &&
    leavesB (.vshr (pR 2) v3) vi (fun _ _ _ => first 0x3FFFFFFF 0)) = true := by decide +kernel

theorem test_VectorSelection : (let v : VForm := { srcs := [⟨0, none⟩, ⟨1, none⟩], accept := tagIsPlain }
    let m := vi.setMt (vi.mt.setM 0 1)
    let r := pR 0x100
    let z : State := (vm tagI8 [1, 2, 3] [2, 0, 31]).setLineTag 0 1 ⟨tagI8, false⟩
    let y := z.setMt ((z.mt.setA 0 0).setA 1 64)
    let w := (vm tagI16 [1, 0, 2, 0] [3, 0, 4, 0])
    let isF := fun (t : Nat) => tagIsPlain t && !tagIsInt t
    let n := vm tagF32 [0, 0, 0xC0, 0x7F] [0, 0, 0x80, 0x3F]
    passB vi p0 (vRules p0 v3 true false true false false false) && okB (vi.vset p0 v3 v) (fun q => okB (q.1.vopen v q.2) (fun e =>
      (q.2.src e 0).length == 16 && tagIsInt q.2.ty && e.active p0 15)) &&
    nextB (.vcmp p0 v3 2) vi (fun t => t.mt.getM 2 == 1) && nextB (.vcmp p0 v3 0) vi (fun t => t.mt.getM 2 == 0xFFFC) &&
    nextB (.vcmp (pR 2) v3 5) vi (fun t => t.mt.getM 2 == 0xFFFD) && isF tagF32 &&
    nextB (.vcmp p0 v3 1) vi (fun t => t.mt.getM 2 == 3) && nextB (.vcmp p0 v3 3) vi (fun t => t.mt.getM 2 == 0xFFFD) &&
    nextB (.vcmp p0 v3 4) vi (fun t => t.mt.getM 2 == 2) && nextB (.vcmp p0 v3 5) vi (fun t => t.mt.getM 2 == 0xFFFE) &&
    (let g := vm tagF32 [0, 0, 0x80, 0x3F, 0, 0, 0x80, 0xFF] [0, 0, 0, 0x40]
     nextB (.vcmp p0 v3 2) g (fun t => t.mt.getM 2 == 3) && nextB (.vcmp p0 v3 5) g (fun t => t.mt.getM 2 == 0xFFFC)) &&
    nextB (.vcmp p0 v3 6) n (fun t => t.mt.getM 2 == 1) && nextB (.vcmp p0 v3 1) n (fun t => t.mt.getM 2 == 1) &&
    vecB (.vsel r v3) m (fun _ _ _ _ _ => true) && nextB (.vsel r v3) m (fun t => t.vault.readNat 128 8 == 0xFFFFFFFDFFFFFFFF) &&
    leavesB (.vperm p0 v3) y (fun _ _ _ => 3 :: 1 :: 0 :: List.replicate 13 1) &&
    vecB (.vshuf p0 ⟨3, 0, 1, 0, 7⟩ 0) w (fun _ _ _ o _ => o.n == 32) &&
    nextB (.vshuf p0 ⟨3, 0, 1, 0, 7⟩ 0) w (fun t => t.vault.readNat 256 8 == 0x0004000200030001)) = true := by decide +kernel

theorem test_VectorReductions : (let s := vm tagI8 (List.replicate 64 0xFF) (List.replicate 64 1)
    let s := ((s.setLineTag 0 2 ⟨tagI8, false⟩).setLineTag 0 3 ⟨tagI8, false⟩).setMt ((s.mt.setA 2 256).setA 1 0)
    let b : State := { s with vault := s.vault.write 256 7 }
    let c := b.setLineTag 0 4 ⟨tagI64, false⟩
    let f : FV := ⟨2, 0, 0, 0, 7⟩
    let g : FV := ⟨2, 0, 1, 0, 7⟩
    vecB (.vredsum p0 f 0) s (fun _ _ q o e => tagIsInt q.ty && o.ty == tagI64 && o.n == 1 && (q.src e 0).length == 256) &&
    nextB (.vredsum p0 f 1) c (fun t => t.vault.readNat 256 8 == 7) &&
    vecB (.vdot p0 g 1) c (fun _ _ q o e => o.n == 1 && (q.src e 1).length == 256) &&
    nextB (.vdot p0 g 1) c (fun t => t.vault.readNat 256 8 == 7 + 128)) = true := by decide +kernel

theorem test_ElementsAndLines : (let s := vi.setX 2 0x20000
    let d := dat s
    let m : State := { d with mem := d.mem.write 0x70040 9 }
    let l : FAZ := ⟨2, 2, 0⟩
    let far := m.setX 2 0x20040
    passB s p0 { who := .mt, bad := false } && okB (s.baseSpot (s.adr 2) 1) (fun z => z.off == 128 && okB (s.inside 128 256 128 1) (fun _ => true) &&
      okB (s.openParts false true ((lineParts 64 128 256).map (fun x => (z.at x.1, x.2)))) (fun _ => true)) &&
    groupBytes tagI32 == 64 && nextB (.vtag p0 ⟨2, 0, 0, 0, 7⟩ 22) s (fun t => (t.lineTag 0 2).tag == 22) &&
    okB (s.baseSpot (s.adr 1) 0) (fun z => okB (s.openLine 0 z 1 true false) (fun _ => true)) &&
    nextB (.vgtag p0 ⟨3, 1, 0⟩ 7) s (fun t => t.x 3 == BitVec.ofNat 64 tagI32) &&
    okB (s.baseSpot 128 1) (fun z => okB (s.geometry z 128 tagI32 32 1 false) (fun o => okB (s.openOpnd o false false true) (fun e =>
      doesB (.vbcast p0 ⟨2, 2, 0⟩ 7 (BitVec.ofNat 6 tagI32)) s ((e.putCodes o (List.replicate 32 (some 0x20000))).tagLines o false)))) &&
    okB (s.elemSpot 1 tagI32 1 0) (fun x => okB (x.1.spRead 0 x.2.1 4) (fun y => y.2 == [0xFD, 0xFF, 0xFF, 0xFF])) &&
    nextB (.vext (pI 1) ⟨3, 1, 0⟩ 7 (BitVec.ofNat 6 tagI32)) s (fun t => t.x 3 == -3) &&
    nextB (.vext (pI 1) ⟨3, 1, 1⟩ 7 (BitVec.ofNat 6 tagI32)) s (fun t => t.x 3 == 0xFFFFFFFD) &&
    okB (s.elemSpot 2 tagI32 31 1) (fun x => okB (x.1.spWrite 0 x.2.1 [0, 0, 2, 0]) (fun _ => true)) &&
    nextB (.vins (pI 31) ⟨2, 2, 0⟩ 7 (BitVec.ofNat 6 tagI32)) s (fun t => t.vault.read 254 == 2 && (t.lineTag 0 3).tag == tagI32) &&
    passB far p0 (vlRules l 7 false) && okB (far.vlLine l 1) (fun z => okB (far.memLoad (far.vlva p0 l) 64 64) (fun x => okB (x.1.spWrite 0 z x.2) (fun _ => true))) &&
    nextB (.vld p0 l 7 (BitVec.ofNat 6 tagI32)) far (fun t => t.vault.read 128 == 9 && (t.lineTag 0 2).tag == tagI32) &&
    okB (far.vlLine ⟨0, 2, 0⟩ 0) (fun z => okB (far.spRead 0 z 64) (fun x => okB (x.1.memStore 0x20040 64 x.2) (fun _ => true))) &&
    nextB (.vst p0 ⟨0, 2, 0⟩ 7 0) far (fun t => t.seeByte 0 0x70040 == 0xFF && t.seeByte 0 0x70044 == 5)) = true := by decide +kernel

theorem test_AddressRegisters : (let s := (mt.setMt ((mt.mt.setA 7 0xFFFFFFFF).setA 6 3)).setX 2 0x100000002
    let a := fun (i : Instr) (n : Nat) (v : BitVec 32) => doesB i s (s.setMt (s.mt.setA n v))
    a (.aaddX (pI 0x7FF) ⟨7, 2⟩ 7) 7 0 && a (.aaddA p0 ⟨7, 6⟩ 7) 7 2 && a (.ali p0 ⟨7, 0x3F⟩ 7) 7 0xFFFFFFFF &&
    a (.amovAx p0 ⟨7, 2⟩ 7) 7 2 && doesB (.amovXa p0 ⟨3, 7⟩ 7) s (s.setX 3 0xFFFFFFFF) &&
    doesB (.amovMx p0 ⟨3, 2⟩ 7) s (s.setMt (s.mt.setM 3 2)) && doesB (.amovXm p0 ⟨3, 3⟩ 7) s (s.setX 3 0xFFFFFFFF)) = true := by decide +kernel

/-! ## Witnesses: micro-threads and gangs -/

/-- A block of kind 1 at 0x10010, of kind 2 at 0x10018, of length 0 at 0x10020. -/
def blocks (s : State) : State :=
  { s with mem := (s.mem.writeNat 0x10010 4 (bootHdr 1 1).toNat).writeNat 0x10018 4 (bootHdr 1 2).toNat }
/-- Cores 0 and 1 with contexts of one launch. -/
def two (s : State) : State := s.setCore 1 (s.core 0)

theorem test_ThreadControl : (let s := (blocks ct).setX 1 0x8001
    let at' := fun (i : Nat) (f : Mt → Mt) => s.upMtAt 0 i f
    let bq := fun (n : Nat) (m : Mt) => { m with bq := List.replicate n ⟨false, 0x10010⟩ }
    let full := at' 15 (bq 4)
    let dead := full.upMtAt 0 15 (fun m => { m with thr := { m.thr with phase := .faulted } })
    let ph := fun (p : Phase) (m : Mt) => { m with thr := { m.thr with phase := p, x := [(3, 4)] }, rq := [1], q := [(0, [2])] }
    let res := at' 0 (ph .faulted)
    let run := at' 15 (ph .body)
    let stall := fun (q : State) (w : Wait) => q.upThr (fun t => { t with stall := some ⟨w, 1, 0⟩ })
    let idle : State := { at' 3 (bq 1) with cur := { core := 0, thr := 3 } }
    let g : FAZ := ⟨2, 1, 0⟩
    passB s p0 (admitRules p0 ⟨1, 2⟩) && okB (s.fetchN 0 0x10010 4 8) (fun v => entryCause true (BitVec.ofNat 32 v) == some 0x0D &&
      entryCause false (BitVec.ofNat 32 v) == none) && nextB (.mtgo p0 ⟨1, 2⟩) s (fun t => (t.mtAt 0 15).bq == [⟨false, 0x10010⟩] && (t.mtAt 0 1).bq.isEmpty) &&
    raisesB (.bcast p0 ⟨1, 4⟩) s 0x0A 0 && raisesB (.mtgo p0 ⟨1, 4⟩) s 0x0A 0 && raisesB (.bcast p0 ⟨1, 3⟩) s 0x0D 0 && raisesB (.mtgo p0 ⟨1, 3⟩) s 0x0D 0 &&
    (let k := fun (q : State) => { q with mem := q.mem.writeNat 0x10010 4 (bootHdr 1 0).toNat }
     nextB (.bcast p0 ⟨1, 2⟩) (k s) (fun t => (t.mtAt 0 0).bq == [⟨true, 0x10010⟩]) &&
     waitsB (.bcast p0 ⟨1, 2⟩) (k full) (.admission true 0x8001 0x10010) && (full.bqDead 0 0x8001 == false) &&
     dead.bqDead 0 0x8001 && raisesB (.bcast p0 ⟨1, 2⟩) (k dead) 0xA8 0) &&
    nextB (.mtjoin p0 g) s (fun t => t.f 2) && waitsB (.mtjoin p0 g) full (.join 2 0x8001) &&
    nextB (.mtjoin p0 g) dead (fun t => !t.f 2) &&
    nextB (.mtstat p0 ⟨2, 1, 0⟩ 4) run (fun t => t.thr.far == [⟨2, .value 0⟩]) &&
    nextB (.mtres p0 ⟨0, 1, 0⟩ 1) res (fun t => (t.mtAt 0 0) == (res.mtAt 0 0).resume true && (t.mtAt 0 1) == res.mtAt 0 1) &&
    nextB (.mtkill p0 ⟨0, 1, 0⟩) run (fun t => (t.mtAt 0 15).thr.phase == .idle && (t.mtAt 0 15).rq == [1] && (t.mtAt 0 15).q.isEmpty &&
      (t.mtAt 0 15).thr.getX 3 == 4) &&
    (stall s (.admission false 0x8001 0x10010)).runs 0 && s.alone &&
    nextB .admitEntry (stall s (.admission false 0x8001 0x10010)) (fun t => (t.mtAt 0 0).bq.length == 1 && t.thr.stall.isNone) &&
    s.joined 0 0x8001 && nextB .mtjoinComplete (stall s (.join 2 0x8001)) (fun t => t.f 2) &&
    idle.mayAct 0 3 && idle.mt.thr.phase == .idle && !idle.holdsBlock 0 3 &&
    nextB .mtBeginEntry idle (fun t => t.mt.bq.isEmpty && t.mt.mode == .detached && t.thr.phase == .body)) = true := by decide +kernel

theorem test_Gangs : (let s := two ct
    let gang := fun (q : State) (d : Nat) (own : Bool) => q.upArch d (fun a => { a with gang := some ⟨0, d, 0, own⟩ })
    let mid := s.upThr (fun t => { t with hdr := bootHdr 2 2 })
    let own := gang s 0 true
    let st := gang (gang s 0 false) 1 false
    let fol : State := { st with cur := { st.cur with core := 1 } }
    let wait := fun (q : State) (d : Nat) => q.upCx d (fun x => { x with
                                                         arch := { x.arch with gangWait := some 0, ct := { x.arch.ct with stall := some ⟨.gang, 1, 0⟩ } }
                                                         chunk := { x.chunk with ckpt := { x.chunk.ckpt with gangWait := some 0 } } })
    let w := wait (wait s 0) 1
    let w := w.upArch 1 (fun a => { a with ct := { a.ct with off := 9, x := [(1, 5)] } })
    let r := ctOnly { bad := false, range := false }
    passB mid p0 r && raisesB (.gang p0 ⟨0, 0⟩) mid 0xA9 0 && s.isLast && passB own p0 r && raisesB (.gang p0 ⟨0, 0⟩) own 0xAE 0 &&
    raisesB (.gang p0 ⟨0, 3⟩) s 0xAD 0 && !(gangGroup 0 0).any (s.gangAbsent 0) &&
    raisesB (.gang p0 ⟨0, 0⟩) (s.upArch 0 (fun a => { a with gangBad := true })) 0xAA 0 && (s.gangClash 0 0).isEmpty &&
    nextB (.gang p0 ⟨0, 0⟩) s (fun t => (t.arch 0).gangWait == some 0 && (t.cx 0).chunk.cutReq && t.thr.phase == .body) &&
    raisesB (.split p0 ⟨0, 0, 0⟩) mid 0xA9 0 && raisesB (.split p0 ⟨0, 0, 0⟩) s 0xAE 0 && passB own p0 (ctOnly {}) &&
    nextB (.split p0 ⟨0, 0, 0⟩) own (fun t => (t.cx 0).chunk.held == [.split]) &&
    fol.isCt && fol.inStream 1 && fol.follows && becomesB (.add p0 ⟨1, 2⟩) fol fol &&
    st.isCt && st.inStream 0 && !st.follows && st.gangOrder == [0, 1] && st.gangOrder.all (fun d => let q := st.atCore d
      q.thr.late.isNone && !q.breaks && (match q.gate p0 (binRules p0 ⟨1, 2⟩) with | .ok _ => true | _ => false) && quietB q && q.isLast) &&
    nextB (.addi p0 ⟨1, 5⟩) st (fun t => (t.arch 0).ct.getX 1 == 5 && (t.arch 1).ct.getX 1 == 5) &&
    nextB (.split p0 ⟨0, 0, 0⟩) st (fun t => [0, 1].all (fun d => (t.cx d).chunk.held == [.split] && (t.arch d).gangWait == some 0)) &&
    (gangGroup 0 0).all (fun d => (w.cx d).launch == (w.cx 0).launch && w.gangReady d 0) &&
    nextB .gangForm w (fun t => (t.arch 1).gang == some ⟨0, 1, 0, false⟩ && [0, 1].all (fun d => (t.arch d).ct.phase == .entry 0x10008) && (t.arch 1).ct.getX 1 == 5)) = true := by
  decide +kernel

theorem test_Gangs_clash : (let s := two ct
    let s := s.upCx 1 (fun x => { x with arch := { x.arch with gangWait := some 1, ct := { x.arch.ct with stall := some ⟨.gang, 1, 0⟩ } } })
    s.isLast && (s.arch 0).gang.isNone && !(gangGroup 0 0).any (s.gangAbsent 0) && s.gangClash 0 0 == [1] &&
    (s.core 1).slotOf 0 == some (s.core 1).slotNo &&
    nextB (.gang p0 ⟨0, 0⟩) s (fun t => [0, 1].all (fun d => (t.arch d).gangBad && (t.arch d).ct.stall.isNone))) = true := by decide +kernel

/-! ## Witnesses: copies and gathers -/

/-- A template: 64 raw bytes from memory at 0x20000 to the scratchpad of core 0 at 0, counter 1. -/
def tpl : BitVec 512 := BitVec.ofNat 512 (0x20000 + 2 ^ 120 + (64 + 2 ^ 16 + 2 ^ 32 + 2 ^ 48) * 2 ^ 128 + (2 ^ 15 + 2 ^ 16) * 2 ^ 384)
/-- A window of 64 KiB, data pages, an open aperture at 0x3000, template 0. -/
def cp : State := (dat ct).upCx 0 (fun x => { x with win := 1, arch := { x.arch with templates := [(0, tpl)], cpyAp := 0x3001 } })
/-- The copy command of that template. -/
def cmd : CopyCmd := copyCmd (cp.cx 0) false 2 tpl 0

theorem test_CopyInstructions : (let f : FAZ := ⟨1, 2, 3⟩
    let s := cp.setX 2 0x3080
    let ctr := cp.upCx 0 (fun x => { x with ctr := [(1, 2)] })
    let t : State := { (cp.setX 2 0x20000) with mem := cp.mem.writeNat 0x70000 64 tpl.toNat }
    let v : State := { (cp.setX 2 0) with vault := cp.vault.writeNat 0 64 tpl.toNat }
    let ch := (cp.setX 2 5).upCore 0 (fun k => { k with chans := [(5, { st := .repair, w := 77, tpl := 3, lines := 9 })] })
    let g := (cp.setX 2 0x20000).setX 3 (2 ^ 41)
    let out := cp.upCx 0 (fun x => { x with fifoOut := [(3, 1)] })
    let val := out.upCx 0 (fun x => { x with fifos := [(3, [8])] })
    passB s p0 (ldRules p0 f) && s.inAperture 0 0x3080 && !tplBx tpl && s.copyCause 0 0x3080 3 0 == none &&
    nextB (.st p0 f) s (fun t => (t.cx 0).chunk.held == [.copy cmd] && (t.cx 0).chunk.cutReq) &&
    s.copyCause 0 0x3080 2 0 == some 0x52 && raisesB (.st p0 ⟨1, 2, 2⟩) s 0x52 0x3080 &&
    raisesB (.st p0 f) (s.setX 1 1) 0x80 0x3080 && tplCheck tpl == none &&
    okB (t.loadAt 0 0x20000 64 64 0) (fun x => BitVec.ofNat 512 (ofBytes x.2) == tpl) &&
    nextB (.ctpl p0 ⟨1, 2, 0⟩ 0) t (fun u => (u.arch 0).templates.get 0 0 == tpl) &&
    okB (v.spot 0 0 64 64 0) (fun z => okB (v.spRead 0 z 64) (fun _ => true)) && nextB (.ctpl p0 ⟨1, 2, 0⟩ 1) v (fun _ => true) &&
    (cp.cx 0).inFlight.isEmpty && doesB (.cwait p0 ⟨1, 1⟩) cp cp && waitsB (.cwait p0 ⟨1, 2⟩) ctr (.counter 1 2) &&
    doesB (.cwait p0 ⟨1, 3⟩) ctr ctr && passB ctr p0 (ctOrMt {}) &&
    nextB (.cread p0 ⟨3, 1, 0⟩ 0) (ctr.setX 1 1) (fun t => t.thr.far == [⟨3, .value 2⟩]) &&
    nextB (.cread p0 ⟨3, 2, 0⟩ 1) ch (fun t => t.thr.far == [⟨3, .value 0x900030002⟩]) &&
    nextB (.cread p0 ⟨3, 2, 0⟩ 2) (out.setX 2 3) (fun t => t.thr.far == [⟨3, .value 0x10000⟩]) &&
    nextB (.cset p0 ⟨1, 2, 0⟩) ch (fun t => (t.cx 0).chunk.held == [.cset 1 5]) &&
    nextB (.wmrd p0 ⟨3, 2, 0⟩) ch (fun t => t.thr.far == [⟨3, .value 77⟩]) &&
    passB g (pR 0x180) (ctOnly { reg := true }) && g.gatherCause 0 0x20000 (2 ^ 41) == none &&
    nextB (.epush (pR 0x180) ⟨0, 2, 0⟩) g (fun t => (t.cx 0).chunk.held.length == 1) &&
    raisesB (.epush (pR 0x180) ⟨0, 2, 0⟩) (g.setX 3 (3 * 2 ^ 41)) 0x88 0x20000 &&
    raisesB (.epop p0 ⟨3, 3, 0⟩) cp 0x8F 0 && out.fifoOwed 0 3 == 0 && nextB (.epop p0 ⟨3, 3, 0⟩) out (fun t => t.thr.far == [⟨3, .fifo 3 0⟩]) &&
    (val.takeFar 0 16 (.fifo 3 0)).isSome && nextB (.epop p0 ⟨3, 3, 0⟩) val (fun t => t.thr.far == [⟨3, .value 8⟩])) = true := by decide +kernel

/-- The template with memory at 0x20103 as its destination, and its command. -/
def tplM : BitVec 512 := BitVec.ofNat 512 (tpl.toNat - 2 ^ 120 + 0x20103 * 2 ^ 64)
def cmdM : CopyCmd := copyCmd (cp.cx 0) false 2 tplM 0

/-- Channel 2 at its first line. -/
def cpM : State := { cp with mem := (cp.mem.write 0x70005 3).write 0x70102 9, cur := { cp.cur with unit := 2 } }.upCore 0 (fun k =>
  { k with chans := [(2, { st := .active, cur := some cmdM, waiting := [], w := 0x20103 })] })

theorem test_EngineSteps_dirty (h : Touches) : cpM.enginePa 0 0x20100 1 false h (copyCovers cmdM) 0x81 = .ok (cpM, 0x1C04 * 64) := by
  rfl

theorem test_EngineSteps : (let run := fun (s : State) (q : CopyCmd) (w : Nat) => ({ s with cur := { s.cur with unit := 2 } } : State).upCore 0 (fun k =>
      { k with chans := [(2, { st := .active, cur := some q, waiting := [{ q with tpl := 9 }], w := w })] })
    let s := run { cp with mem := cp.mem.write 0x70005 3 } cmd 0
    let d := (run cp cmd 64).upCx 0 (fun x => { x with ctr := [(1, 2)] })
    let bad := run cp { cmd with dst := 5 * 2 ^ 21 } (5 * 2 ^ 21)
    let g : GatherCmd := { core := 0, launch := 0, asid := 0, sup := false, base := 0x20000, ctl := BitVec.ofNat 64 (2 ^ 42 + 2 ^ 52 * 3) }
    let e : State := { cp with gathers := [(2, [g])], cur := { cp.cur with unit := 2 }, vault := cp.vault.write 0 1, mem := cp.mem.write 0x70001 0x85 }
    (s.chan 0 2).st == .active && okB (s.copyUnit (s.chan 0 2) cmd) (fun x => x.2.w == 64) &&
    nextB .copyLineWrite s (fun t => t.vault.read 5 == 3 && (t.chan 0 2).w == 64 && (t.chan 0 2).lines == 1 && (t.lineTag 0 0).tag == 0) &&
    !tConverts tpl && !tUnited tpl && dstNext tpl 0 == some 0 && dstCores cmd == [0] && s.window 0 0 == some (1, some 0) &&
    okB (s.slotReady cmd [0] 0) (fun _ => true) && s.lineUsers 0 0 == [] &&
    okB (s.enginePa 0 0x20000 0 false touchesLine coversNone 0x81) (fun x => x.1 == s && x.2 == 0x70000) &&
    tDkind tplM == 0 && !cpM.synthBusy none 0x70100 && dstNext tplM 0 == some 0 && !cpM.engineTest 0 0 2 &&
    okB (cpM.enginePa 0 0x20000 0 false touchesLine coversNone 0x81) (fun x => x.1 == cpM && x.2 == 0x70000) &&
    nextB .copyLineWrite cpM (fun t => t.mem.read 0x70108 == 3 && t.mem.read 0x70005 == 3 &&
      t.mem.read 0x70102 == 9 && (t.chan 0 2).w == 0x20140) &&
    (match bad.copyUnit (bad.chan 0 2) { cmd with dst := 5 * 2 ^ 21 } with | .error (.ends _ 0x85 _) => true | _ => false) &&
    nextB .copyLineWrite bad (fun t => (t.chan 0 2).st == .failed && (t.cx 0).fin.isSome) &&
    dstSpan tpl == 64 && chanOff (d.chan 0 2) cmd == 64 &&
    nextB .copyComplete d (fun t => (t.cx 0).ctr.get 1 0 == 1 && (t.chan 0 2).cur == some { cmd with tpl := 9 } && t.vault == d.vault) &&
    e.gatherCur == some g && okB (e.gatherNext g) (fun x => x.2 == 0x85) &&
    nextB .gatherElement e (fun t => (t.cx 0).fifos.get 3 [] == [0x85])) = true := by decide +kernel

/-! ## Witnesses: barriers and domains -/

/-- An object: arrived, expected, phase, armed. -/
def obj (a e ph : Nat) (armed : Bool) : Nat := a + e * 2 ^ 16 + ph * 2 ^ 32 + b2n armed * 2 ^ 37

theorem test_Barriers : (let at' := fun (o : Nat) => ({ (cp.setX 2 32) with vault := cp.vault.writeNat 32 8 o, objs := [2] } : State)
    let h : FI := ⟨2, 2⟩
    let ini := (cp.setX 2 32).setX 1 (3 + 5 * 2 ^ 18)
    let w := fun (s : State) (lim : Nat) => s.setX 3 (BitVec.ofNat 64 (4 + lim * 16))
    let r := pR 0x180
    let f : FAZ := ⟨1, 2, 0⟩
    let wk := (cp.upCore 0 (fun k => { k with wakes := [2] })).upThr (fun t => { t with stall := some ⟨.barrier 2 7 false, 1, 0⟩ })
    let late : State := { wk with cycle := 7 }
    passB ini p0 (ctOnly {}) && okB (ini.objSpot 2 1) (fun q => q.obj == 2 && okB (ini.spWrite 0 q (toBytes 8 (obj 0 3 5 true))) (fun _ => true)) &&
    raisesB (.barinit p0 f) (ini.setX 1 (2 ^ 16)) 0xA3 0 &&
    nextB (.barinit p0 f) ini (fun t => t.vault.readNat 32 8 == obj 0 3 5 true && t.objs == [2] && (t.cx 0).chunk.wakes == [2]) &&
    passB (at' 0) p0 (ctOrMt {}) && raisesB (.barv p0 h) (at' (obj 0 3 5 false)) 0xA1 0 &&
    raisesB (.barv p0 h) (at' (obj 0 3 5 true + 2 ^ 56)) 0xA2 0 &&
    okB ((at' (obj 1 3 5 true)).objSpot 2 2) (fun q => okB ((at' (obj 1 3 5 true)).spRmw 0 q 8) (fun x => ofBytes x.2 == obj 1 3 5 true)) &&
    nextB (.barv p0 h) (at' (obj 0 3 5 true)) (fun t => t.vault.readNat 32 8 == obj 2 3 5 true && (t.cx 0).chunk.cutReq) &&
    nextB (.barv p0 h) (at' (obj 1 3 15 true)) (fun t => t.vault.readNat 32 8 == obj 0 3 0 true && (t.cx 0).chunk.wakes == [2]) &&
    nextB (.barv p0 h) (at' (obj 2 3 5 true)) (fun t => t == (at' (obj 2 3 5 true)).finish (.error (.overrun 2))) &&
    passB (at' 0) r (ctOrMt { reg := true }) && nextB (.barw r f) (w (at' (obj 0 3 5 true)) noLimit) (fun t => t.f 1) &&
    nextB (.barw r f) (w (at' (obj 0 3 4 true)) 0) (fun t => !t.f 1 && t.thr.stall.isNone) &&
    waitsB (.barw r f) (w (at' (obj 0 3 4 true)) noLimit) (.barrier 2 noLimit false) &&
    nextB .barrierWake wk (fun t => (t.core 0).wakes.isEmpty && t.thr.stall == some ⟨.barrier 2 7 true, 1, 0⟩) &&
    nextB .barwTimeout late (fun t => t.thr.stall == some ⟨.barrier 2 7 true, 1, 0⟩)) = true := by decide +kernel

theorem test_Domains : (let dom := fun (s : State) (ph : Word) => s.upCx 0 (fun x => { x with domId := 0x10009, domPhase := ph })
    let s := dom (sup ct) 15
    let stall := fun (a : Arch) => { a with ct := { a.ct with stall := some ⟨.phaseEnd 1, 1, 0⟩ } }
    let cut := s.upCx 0 (fun x => { x with arch := stall x.arch, chunk := { x.chunk with ckpt := stall x.chunk.ckpt } })
    let d : Dom := { lvl := 1, place := 0, id := 9, members := [(0, 0), (1, 0)], arrived := [], ph := 15, det := false }
    let a1 : State := { cut with doms := [d], cur := { cut.cur with unit := 1 } }
    let a2 : State := { a1 with doms := [{ d with arrived := [(1, 0)] }] }
    let pe := cut.upCore 0 (fun k => { k with phaseEnds := [(0, 1)] })
    let rel : State := { ct.upCore 0 (fun k => { k with dmems := [(0, 1, 0x10009)] }) with doms := [] }
    let v := s.setX 2 0x10009
    passB ct p0 (ctOnly { bad := false, range := false }) && raisesB (.dsync p0 ⟨0, 3⟩) ct 0xA3 0 && (s.cx 0).inDom 1 &&
    nextB (.dsync p0 ⟨0, 1⟩) s (fun t => t.thr.stall == some ⟨.phaseEnd 1, 1, 0⟩ && (t.cx 0).chunk.cutReq) &&
    passB v p0 (ctOnly { super := true }) && nextB (.dmemPkg p0 ⟨0, 2, 0⟩) v (fun t => (t.cx 0).chunk.held == [.dmem 3 0x10009]) &&
    raisesB (.dmemCl p0 ⟨0, 2, 0⟩) (dom v 0x1F) 0xA4 0 && (cut.cx 0).dsyncCut 1 && !(cut.cx 0).domArr 1 && !cut.boundCopy 0 0 1 (some 15) &&
    d.is 1 (domPlace 1 0) ((cut.cx 0).domNo 1) && nextB .dsyncArrival a1 (fun t => (t.cx 0).domArr 1 && t.doms == [{ d with arrived := [(0, 0)] }]) &&
    nextB .dsyncArrival a2 (fun t => t.doms == [{ d with ph := 0 }] && (t.core 1).phaseEnds == [(0, 1)] && (t.core 0).phaseEnds == [(0, 1)]) &&
    nextB .phaseEndReceive pe (fun t => (t.core 0).phaseEnds.isEmpty && (t.cx 0).domPh 1 == 0 && t.thr.stall.isNone) &&
    !rel.boundCopy 0 0 1 none && !rel.joinBad 0 1 (rel.cx 0) 0x10009 &&
    nextB .dmemRelease rel (fun t => (t.cx 0).inDom 1 && (t.core 0).dmems.isEmpty)) = true := by decide +kernel

/-! ## Witnesses: matrix array, near instructions, shards -/

/-- A window of 64 KiB and two tiles. -/
def mat : State := (dat ct).upCx 0 (fun x => { x with win := 1, accn := 2 })
/-- An `mgo` of FP16 operands with K = 1, solo, into tile 1. -/
def gF16 : MgoSnap := { aoff := 0, afmt := tagF16, astr := 1, boff := 2048, bfmt := tagF16, bstr := 1, k := 1, tile := 1, ovr := true
                        joint := false, shift := 0, sat := false, scale := 0, gang := none, seq := 1 }
/-- A released command of launch 0. -/
def rel (s : State) (m : MatCmd) (f : MatRel → MatRel) : State := s.upCore 0 (fun k => { k with mat := [f { launch := 0, cmd := m }] })
/-- `gemvh` of one E4M3 row, one element, one vector: B at 0x20000, x at 0, y at 4096. -/
def gv : BitVec 512 := BitVec.ofNat 512 (0x20000 + tagE4m3 * 2 ^ 56 + 1024 * 2 ^ 128 + tagE4m3 * 2 ^ 226 + 4096 * 2 ^ 320)

theorem test_MatrixInstructions : (let f : FAZ := ⟨0, 2, 0⟩
    let s := (mat.upCx 0 (fun x => { x with arch := { x.arch with
      mcfg0 := BitVec.ofNat 64 (tagF16 * 2 ^ 21 + 2 ^ 26), mcfg1 := BitVec.ofNat 64 (2048 + tagF16 * 2 ^ 21 + 2 ^ 26), mcfg2 := 0x110000 } }))
    let x := fun (v : Word) => s.setX 2 v
    let held := fun (i : Instr) (q : State) (m : MatCmd) => nextB i q (fun t => (t.cx 0).chunk.held == [.matrix m] && (t.cx 0).chunk.cutReq)
    let img := BitVec.ofNat 64 (tagF32 * 2 ^ 33 + 2 ^ 29)
    let h := (s.setPkgReg 0x0030 0x81).setX 2 128
    let g : State := { h with vault := h.vault.writeNat 128 64 gv.toNat }
    passB s p0 (matRules f) && nextB (.msetA p0 f) (x 9) (fun t => (t.arch 0).mcfg0 == 9) && nextB (.msetOp p0 f) (x 9) (fun t => (t.arch 0).mcfg2 == 9) &&
    nextB (.msclSet p0 f) (x 0xFF) (fun t => (t.arch 0).mxp == 0xFF) && raisesB (.msclSet p0 f) (x 0x100) 0x90 0 &&
    mgoCause false 1 2 (s.arch 0) 0 (mgoSnap (s.arch 0) 0) 0 == none && held (.mgo p0 f) (x 0) (.mgo { gF16 with seq := 0 }) &&
    held (.mzero p0 f) (x 3) (.mzero 3) && raisesB (.mzero p0 f) (x 4) 0x93 0 && raisesB (.mzero p0 f) (x 0x10000) 0x90 0 &&
    (x img).imgCause 0 img true == none && held (.mrd p0 f) (x img) (.mrd img 0) && held (.mwr p0 f) (x img) (.mwr img) &&
    raisesB (.mrd p0 f) (x (img + 2 ^ 29)) 0x93 0 && raisesB (.gemvh p0 f) s 0x1F 0 &&
    okB (g.spot 0 128 64 64 0) (fun q => okB (g.spRead 0 q 64) (fun y => !gvShapeBad gv && !gvFmtBad gv && y.1.gvOutside 0 gv 0 == none)) &&
    held (.gemvh p0 f) g (.gemvh gv 0 0 false) && doesB (.msclRd p0 ⟨3, 0, 0⟩) s (s.setX 3 0) && held (.msclClr p0 ⟨0, 0, 0⟩) s .clr) = true := by
  decide +kernel

theorem test_MatrixSteps : (let open' := fun (b : Nat) => rel mat (.mgo gF16) (fun m => { m with readySince := some b })
    let run := rel mat (.mgo gF16) (fun m => { m with closed := true, records := 1 })
    let first := rel mat (.mgo gF16) (fun m => { m with closed := true })
    let pair := fun (k : Nat) => let q := fun (p n : Nat) => ({ gF16 with k := n, gang := some ⟨0, p, 0, false⟩ } : MgoSnap)
      ((two mat).upCore 0 (fun c => { c with mat := [{ launch := 0, cmd := .mgo (q 0 k), closed := true, records := 1 }] })).upCore 1 (fun c =>
        { c with mat := [{ launch := 0, cmd := .mgo (q 1 1), closed := true }] })
    let late : State := { pair 1 with cycle := 2 ^ 24 + 1, cores := ((pair 1).upCore 0 (fun c => { c with mat := c.mat.map (fun m => { m with closed := false, readySince := some 0 }) })).cores }
    let late := late.upCore 1 (fun c => { c with mat := [] })
    let joint : MgoSnap := { gF16 with gang := some ⟨0, 0, 0, false⟩ }
    let one := fun (k : Nat) => { pair k with cur := { core := 1, thr := 16 } }
    let free := fun (s : State) => (match s.matAt 0 0 with | some m => s.matFree 0 0 m && !s.matLost 0 0 m.cmd && !s.olderGoes 0 m && m.out.isNone | none => false)
    let mz := { rel mat (.mzero 2) id with acc := mat.acc.write 4100 7 }
    let clr := (rel mat .clr id).upCx 0 (fun x => { x with matStat := 0x1000F })
    let img := BitVec.ofNat 64 (tagF32 * 2 ^ 33 + 2 ^ 29)
    let wr := { rel mat (.mwr img) id with vault := mat.vault.write 132 9 }
    let rd := { rel mat (.mrd img 0) id with acc := mat.acc.write 4100 7 }
    let gx : State := { rel mat (.gemvh gv 0 0 false) id with tlb := [⟨false, 0, 2, 7, 0x78D⟩] }
    (open' 0).mgoAt 0 0 == some (0, gF16) && !(open' 0).lostMember 0 0 gF16 && (open' 0).barrierReady 0 0 0 gF16 && (open' 0).partOf 0 0 0 gF16 0 == some 0 &&
    nextB .rowBarrierClose (open' 0) (fun t => (t.matAt 0 0).map (·.closed) == some true) &&
    late.mgoAt 0 0 == some (0, joint) && !late.lostMember 0 0 joint && late.mgoReady 0 0 && !late.barrierReady 0 0 0 joint && nextB .rowBarrierTimeout late (fun t => (t.cx 0).fin.isSome && (t.core 0).mat.isEmpty) &&
    (first.running 0).isSome && gF16.blocks == 1 && nextB .exponentRecord first (fun t => (t.matAt 0 0).map (·.records) == some 1) &&
    (one 1).cur.core == 1 && nextB .exponentRecord (one 1) (fun t => (t.matAt 1 0).map (·.records) == some 1) &&
    nextB .exponentRecord (one 2) (fun t => (t.cx 0).fin.isSome && (t.cx 1).fin.isSome) &&
    (run.running 0).isSome && run.mgoTagFault 0 0 gF16 == none && (run.launchCx 0 0).isSome &&
    (match run.matAt 0 0 with | some m => run.matLines 0 m && !run.matLost 0 0 m.cmd | none => false) &&
    nextB .mgoComplete run (fun t => (t.core 0).mat.isEmpty) &&
    free mz && free clr &&
    nextB .msclClrExecute clr (fun t => (t.cx 0).matStat == 0x10000) && free wr && elemBits tagF32 == 32 &&
    ((MatCmd.mwr img).reads 0).all (fun r => (wr.comTag r.1 (r.2.1 / 64)).tag == 0) && free rd &&
    (rd.physLines 0 ((MatCmd.mrd img 0).writes 0)).all (fun q => rd.lineUsers q.1 q.2 == []) && ((MatCmd.mrd img 0).writes 0).all (fun r => decide (r.2.2 ≤ 2 ^ 21)) &&
    free gx && okB (gx.gvRead gv 0 false) (fun _ => true) && gx.tagFault 0 0 tagE4m3 0 0 1 1 == none &&
    (gx.physLines 0 ((MatCmd.gemvh gv 0 0 false).writes 0)).all (fun q => gx.lineUsers q.1 q.2 == [])) = true := by decide +kernel

theorem test_NearInstructions : (let s := (sup ct).setX 2 256
    let dom := sup ct
    let fe := s.setPkgReg 0x0030 0x41
    let l : Launch := { queue := 0, seq := 0, d := 0, prio := 0, grid := [0], digest := 77 }
    let dg : State := { fe with launches := [(0, l)] }
    let stall := fun (w : Wait) (a : Arch) => { a with ct := { a.ct with stall := some ⟨w, 1, 0⟩ } }
    let cut := fun (w : Wait) => dg.upCx 0 (fun x => { x with arch := stall w x.arch, chunk := { x.chunk with ckpt := stall w x.chunk.ckpt } })
    let mid := s.upThr (fun t => { t with hdr := bootHdr 2 2 })
    let x1 : Xlat := ⟨false, 5, 9, 9, 0x18D⟩
    let x2 : Xlat := ⟨true, 5, 9, 9, 0x18D⟩
    let tl : State := { dom.upCore 0 (fun k => { k with tlbis := [(0, .tlbi 1 0 5)] }) with tlb := [x1, x2] }
    let f : FAZ := ⟨3, 2, 0⟩
    let n : FAZ := ⟨3, 0, 0⟩
    let std := fun (t : State) (sub : Nat) => (t.cx 0).chunk.held == [.tlbi sub 256 0] && t.thr.stall == some ⟨.tlbi, 1, 0⟩ && t.thr.phase == .entry 0x10008
    passB s p0 (ctOnly {}) && nextB (.chkcfgLen p0 f) s (fun t => fld (t.arch 0).chkCtl 14 0 == 256) && nextB (.chkcfgLen p0 f) (s.setX 2 16384) (fun t => t.x 3 == BitVec.ofNat 64 (fld (ct.arch 0).chkCtl 14 0)) &&
    raisesB (.chkcfgLen p0 f) (s.setX 2 255) 0x1A 0 && raisesB (.chkcfgLen p0 f) (s.setX 2 16385) 0x1A 0 &&
    nextB (.seedrd p0 f) (s.upCx 0 (fun x => { x with seeds := [7, 8] })) (fun t => t.x 3 == 7) && nextB (.seedrdDepth p0 n) s (fun t => t.x 3 == 1) &&
    nextB (.chkcfgStat p0 n) s (fun t => t.x 3 == 4096) && nextB (.chkcfgOrder p0 n) s (fun t => t.x 3 == 0) &&
    passB s p0 { who := .ct, super := true, named := [3] } && raisesB (.digrd p0 n) s 0x1F 0 && raisesB (.digrdQ p0 n) s 0x1F 0 &&
    (cut (.digest false)).cutBefore 0 (.digest false) && nextB (.digrd p0 n) (cut (.digest false)) (fun t => t.x 3 == 77) &&
    nextB (.digrdQ p0 n) (cut (.digest true)) (fun t => t.x 3 == 0) && nextB (.digrd p0 n) dg (fun t => t.thr.stall == some ⟨.digest false, 1, 0⟩) &&
    s.isLast && nextB (.tlbiPage p0 f) s (fun t => std t 0) && nextB (.tlbiWbinv p0 f) s (fun t => std t 3) &&
    nextB (.tlbiAsid p0 n) s (fun t => (t.cx 0).chunk.held == [.tlbi 1 0 0]) && nextB (.tlbiAll p0 ⟨0, 0, 0⟩) s (fun t => (t.cx 0).chunk.held == [.tlbi 2 0 0]) &&
    !mid.isLast && raisesB (.tlbiPage p0 f) mid 0x15 0 && raisesB (.tlbiWbinv p0 f) mid 0x15 0 && !tl.farUses 1 0 5 &&
    nextB .tlbiComplete tl (fun t => t.tlb == [x2] && (t.core 0).tlbis.isEmpty)) = true := by decide +kernel

/-- A shard map at 0x20000: rank 1, I8, version 5, base 0x20800, 4 elements in blocks of 1 over 2 owners, devices 0 and 5. -/
def shMem (s : State) : State :=
  { (s.upArch 0 (fun a => { a with shardBase := 0x20000 })) with
    mem := (s.mem.writeNat 0x70000 64 (1 + 8 + 5 * 2 ^ 16 + 0x20800 * 2 ^ 64 + (4 + 2 ^ 32 + 2 ^ 64 + 2 ^ 96) * 2 ^ 128 +
      (1 + 2 ^ 16 + 2 ^ 32 + 2 ^ 48) * 2 ^ 256 + (2 + 2 ^ 8 + 2 ^ 16 + 2 ^ 24) * 2 ^ 320)).writeNat 0x70042 2 5 }

theorem test_ShardsAndRequests : (let s := (shMem (dat mat)).setX 2 2
    let peer := (((s.setX 2 1).setPkgReg 0xC800 0x400).setPkgReg 0xC840 32).setPkgReg 0xC8C0 32 |>.setPkgReg 0xC940 32
    let f : FAZ := ⟨3, 2, 0⟩
    let stall := s.upThr (fun t => { t with stall := some ⟨.shards 0 (some [5]), 1, 0⟩ })
    let done := s.upThr (fun t => { t with stall := some ⟨.shards 0 (some []), 1, 0⟩ })
    let fe := (s.setPkgReg 0x0030 0x2001).setX 2 0x20008
    let mid := fe.upThr (fun t => { t with hdr := bootHdr 2 2 })
    let wr : Nat := 2 + 2 ^ 6 + 7 * 2 ^ 32 + 0x20000 * 2 ^ 64 + 64 * 2 ^ 128 + 2 ^ 192
    let np := fun (w : Nat) => ({ s.setX 2 192 with vault := s.vault.writeNat 192 64 w } : State)
    let nm : State := { s.setX 2 0x20100 with mem := s.mem.writeNat 0x70100 64 wr }
    passB s p0 (shRules p0 f) && okB (s.shardPlace 0 p0 2 0) (fun x => x.2.dev == 0 && x.2.va == 0x20801 && x.2.size == 1 && x.2.version == 5 && okB (x.1.memLoad 0x20801 1 1) (fun _ => true)) &&
    nextB (.ldsh p0 f 0 0) s (fun t => t.thr.far == [⟨3, .value 0⟩]) && nextB (.stsh p0 f 0) (s.setX 3 0x1FF) (fun t => t.seeByte 0 0x70801 == 0xFF) &&
    okB (peer.shardPlace 0 p0 1 1) (fun x => x.2.dev == 5 && okB (x.1.shardPeer x.2 1) (fun _ => true)) &&
    nextB (.stsh p0 f 0) peer (fun t => (t.cx 0).chunk.bundle.map (·.dev) == [5]) && passB done p0 (ctOnly {}) &&
    doesB (.shfence p0 ⟨0, 0⟩) done done && nextB (.shfence p0 ⟨0, 0⟩) s (fun t => t.thr.stall == some ⟨.shards 0 none, 1, 0⟩ && (t.cx 0).chunk.cutReq) &&
    (stall.core 0).slotOf 0 == some (stall.core 0).slotNo && nextB (.shfenceAck 5) stall (fun t => t.thr.stall == some ⟨.shards 0 (some []), 1, 0⟩) &&
    nextB (.shfenceMessage (5 + 2 ^ 82)) s (fun t => t.fencesIn.isEmpty && t.outbox == [.fenceAck 5 0 0 1]) &&
    fe.feature 13 && passB fe p0 (ctOrMt { imm := true, named := [3, 2] }) && fe.isLast && okB (fe.feCheck 0x20008 0) (fun _ => true) &&
    nextB (.feld p0 f 2) fe (fun t => (t.cx 0).chunk.held.length == 1 && t.thr.stall == some ⟨.fullEmpty 0, 1, 0⟩ && t.thr.far == [⟨3, .released 0⟩]) &&
    raisesB (.feld p0 f 0) mid 0x15 0 && okB (fe.feCheck 0x20008 1) (fun _ => true) &&
    nextB (.fest p0 f 4) fe (fun t => (t.cx 0).chunk.held.length == 1 && t.thr.stall == some ⟨.fullEmpty 0, 1, 0⟩) &&
    okB ((np wr).spot 0 192 64 64 0) (fun z => okB ((np wr).spRead 0 z 64) (fun x => x.1.netCause 0 (BitVec.ofNat 512 wr) == none)) &&
    nextB (.netpost p0 ⟨0, 2, 0⟩) (np wr) (fun t => (t.cx 0).chunk.held == [.net (BitVec.ofNat 512 wr) 0 false]) &&
    raisesB (.netpost p0 ⟨0, 2, 0⟩) (np 4) 0x98 0 && okB (nm.loadAt 0 0x20100 64 64 0) (fun x => x.1.netCause 0 (BitVec.ofNat 512 wr) == none) &&
    nextB (.netpostM p0 ⟨0, 2, 0⟩) nm (fun t => (t.cx 0).chunk.held == [.net (BitVec.ofNat 512 wr) 0 false])) = true := by decide +kernel

/-! ## Witnesses: events -/

/-- A cut chunk. -/
def cutK : Chunk := { st := .cut }
/-- The chunks of core `c` that have been cut. -/
def pends (s : State) (c : Nat) (ks : List Chunk) : State := s.upCx c (fun x => { x with pend := ks })
/-- Changes the executing chunk of core 0. -/
def exe (s : State) (f : Chunk → Chunk) : State := s.upCx 0 (fun x => { x with chunk := f x.chunk })
/-- Events name unit `n`, core `c` and input word `a`. -/
def at3 (s : State) (c n : Nat) (a : Nat := 0) : State := { s with cur := { core := c, thr := 16, len := 1, unit := n, arg := a } }
/-- The CT of core 0 waits. -/
def stalls (s : State) (w : Wait) : State := s.upThr (fun t => { t with stall := some ⟨w, 1, 0⟩ })
/-- Time is `n`. -/
def time (s : State) (n : Nat) : State := { s with cycle := n }
/-- A 64-bit add at 0x20000 and a deterministic update in phase 0 of cluster 0. -/
def add8 : FarOp := { id := 4, thr := 16, kind := 0, op := 0, z := 1, va := 0x20000, zext := true, b := 5, cmp := 0 }
def det4 : FarOp := { add8 with kind := 2, z := 0, b := 0x3F800000, det := some (0, 0, 1, 0, 0) }

theorem test_ChunkEvents : (let bd := (ct.upThr (fun t => { t with phase := .entry 0x10008 })).requestCut 0
    let tr := exe (ct.upThr (fun t => { t with raised := some { cause := 0x0A, info := 0, hdrFault := false, blk := 0x10000 } })) (fun k => { k with stepped := true })
    let key := sigBits 7
    let k1 : Chunk := { cutK with touched := [5], wsig := key }
    let q1 := pends ct 0 [k1, cutK]
    let q2 := pends (two q1) 1 [{ k1 with st := .granted 3 1 [] }]
    let ws := at3 (exe (pends (two ct) 1 [{ k1 with st := .granted 3 1 [] }]) (fun k => { k with rsig := key, sq := 1 })) 0 1
    let fin := pends ct 0 [{ k1 with st := .granted 3 1 [], stores := [(9, 4)] }]
    let rv := exe ct (fun k => { k with wantsRsv := true })
    let lat := stalls ct (.lateral 1 5 true)
    let dog := time (exe (ct.upArch 0 (fun a => { a with chkCtl := 4096 + 2 ^ 16 })) (fun k => { k with cutSince := some 0, cutReq := true })) (2 ^ 16)
    let dogV := dog.upCx 0 (fun x => { x with chunk := { x.chunk with ckpt := { x.chunk.ckpt with trap := { vec := 0x4000 } } } })
    let far := { (dat ct).upCore 0 (fun k => { k with atomics := [(0, add8)] }) with mem := ct.mem.write 0x70000 3 }
    let sick := { far with poison := [(0x70000, 64)] }
    let du := (dat ct).upCore 0 (fun k => { k with detOut := [(0, det4)] })
    let held : State := { du with dets := [newHold 0 det4] }
    let full : State := { du with dets := [{ newHold 0 det4 with held := List.replicate 16 (0, det4) }] }
    let owed : State := { dat ct with dets := [newHold 0 det4] }
    ((bd.gangCores 0).any bd.anyRaised == false) && (bd.gangCores 0).all bd.atCutPoint && bd.cutDue 0 && becomesB .chunkCut bd (bd.cut 0 false) &&
    nextB .chunkCut bd (fun t => !(t.cx 0).chunk.cutReq && (t.cx 0).pend.isEmpty) &&
    tr.anyRaised 0 && !isSteward 0 && (tr.cx 0).chunk.stepped && tr.steppedReady 0 && becomesB .steppedTrap tr (tr.cut 0 true) &&
    (let l := pends ct 0 [cutK]
     l.headCut 0 && !l.commitHeld 0 && l.headReach 0 == 0 && nextB .commitRequest l (fun t => (t.cx 0).pend.isEmpty)) &&
    !q1.commitHeld 0 && q1.reachOf 0 k1 == 1 && (q1.launch (q1.launchNo 0)).isNone && !q1.grantBlocked 1 0 [0] k1 && !q1.reserveBlocked [0] k1 &&
    nextB .commitRequest q1 (fun t => t.clock == 1 && (t.cx 0).pend == [{ k1 with st := .granted 1 1 [] }, cutK]) && q2.grantBlocked 1 0 [0] k1 &&
    nextB .commitRequest q2 (fun t => t.clock == 0 && (t.cx 0).pend == [{ k1 with st := .requested 1 0 }, cutK]) &&
    inSubtree 1 1 0 && ws.sigVictim 0 key == some 0 && nextB .writeSignatureArrive ws (fun t => (t.cx 0).chunk.rsig == 0 && (t.cx 0).chunk.sq == 2 &&
      (t.cx 1).pend == [{ k1 with st := .granted 3 1 [0] }]) && (exe ws (fun k => { k with rsig := 0 })).sigVictim 0 key == none &&
    nextB .writeSignatureArrive (exe ws (fun k => { k with rsig := 0 })) (fun t => (t.cx 0).chunk.sq == 1) &&
    nextB .writeSignatureArrive { exe ws (fun k => { k with wantsRsv := true }) with rsvHolder := some 0 } (fun t => (t.cx 0).chunk.rsig == key) &&
    fin.acknowledged 0 && FMap.wf [(9, (4 : Byte))] && nextB .commitFinish fin (fun t => t.mem.read 9 == 4 && (t.cx 0).lastStamp == 3 && (t.cx 0).pend.isEmpty) &&
    nextB .reservationRequest rv (fun t => t.rsvQueue == [0]) && nextB .reservationGrant { rv with rsvQueue := [0, 1] } (fun t => t.rsvHolder == some 0 && t.rsvQueue == [1]) &&
    lat.lineHolder 0 5 true == none && nextB .lateralWaitRelease lat (fun t => t.thr.stall.isNone) &&
    nextB .lateralWaitTimeout (time lat 4097) (fun t => (t.cx 0).chunk.sq == 1) &&
    (dog.cx 0).fin.isNone && dog.cutDue 0 && !fin.takeDue 0 && !lat.execReserved 0 && !far.earlierAtomic 0 add8 && (((dog.squashExec 0 false).arch 0).trap.vec == 0) && nextB .cutWatchdog dog (fun t => ((t.cx 0).fin.map (·.code)) == some 0xB0) &&
    (((dogV.squashExec 0 false).arch 0).trap.vec == 0x4000) && nextB .cutWatchdog dogV (fun t => t.thr.phase == .entry 0x4000 && (t.arch 0).trap.cause.toNat % 256 == 0xB0) &&
    okB (far.applyFar add8) (fun x => x.2 == 3) && nextB .farAtomicApply far (fun t => t.memNat 0x70000 8 == 8 && (t.core 0).atomics.isEmpty) &&
    (match sick.applyFar add8 with | .error (.ends _ k va) => k == 0xD2 && va == 0x20000 | _ => false) &&
    nextB .farAtomicApply sick (fun t => ((t.cx 0).fin.map (·.code)) == some 0xD2 && (t.core 0).atomics.isEmpty) &&
    du.dets.findIdx? (·.takes 0 det4) == none && du.damMax 0 == 1 && nextB .detUpdateArrive du (fun t => t.dets == [newHold 0 det4] && (t.core 0).detOut.isEmpty) &&
    held.dets.findIdx? (·.takes 0 det4) == some 0 && held.damCap 0 == 16 && nextB .detUpdateArrive held (fun t => t.dets.map (·.held) == [[(0, det4), (0, det4)]]) &&
    nextB .detUpdateArrive full (fun t => t.dets.map (·.serial) == [true] && (t.core 0).detOut.length == 1) &&
    owed.phaseOver (newHold 0 det4) && owed.phaseOut 1 0 0 0 == [] && okB (owed.applyAll [(0, det4)]) (fun q => q.memNat 0x70000 4 == 0x3F800000) &&
    nextB .detPhaseApply owed (fun t => t.dets.isEmpty && t.memNat 0x70000 4 == 0x3F800000)) = true := by decide +kernel

/-- Changes slot `i` of core 0. -/
def slot0 (s : State) (i : Nat) (f : Slot → Slot) : State := s.upCore 0 (fun k => k.setSlot i (f (k.slot i)))
/-- A second context, of launch 1, ready in slot 1. -/
def both (s : State) (prio : Nat) : State := slot0 s 1 (fun _ => { st := .ready, ctx := { launch := some 1, win := 1, wb := 30 * 65536, prio := prio } })

theorem test_ContextEvents : (let ready := at3 (slot0 ct 0 (fun k => { k with st := .ready })) 0 0
    let hi := both ct 1
    let q := time ((both ct 0).setPkgReg 0x0010 (setFld 0 47 32 1)) 1024
    let drain := at3 (slot0 ct 0 (fun k => { k with st := .drain })) 0 0
    let out := at3 { slot0 ct 0 (fun k => { k with st := .streamout }) with vault := [(5, 9)] } 0 0
    let im := out.takeImage 0 (out.cx 0)
    let inn := at3 { slot0 ct 0 (fun k => { k with st := .streamin }) with images := [im] } 0 0
    let dead := at3 (slot0 (ct.upCx 0 (fun x => { x with fin := some {} })) 0 id) 0 0
    let stop := at3 (ct.upThr (fun t => { t with phase := .stopped })) 0 0
    let x0 := (slot0 ct 0 id).cx 0
    ct.wanted 0 == some 0 && (ct.core 0).now == some 0 && nextB .contextSwitch (ct.upCore 0 (fun k => { k with switchTo := some 0 })) (fun t => (t.core 0).switchTo.isNone) &&
    ready.wanted 0 == some 0 && !(ready.core 0).isRunning && ready.slotGang 0 0 == [0] && (ready.core 0).slotOf 0 == some 0 &&
    nextB .contextSwitch ready (fun t => (t.core 0).slot0.st == .running) &&
    hi.wanted 0 == some 1 && (hi.core 0).now == some 0 && hi.switchCores 0 (some 1) == [0] && (hi.core 0).switchTo.isNone &&
    nextB .contextSwitch hi (fun t => (t.core 0).switchTo == some 1 && (t.core 0).slot0.ctx.arch == (hi.core 0).slot0.ctx.arch) &&
    fld (q.pkgReg 0x0010) 47 32 == 1 && (q.core 0).isRunning && (q.core 0).slot0.candidate && (q.core 0).slot1.candidate &&
    nextB .quantumExpiry q (fun t => (t.core 0).switchTo == some 1) &&
    (drain.core 0).slot0.ctx.launch == some 0 && drain.opsDone 0 0 && !(drain.core 0).streams && nextB .drainComplete drain (fun t => (t.core 0).slot0.st == .streamout) &&
    (out.frameOf (out.core 0).slot0.ctx).isNone && nextB .streamoutComplete out (fun t => (t.core 0).slot0 == {} && t.images.length == 1) &&
    inn.images.findIdx? (fun im => im.core == 0 && im.ctx.launch == some 0) == some 0 &&
    nextB .streaminComplete inn (fun t => (t.core 0).slot0.st == .ready && t.images.isEmpty && t.vault.read 5 == 9) &&
    (dead.cx 0).committed && nextB .taskInstanceEnd dead (fun t => (t.core 0).slot0.st == .drain) &&
    (stop.cx 0).committed && (stop.cx 0).fin.isNone && (stop.arch 0).settled && stop.opsDone 0 0 && (stop.launch 0).isNone &&
    nextB .taskInstanceEnd stop (fun t => (t.core 0).slot0 == { st := .drain }) &&
    x0.win == 1 && im.bytes.read 5 == 9 && im.bytes.wf && (ct.placeImage 0 x0 im).vault.read 5 == 9) = true := by decide +kernel

/-- Page tables of ASID 0 on die 0: VA 0x40000 is in a readable frame of PA 0x90000; 0x50000 is absent. -/
def tables (s : State) : State :=
  { (s.setDieReg 0 0x000 0x400001).setDieReg 0 0x008 0xA00001 with
    mem := ((((s.mem.writeNat 0x400000 8 0x800001).writeNat 0x800000 8 0x900001).writeNat 0x900000 8 0x901001).writeNat 0x901020 8 0x90087) }

theorem test_FaultEvents : (let t := tables ct
    let tr := fun (s : State) (va kind : Nat) => stalls s (.translate va kind)
    let fq := t.setDieReg 0 0x010 (0xB00001 + 4)
    let lacks := fun (s : State) (va kind : Nat) => (match s.walk 0 va kind false (some 0) with | .absent => true | _ => false)
    let post := { fq with posts := [{ die := 0, body := 7, whom := .demand 0 0 0x50000 0, seq := none }], cur := { core := 4096 } }
    let sent : State := { post with posts := [{ die := 0, body := 7, whom := .demand 0 0 0x50000 0, seq := some 2 }] }
    let chan := fun (s : State) (st : ChanSt) => at3 (s.upCore 0 (fun k => { k with chans := [(5, { st := st, cur := some { cmd with src := 0x30000, dst := 0, t := tpl }, fva := 0x30000 })] })) 0 5
    let bad := chan (cp.upCx 0 (fun x => { x with arch := x.arch })) .active
    let bad := { bad with tlb := [⟨false, 0, 3, 3, 0x181⟩] }
    let rep := fun (ab : Bool) (u : Nat) => { chan cp .repair with packets := [⟨0, u, ab, 0x81⟩] }
    let stw0 := ct.setDieReg 0 0x0C0 0
    let halt : State := { ct with cur := { core := 4096, thr := 16, len := 1 } }
    let halt := halt.setCore 4096 { slot0 := { st := .running, ctx := { arch := { ct := { phase := .body, raised := some { cause := 0x0A, info := 0, hdrFault := false, blk := 0x10000 } } } } } }
    (match t.walk 0 0x40000 0 false (some 0) with | .ok q y => y.pfn == 9 && (q.holdXlat y).tlb.contains y | _ => false) &&
    nextB .l2MissTranslate (tr t 0x40000 0) (fun u => u.thr.stall.isNone && (u.xlatOf 0 0x40000).isSome) &&
    (match t.walk 0 0x40000 1 false (some 0) with | .fault _ r => r == 2 | _ => false) &&
    nextB .l2MissTranslate (tr t 0x40000 1) (fun u => u.thr.stall.isNone) && lacks t 0x50000 0 && !t.fqValid 0 &&
    nextB .pageFaultPark (tr t 0x50000 0) (fun u => ((u.cx 0).fin.map (·.code)) == some 0xB5) && lacks fq 0x50000 0 && fq.fqValid 0 &&
    (fq.arch 0).gang.isNone && nextB .pageFaultPark (tr fq 0x50000 0) (fun u => (u.cx 0).parked == some ⟨16, 0x50000, 0⟩) &&
    post.fqRoom 0 && !post.synthBusy none 0xB00000 && nextB .faultRecordPost post (fun u => u.memNat 0xB00000 64 == 7 && u.dieReg 0 0x020 == 1) &&
    sent.hostQ.isEmpty && sent.absent.isEmpty && nextB (.fqRplReady 2) sent (fun u => u.posts.isEmpty) && nextB (.fqRplDecline 2) sent (fun u => u.posts.isEmpty && (u.cx 0).declined == some (0x50000, 0)) &&
    (bad.engineStops 0 5).isSome && nextB .engineFault bad (fun u => (u.chan 0 5).st == .repair) &&
    ((rep false 9).inRepair 0 9).isNone && nextB .resumePacket (rep false 9) (fun u => u.packets.isEmpty && (u.chan 0 5).st == .repair) &&
    (rep false 5).inRepair 0 5 == some (0, 0x30000) && nextB .resumePacket (rep false 5) (fun u => (u.chan 0 5).st == .active) &&
    nextB .abandonPacket (rep true 5) (fun u => (u.chan 0 5).st == .failed && ((u.cx 0).fin.map (·.code)) == some 0x81) &&
    fld (ct.dieReg 0 0x0E0) 21 20 == 0 && nextB (.stwSend1 0) (ct.setDieReg 0 0x0E0 (BitVec.ofNat 64 (5 * 2 ^ 12))) (fun u => u.packets == [⟨0, 5, false, 0⟩]) &&
    nextB (.stwFwd 0) ct (fun _ => true) && fld (stw0.dieReg 0 0x0C0) 0 0 == 0 &&
    nextB (.stwRun 0x8001) stw0 (fun u => (u.arch 4096).ct.phase == .entry 0x8000) &&
    isSteward 4096 && (halt.arch 4096).gang.isNone && (halt.arch 4096).ct.raised.isSome && nextB .stewardHalt halt (fun u => fld (u.dieReg 0 0x0C0) 1 1 == 1)) = true := by
  decide +kernel

/-- A fault of a copy becomes a record of the host, or a message of the steward; an abandon with an unassigned code; a poisoned message. -/
theorem test_FaultEvents_messages : (let chan := fun (s : State) (st : ChanSt) => at3 (s.upCore 0 (fun k => { k with chans := [(5, { st := st, cur := some { cmd with src := 0x30000, dst := 0, t := tpl }, fva := 0x30000 })] })) 0 5
    let bad := { chan cp .active with tlb := [⟨false, 0, 3, 3, 0x181⟩] }
    let host := (bad.setDieReg 0 0x010 0xB00003).setDieReg 0 0x0C0 0
    let stw := ((bad.setDieReg 0 0x0C0 1).setDieReg 0 0x0D0 0xD00005).setDieReg 0 0x0D8 0
    let m := fun (e : State) => 5 * 2 ^ 12 + 0x42 * 2 ^ 32 + 0x30000 * 2 ^ 40 + e.identity 0 0 * 2 ^ 128
    let rep := { chan cp .repair with packets := [⟨0, 5, true, 0x1E⟩] }
    let sick : State := { cp with poison := [(cp.mqAddr 0 0, 32)] }
    (host.engineStops 0 5).isSome && host.fqValid 0 && nextB .engineFault host (fun t => t.inRepair 0 5 == some (0, 0x30000) &&
      t.posts.any (fun p => p.whom == .engine 0 5 && p.body == msgRecord (m host))) &&
    stw.stewardRuns 0 && stw.mqRoom 0 && nextB .engineFault stw (fun t => t.inRepair 0 5 == some (0, 0x30000) &&
      t.memNat 0xD00000 32 == m stw && fld (t.dieReg 0 0x0D8) 63 32 == 1) &&
    !causeAssigned 0x1E && nextB .abandonPacket rep (fun t => ((t.cx 0).fin.map (·.code)) == some 0x81) &&
    sick.poisoned (sick.mqAddr 0 0) 32 && nextB (.stwFwd 0) sick (fun t => t.posts == sick.posts)) = true := by decide +kernel

/-- Command queue 0 with a ring of one packet at 0xC00000: its head packet, and how far it has come. -/
def ring (p : Nat) (k : Queue) : State :=
  { ((ct.setPkgReg 0x0100 0xC00001).setPkgReg 0x0108 (BitVec.ofNat 64 (2 ^ 32))).setPkgReg 0x0110 0xC10000 with
    mem := ct.mem.writeNat 0xC00000 64 p, queues := [(0, k)] }
/-- A descriptor for core 0: one instance with a window of 64 KiB. -/
def desc : BitVec 2048 := BitVec.ofNat 2048 (2 ^ (64 + 43) + (0x111 + 2 ^ 24) * 2 ^ 128 + 0x1000100010001 * 2 ^ 192 +
  (1 + 2 ^ 64 + 2 ^ 128 + 2 ^ 192) * 2 ^ 512)
/-- A launch of a descriptor on core 1. -/
def lau (d : Nat) (st : LaunchSt) : Launch := { queue := 0, seq := 0, d := BitVec.ofNat 2048 d, prio := 0, grid := [1], st := st }

theorem test_QueueEvents : (let pk := fun (t v : Nat) => t + v * 2 ^ 128
    let chk := fun (t v : Nat) (k : Queue) => ring (pk t v) { k with st := .checked, pkt := BitVec.ofNat 512 (pk t v) }
    let isDone := fun (t : State) (r : Cpl) => (t.queue 0).st == .done r
    let run := fun (t v : Nat) (k : Queue) (f : State → Bool) => nextB .packetBegin (chk t v k) f
    let ln := { chk 1 0x20000 {} with tlb := [⟨true, 0, 2, 7, 0x1CD⟩] }
    let ln := { ln with mem := ln.mem.writeNat 0x70000 256 desc.toNat }
    let sig := { ring 0x202 {} with queues := [(0, { st := .done {}, pkt := 0x202 })] }
    nextB (.cqTailWrite 0) (ring 2 {}) (fun t => t.cqTail 0 == 1 && fld (t.cqCfg 0) 9 9 == 1) &&
    nextB (.cqTailWrite (BitVec.ofNat 64 (2 ^ 32))) (ring 2 {}) (fun t => t.cqTail 0 == 1 && fld (t.cqCfg 0) 9 9 == 0) &&
    nextB .packetHeaderCheck (ring 2 {}) (fun t => (t.queue 0).st == .checked && (t.queue 0).pkt == 2) && headerReason 2 0 == none &&
    headerReason 13 0 == some 9 && headerReason 0x402 0 == some 2 && headerReason (BitVec.ofNat 512 (2 + 2 ^ 32)) 0 == some 8 &&
    nextB .packetHeaderCheck (ring 13 {}) (fun t => isDone t { status := 2, code := 9 }) &&
    run 2 1 {} (isDone · { status := 2, code := 2 }) && run 2 0 {} (isDone · {}) &&
    run 4 7 {} (fun t => isDone t {} && (t.queue 0).seeds == [7, 0]) && run 5 0 { seeds := [7, 0] } (fun t => isDone t {} && (t.queue 0).seeds == [0]) &&
    (let s := (chk 7 0 {}).setPkgReg 0x0030 0x41
     s.feature 6 && nextB .packetBegin s (fun t => (t.queue 0).digest == some 0)) &&
    run 11 2000 {} (fun t => isDone t {} && fld (t.pkgReg 0x0010) 11 0 == 2000) &&
    (match ln.readLaunch 0 0 0x20000 false with | (e, .ok (.ok (y, _))) => y.d == desc && y.grid == [0] && !e.featureLack y | _ => false) &&
    !sig.synthBusy none 0xC10000 && nextB .packetComplete sig (fun t => t.cqHead 0 == 1 && t.pkgReg 0x1000 == 1 && t.memNat 0xC10000 64 == 0) &&
    nextB .featureNegotiation (ring 12 { st := .negotiating 0x80 0 }) (fun t => t.pkgReg 0x0030 == 0x81 && isDone t {})) = true := by decide +kernel

theorem test_QueueEvents_poison : (let bad := { ring 2 {} with poison := [(0xC00000, 64)] }
    let begun := { ring 2 { st := .checked, pkt := 2 } with poison := [(0xC00000, 64)] }
    bad.headPoisoned 0 && nextB .packetHeaderCheck bad (fun t => (t.queue 0).st == .done { status := 1, code := 0xD2 }) &&
    begun.headPoisoned 0 && nextB .packetBegin begun (fun t => (t.queue 0).st == .done { status := 1, code := 0xD2 })) = true := by decide +kernel

theorem test_LaunchEvents : (let has := fun (v : Launch) => at3 { ct with launches := [(7, v)] } 0 7
    let w := lau 0 .waiting
    let gone := { lau 0 .placed with ended := [(0, none)] }
    let rp := { dat ct with mem := ct.mem.writeNat 0x70000 8 (5 + 2 ^ 16), cycle := 2 ^ 24,
                            launches := [(0, { lau (0x20000 * 2 ^ (8 * 0xA0) + 2 ^ (8 * 0xA8)) .placed with replay := true })] }
    let rp := pends rp 0 [{ cutK with st := .requested 1 0 }]
    (has (lau 0 .reserved)).allFree 7 (lau 0 .reserved) && nextB .launchPlace (has (lau 0 .reserved)) (fun t => (t.core 1).slot0.st == .streamin &&
      (t.launch 7).map (·.st) == some .placed) &&
    (has w).readyLaunches == [(7, w)] && !(has w).negotiating && !(has w).powerHold && ((has w).consider 7 w).2 &&
    nextB .launchPlace (has w) (fun t => (t.core 1).slot0.ctx.launch == some 7) &&
    nextB .launchAging (time (has w) (2 ^ 20)) (fun t => t.launch 7 == some { w with aged := true }) &&
    nextB .passedOverLimit (time (has { w with passed := some 0 }) (2 ^ 22)) (fun t => (t.launch 7).map (·.blocking) == some true) &&
    (has gone).launchOver 7 gone && nextB .launchComplete (has gone) (fun t => t.launches == [] && (t.queue 0).st == .done {}) &&
    nextB .launchComplete (has { gone with again := some (0, {}) }) (fun t => (t.launch 7).map (·.st) == some .waiting) &&
    (match rp.replayNext 0 with | (e, .ok n) => e.replays 0 && e.replayHolds 0 n | _ => false) && nextB .replayHoldTimeout rp (fun t => (t.launch 0).map (·.ordDiv) == some true) &&
    nextB (.powerAverageCheck 3201) ct (·.powerHold) && nextB (.powerAverageCheck 3200) ct (!·.powerHold) &&
    nextB (.thermalThrottling true) ct (·.throttled == [0]) &&
    nextB (.torusMessageDeliver (3 + 5 * 2 ^ 10 + 6 * 2 ^ 40 + 9 * 2 ^ 48)) ct (fun t => (t.flits.get (3 * 2 ^ 18 + 5 * 2 ^ 8) []).find 6 == some 9)) = true := by
  decide +kernel

/-- A word of fields, as value and place. -/
def word (l : List (Nat × Nat)) : Nat := (l.map (fun e => e.1 * 2 ^ e.2)).sum

theorem test_MaintenanceEvents : (let scr := fun (a : Nat) => at3 ct 0 3 a
    let beat := fun (n : Nat) => time (at3 ct 0 1) n
    let test : SelfTest := { err := { die := 0, cause := 0xC1, core := 5 }, seq := 4, st := 0, row := 0, core := 5, unit := 0, code := 0 }
    let st := { at3 ct 0 0 with tests := [test] }
    let booted := { ct with boot := [7] }
    fld (ct.dieReg 0 0x038) 0 0 == 1 && becomesB .scrubPass (scr 0x10000) (scr 0x10000) &&
    nextB .scrubPass (scr 0x10001) (fun t => t.scrubs == [{ chan := 3, base := 0x1000, size := 32 }] && t.poison.isEmpty) &&
    nextB .scrubPass (scr 0x10002) (fun t => t.poisoned 0x1000 1) &&
    (let s := { scr 0 with scrubs := [⟨3, 0x1000, 32, 0⟩] }
     s.scrubs.findIdx? (fun e => e.chan == 3) == some 0 && nextB .scrubWrite s (fun t => t.scrubs.isEmpty)) &&
    nextB .refreshInterval (beat 0) (fun t => t.credit 0 1 == 2) && nextB .heartbeat (beat 9) (fun t => t.lastBeat 0 1 == 9) &&
    !(beat 5000).ctlRefresh 0 1 && nextB .refreshTakeover (beat 5000) (fun t => t.ctlRefresh 0 1) &&
    nextB (.errorDetect 0) ct (fun t => t.tests.length == 1) && nextB (.errorDetect (4 + 0x1000 * 2 ^ 16)) ct (fun t => t.poisoned 0x1000 1) &&
    nextB (.selfTestEnd 0) st (fun t => t.tests.isEmpty && t.usable 5) && nextB (.selfTestEnd 1) st (fun t => !t.usable 5 && t.usable 4) &&
    nextB (.selfTestEnd 1) { st with tests := [{ test with st := 7, row := 1, held := [(0, 0)] }] } (fun t => ((t.cx 0).fin.map (·.code)) == some 0xDF) &&
    nextB (.selfTestEnd 0) { st with errors := List.replicate 3 (errKey 0 5 0 0 0, 0) } (fun t => !t.usable 5) &&
    (let s := at3 ct 0 0
     let k := s.core 65
     k.slot0.st == .empty && k.slot1.st == .empty && s.images.isEmpty) &&
    nextB (.coreMapWrite 2) (at3 ct 0 1) (fun t => !t.usable 65 && t.usable 64) &&
    nextB (.bootCtlClr 1) booted (fun t => t.boot.isEmpty) && becomesB (.bootCtlClr 2) booted booted &&
    nextB (.packageReset 0) { ct with mem := [] } (fun t => t == { State.reset with cur := ct.cur, tick := 1, boot := t.boot } &&
      !t.boot.isEmpty && t.boot.all (fun b => fld b 25 24 == 0))) = true := by decide +kernel

theorem test_HostEvents : (let halted := mt.upMtAt 0 0 (fun m => { m with thr := { m.thr with phase := .halted }, trapBlk := 0x10000, trapOff := 1 })
    let att := slot0 ct 0 id
    let pcs := (ct.upArch 0 (fun a => { a with dbg := [(0x330, 0x101)] })).setPkgReg 0x0030 0x8001
    let tr : TraceRec := { launch := 0, pcs := false, w0 := 1, w1 := 2 }
    let full := ct.upCore 0 (fun k => { k with traceOut := [tr] })
    (halted.mtAt 0 0).thr.phase == .halted && nextB (.dbgCmdResume 1) halted (fun t => (t.mtAt 0 0).thr.phase == .resume 0x10000 1 0 false) &&
    nextB (.dbgCmdStep 1) halted (fun t => (t.mtAt 0 0).thr.stepOne) && (mt.mtAt 0 0).thr.phase == .body && !(mt.mtAt 0 0).thr.feWaits &&
    nextB (.dbgCmdHalt 1) mt (fun t => (t.mtAt 0 0).thr.phase == .halted && (t.mtAt 0 0).cause == 0x1B) &&
    nextB (.dbgCmdHalt 2) mt (fun t => t.mtAt 0 0 == mt.mtAt 0 0) && (ct.core 0).isRunning &&
    nextB (.dbgCmdHalt 0x10000) ct (fun t => (t.cx 0).async == [{ cause := 0x1B }]) && becomesB (.attn 0) att att &&
    (att.core 0).slot0.st != .empty && (att.core 0).slot0.ctx.launch.isSome && nextB (.attn 2) att (fun t => (t.cx 0).async == [{ cause := 0x1D }]) &&
    pcs.feature 15 && fld ((pcs.arch 0).dbg.get 0x330 0) 0 0 == 1 && nextB .pcSample (time pcs 1) (fun t => (t.cx 0).pcsThr == 1 && (t.cx 0).chunk.traces.length == 1) &&
    (full.core 0).traceOut.find? (fun r => !r.pcs) == some tr && nextB .traceFull full (fun t => (t.core 0).traceOut.isEmpty && fld (t.cx 0).trcPtr 63 32 == 1) &&
    ct.hostQ.isEmpty && ct.poison.isEmpty && !ct.synthBusy none 0x20038 && nextB (.hostWrite 0x20038 8 0x1FF) ct (fun t => t.memNat 0x20038 8 == 0x1FF) &&
    nextB (.registerWrite 0x1000 5) ct (fun t => t.pkgReg 0x1000 == 5)) = true := by decide +kernel

theorem test_FabricEvents : (let en := fun (s : State) => s.setPkgReg 0xC940 (BitVec.ofNat 64 (2 ^ 3))
    let s := en (dat { ct with mem := ct.mem.write 0x70008 5 })
    let load := fun (d : Nat) => word [(d, 0), (1, 10), (0x20008, 46), (8, 102)]
    let req := fun (b : Nat) => word [(1, 0), (3, 1), (b, 11), (1, 39), (1, 40), (1, 41), (1, 76), (0x20008, 92), (1, 148), (9, 212)]
    let fullSt := { s with staged := [⟨1, 0, List.replicate 1 (0, ⟨0, 0, [], none, false, 0⟩), none, 0, false, none⟩] }
    let out : BundleOut := { id := 4, no := 1, dev := 3, launch := 0, ops := [], after := 0, sent := some (5, 0) }
    let bd := ct.upCore 0 (fun k => { k with bundles := [out] })
    let peer := fun (n : Nat) => time (stalls ct (.peer { dev := 3, asid := 0, tva := 0, n := 8, va := 0 } [])) n
    let stg := time (at3 { ct with staged := [⟨3, 0, [], some 2, 0, false, none⟩] } 0 0) (2 ^ 26)
    let gr := ((at3 ct 0 0).setPkgReg 0xD200 1)
    let ls := ((at3 ct 0 0).setPkgReg 0xCA00 (BitVec.ofNat 64 (word [(1, 0), (3, 3), (9, 16)]))).setPkgReg 0xCA08 0x50000
    let fe : FeReq := { core := 0, launch := 0, thr := 16, id := 1, store := true, mode := 4, va := 0x20008, w := 6, asid := 0, sup := false }
    let fs := fun (r : FeReq) (a : Nat) => at3 (({ ct with tlb := [⟨false, 0, 2, 7, 0xB8D⟩] } : State).upCore 0 (fun k => { k with feOut := [r] })) 0 0 a
    let wd := fun (k : Nat) => ({ fs fe (3 + 7 * 1024) with feList := [{ fe with peer := some 3, id := k }] } : State)
    s.peerRefuse 0 true 4 0 0x20008 == some 7 && nextB (.peerLoad (load 4)) s (fun t => t.outbox == [.loadAnswer 4 0x20008 (some 0x47) 0]) &&
    (s.peerRefuse 0 true 3 0 0x20008).isNone && (match s.peerXlat 0 0x20008 0 (List.range 8) with | .at _ pa => pa == 0x70008 | _ => false) &&
    nextB (.peerLoad (load 3)) s (fun t => t.outbox == [.loadAnswer 3 0x20008 none 5]) && becomesB (.bundleRequest 0) s s &&
    decide (s.stagedAt 0 < stagingLines) && nextB (.bundleRequest (req 0)) s (fun t => t.mem.read 0x70008 == 9 && t.outbox == [.bundleAck 3 0 []]) &&
    nextB (.bundleRequest (req 1)) fullSt (fun t => t.staged.length == 2) &&
    bd.sentBundle 3 5 == some (0, out) && nextB (.bundleAck (word [(3, 0), (5, 10)])) bd (fun t => (t.core 0).bundles.isEmpty && (t.cx 0).fin.isNone) &&
    nextB (.errorResponse (word [(0x46, 2)])) (peer 0) (fun t => t.thr.stall.isNone) &&
    nextB (.errorResponse (word [(1, 0), (0xDA, 2), (3, 10), (5, 20)])) bd (fun t => ((t.cx 0).fin.map (·.code)) == some 0xDA) &&
    nextB .linkRequestTimeout (peer (2 ^ 26)) (fun t => t.thr.stall.isNone) && becomesB .linkRequestTimeout (peer (2 ^ 26 - 1)) (peer (2 ^ 26 - 1)) &&
    nextB .bundleStagingTimeout stg (fun t => t.staged.isEmpty && t.bseqIn.get 3 0 == 1) &&
    fld (gr.pkgReg (grBase 0)) 3 2 == 0 && nextB (.grantRevoke 0x33) gr (fun t => fld (t.pkgReg (grBase 0)) 3 2 == 1 && t.outbox == [.leaseNotice 3 0 0 0 0]) &&
    fld (ct.pkgReg (lsBase 0)) 0 0 == 0 && nextB (.leaseWrite 0x19) (at3 ct 0 0) (fun t => fld (t.pkgReg (lsBase 0)) 12 3 == 3) &&
    nextB (.leaseNotice (word [(3, 0), (9, 10), (5, 26), (1, 66), (7, 98)])) ls (fun t => fld (t.pkgReg (lsBase 0)) 2 1 == 1 && t.leaseLeft 0 == 7) &&
    (let n := ls.setPkgReg 0xCA00 (BitVec.ofNat 64 (word [(3, 0), (3, 3), (9, 16)]))
     n.leaseLeft 0 == 0 && nextB .leaseNoticeExpiry n (fun t => fld (t.pkgReg (lsBase 0)) 2 1 == 2)) &&
    (let g := (ct.setPkgReg 0xD200 (BitVec.ofNat 64 (word [(1, 0), (3, 4), (9, 16)]))).setPkgReg 0xD210 0x10000
     nextB (.leaseClose (word [(3, 0), (9, 10)])) g (fun t => fld (t.pkgReg (grBase 0)) 0 0 == 0) &&
     nextB (.leaseClose (word [(4, 0), (9, 10)])) g (fun t => fld (t.pkgReg (grBase 0)) 0 0 == 1)) &&
    (match (fs fe 0).feArrive fe with | .taken _ => true | _ => false) && fe.refused.isNone &&
    nextB .feOperation (fs fe 0) (fun t => (t.core 0).feOut.isEmpty && t.memNat 0x70008 8 == 6 && t.full.get 0xE001 false) &&
    (let r := { fe with refused := some 0 }
     (match (fs r 0).feArrive r with | .taken _ => true | _ => false) && nextB .feRetry (fs r 0) (fun t => (t.core 0).feOut.isEmpty) &&
     nextB .feRetryTimeout (time (fs r 0) (2 ^ 24)) (fun t => (t.core 0).feOut.isEmpty && t.full.isEmpty)) &&
    (wd 7).feList.any (fun r => r.peer == some 3 && r.id == 7) && nextB .feWithdraw (wd 7) (fun t => t.feList.isEmpty && t.outbox == [.feAnswer 3 7 3 0])) = true := by
  decide +kernel

theorem test_NetworkEvents : (let req := BitVec.ofNat 512 (word [(4, 6), (0x20000, 64), (10, 128)])
    let m : NetMsg := { no := 1, die := 0, core := 0, launch := 0, w := req, asid := 0, sup := false, taken := true }
    let eng := ((dat ct).setDieReg 0 0x080 0x1087).setDieReg 0 0x098 1
    let eng := { eng with mem := (eng.mem.writeNat 0 32 (word [(1, 0), (6, 16)])).write 0x70003 8 }
    let s := { eng with netMsgs := [m] }
    let pkt : NetPkt := { mode := 0, psn := 5, msg := 1, op := 0, rkey := 0, len := 10, arg := 0, off := 0, data := 0 }
    let conn : NetConn := { die := 0, mode := 0, peer := 0, start := 5, next := 6, heard := 0, fly := [{ pkt := pkt, last := 0, port := 1 }] }
    let wait := { s with netMsgs := [{ m with sent := 10, unacked := 1 }], netConns := [conn] }
    let late := time wait (2 ^ 16)
    let last := { late with netConns := [{ conn with fly := [{ pkt := pkt, last := 0, port := 1, tx := 8 }] }] }
    let from' := fun (l : List (Nat × Nat)) => word ((6, 1) :: l)
    let rnr := at3 wait 0 0 (from' [(5, 167)])
    let rnrs := { time wait (2 ^ 26) with netConns := [{ conn with rnrSince := some 0 }] }
    let recv : NetRecv := { die := 0, mode := 0, src := 0, start := 5, cack := 5 }
    let rc := { eng with netRecvs := [recv] }
    let due := time { eng with netRecvs := [{ recv with due := 1 }] } 1000
    (s.netMsgs.find? (fun m => m.die == 0 && !m.taken)).isNone && s.nextMsg 0 == some m &&
    nextB .netRequestStart (s.setDieReg 0 0x080 0x1086) (fun t => t.netMsgs.isEmpty && ((t.cx 0).fin.map (·.code)) == some 0x9D) &&
    fld (s.dieReg 0 0x080) 0 0 == 1 && s.nePorts 0 == 3 && okB (s.netRead m 0x20000 10 40) (fun x => ofBytes x.2.1 == 8 * 2 ^ 24) &&
    nextB .netRequestStart s (fun t => t.outbox.length == 1 && t.netMsgs.map (·.sent) == [10]) &&
    nextB .netAckTimer due (fun t => t.outbox == [.netAck 0 0 0 5 0]) &&
    last.msgOf pkt == wait.netMsgs.head? && nextB .netRetxTimeout last (fun t => ((t.cx 0).fin.map (·.code)) == some 0x9E) &&
    nextB .netRetxTimeout late (fun t => t.outbox == [.net 0 0 0 (some 5) pkt]) &&
    nextB .netRetxTimeout (late.setDieReg 0 0x080 0x1086) (fun t => ((t.cx 0).fin.map (·.code)) == some 0x9D) &&
    nextB .netConnectionTimeout (time wait (2 ^ 26)) (fun t => ((t.cx 0).fin.map (·.code)) == some 0x9D) &&
    nextB .rnrTimeout rnrs (fun t => ((t.cx 0).fin.map (·.code)) == some 0x9F) &&
    rnr.netSource 0 rnr.cur.arg == some 0 && rnr.netConn 0 0 0 == some conn && nextB .netRnr rnr (fun t => t.netConns.any (fun q => q.fly.any (·.rnr))) &&
    rc.netRecv 0 0 0 == some recv && psnAhead 5 4 == none && nextB (.netPacketArrive (from' [(5, 167), (4, 199)])) rc (fun t => t.outbox == [.netAck 0 0 0 5 0]) &&
    psnAhead 5 70 == some 65 && nextB (.netPacketArrive (from' [(5, 167), (70, 199)])) rc (fun t => t.outbox.isEmpty) &&
    nextB (.netPacketArrive (from' [(5, 167), (5, 199)])) rc (fun t => t.outbox == [.netRnr 0 0 0 5]) &&
    (let held : State := { rc with netRecvs := [{ recv with held := [{ pkt with psn := 5, msg := 0, len := 0 }] }] }
     nextB (.netPacketArrive (from' [(5, 167), (5, 199)])) held (fun t => t.netRecvs == held.netRecvs && t.outbox.isEmpty)) &&
    nextB (.netAck (from' [(1, 166), (5, 167)])) wait (fun t => ((t.cx 0).fin.map (·.code)) == some 0x9F) &&
    nextB (.netAck (from' [(5, 167)])) wait (fun t => t.netMsgs.length == 1 && t.netConns.all (·.acked)) &&
    nextB (.netAck (from' [(6, 167)])) wait (fun t => t.netMsgs.isEmpty && t.netConns.all (·.fly.isEmpty))) = true := by
  decide +kernel

/-- The staging of die 0 is full. -/
theorem test_stagingFull : (let s : State := { ct with staged := [⟨1, 0, List.replicate stagingLines (0, ⟨0, 0, [], none, false, 0⟩), none, 0, false, none⟩] }
    stagingLines ≤ s.stagedAt 0) := by
  simp [State.stagedAt, bits]

end Sys2Proof.Tests
end

/-! The scalar registers and predicates read back as they were written, x0 and f0 stay constant, and a far result that arrives
changes no register but its own (01 R9–R11). -/
namespace Sys2Proof.Machine

/-! ## Registers and predicates of a thread (01 R9, R10) -/

@[simp] theorem Thr.setX_zero (t : Thr) (v : Word) : t.setX 0 v = t := rfl
@[simp] theorem Thr.setF_zero (t : Thr) (b : Bool) : t.setF 0 b = t := rfl

@[simp] theorem Thr.getF_setX (t : Thr) (n m : Nat) (v : Word) : (t.setX n v).getF m = t.getF m := by
  unfold Thr.setX; split <;> rfl
@[simp] theorem Thr.getX_setF (t : Thr) (n m : Nat) (b : Bool) : (t.setF n b).getX m = t.getX m := by
  unfold Thr.setF; split <;> rfl

theorem getLsbD_setBit8 (f : BitVec 8) (n m : Nat) (b : Bool) :
    (setBit8 f n b).getLsbD m = if m = n ∧ n < 8 then b else f.getLsbD m := by
  have hbit : (1#8 <<< n).getLsbD m = decide (m = n ∧ n < 8) := by
    rw [← BitVec.twoPow_eq, BitVec.getLsbD_twoPow]; grind
  cases b with
  | true => simp only [setBit8, if_true, BitVec.getLsbD_or, hbit]; grind
  | false =>
    have hout : 8 ≤ m → f.getLsbD m = false := BitVec.getLsbD_of_ge f m
    simp only [setBit8, Bool.false_eq_true, if_false, BitVec.getLsbD_and, BitVec.getLsbD_not, hbit]; grind

theorem Thr.getF_setF (t : Thr) (n m : Nat) (b : Bool) :
    (t.setF n b).getF m = if m = n ∧ n ≠ 0 ∧ n < 8 then b else t.getF m := by
  unfold Thr.getF Thr.setF
  by_cases hn : n = 0
  · simp [hn]
  · simp only [if_neg hn, getLsbD_setBit8]; grind

/-! ## Registers and predicates of the acting thread -/

section
variable (s : State)

@[simp] theorem State.f_setX (n m : Nat) (v : Word) : (s.setX n v).f m = s.f m := by
  simp [State.f, State.setX]
@[simp] theorem State.x_setF (n m : Nat) (b : Bool) : (s.setF n b).x m = s.x m := by
  simp [State.x, State.setF]
theorem State.f_setF (n m : Nat) (b : Bool) :
    (s.setF n b).f m = if m = n ∧ n ≠ 0 ∧ n < 8 then b else s.f m := by
  simp [State.f, State.setF, Thr.getF_setF]

/-! ## What keeps the threads of a core, or their registers -/

theorem State.thrAt_setMtAt (c i u : Nat) (m : Mt) :
    (s.setMtAt c i m).thrAt c u = if u = i ∧ u ≠ 16 then m.thr else s.thrAt c u := by
  simp only [State.thrAt, State.setMtAt, State.arch_setArch_self, Arch.thr, Arch.mt_setMt]
  by_cases hu : u = 16
  · simp [hu, Arch.setMt]
  · by_cases hi : u = i
    · subst hi; simp [hu]
    · simp [hu, hi]

/-- An update of a micro-thread's queues and links. -/
theorem State.thrAt_upMtAt_of_thr (c i u : Nat) {f : Mt → Mt} (hf : ∀ m, (f m).thr = m.thr) :
    (s.upMtAt c i f).thrAt c u = s.thrAt c u := by
  rw [State.upMtAt, State.thrAt_setMtAt]
  split
  · next h => rw [hf, State.thrAt, Arch.thr, if_neg h.2, h.1, State.mtAt]
  · rfl

/-- An update of what a context holds beside its restored state. -/
theorem State.thrAt_upCx_of_arch (c u : Nat) {f : Ctx → Ctx} (hf : ∀ x, (f x).arch = x.arch) :
    (s.upCx c f).thrAt c u = s.thrAt c u := by
  simp [State.thrAt, State.arch, hf]

@[simp] theorem Mt.setPort_thr (m : Mt) (i j : Nat) (w : Option Word) : (m.setPort i j w).thr = m.thr := by
  unfold Mt.setPort; split <;> rfl

/-- Passing a wait writes no register. -/
@[simp] theorem Thr.settle_x (t : Thr) : t.settle.x = t.x := by
  unfold Thr.settle
  dsimp only
  repeat' split
  all_goals rfl

@[simp] theorem Mt.settle_x (m : Mt) : m.settle.thr.x = m.thr.x := by
  unfold Mt.settle
  dsimp only
  split <;> simp

theorem Thr.getX_congr {t u : Thr} (h : t.x = u.x) (n : Nat) : t.getX n = u.getX n := by
  unfold Thr.getX; rw [h]

theorem State.settle_thrAt_x (c u : Nat) : ((s.settle c u).thrAt c u).x = (s.thrAt c u).x := by
  unfold State.settle
  split
  · next h => subst h; simp [State.upThrAt]
  · next h =>
    rw [State.upMtAt, State.thrAt_setMtAt, if_pos ⟨rfl, h⟩, Mt.settle_x, State.thrAt, Arch.thr, if_neg h, State.mtAt]

end

/-! ## Far results (01 R10, R11) -/

/-- A far result for x0 is not among those that the far-pending bits show. -/
@[simp] theorem Thr.pending_issueFar_zero (t : Thr) (src : FarSrc) : (t.issueFar 0 src).pending = t.pending := by
  unfold Thr.issueFar
  by_cases h : src.takes <;> simp [h, Thr.pending]

theorem Thr.farp_issueFar_zero (t : Thr) (src : FarSrc) : (t.issueFar 0 src).farp = t.farp := by
  simp [Thr.farp]

/-- Taking a word from its source leaves the threads as they are: the queues, links and FIFOs lie outside them. -/
theorem State.takeFar_thrAt {s s' : State} {c u : Nat} {src : FarSrc} {w : Word}
    (h : s.takeFar c u src = some (s', w)) (v : Nat) : s'.thrAt c v = s.thrAt c v := by
  cases src with
  | value _ => cases h; rfl
  | released _ => cases h
  | inputQueue n =>
    simp only [State.takeFar] at h
    split at h
    · cases h; exact s.thrAt_upMtAt_of_thr c u v fun _ => rfl
    · cases h
  | link port =>
    simp only [State.takeFar] at h
    split at h
    · cases h; exact s.thrAt_upMtAt_of_thr c u v fun _ => Mt.setPort_thr ..
    · cases h
  | returnQueue i =>
    simp only [State.takeFar] at h
    split at h
    · cases h; exact s.thrAt_upMtAt_of_thr c i v fun _ => rfl
    · cases h
  | fifo e n =>
    simp only [State.takeFar] at h
    split at h
    · split at h
      · cases h
      · cases h; exact s.thrAt_upCx_of_arch c v fun _ => rfl
    · cases h

theorem State.firstFar_thrAt {s s' : State} {c u reg : Nat} {l : List Far} {seen : List FarSrc} {w : Word} {e : Far}
    (h : s.firstFar c u reg l seen = some (s', w, e)) (v : Nat) : s'.thrAt c v = s.thrAt c v := by
  induction l generalizing seen with
  | nil => cases h
  | cons x r ih =>
    simp only [State.firstFar] at h
    split at h
    · split at h
      · next htake => cases h; exact State.takeFar_thrAt htake v
      · exact ih h
    · exact ih h

/-- The arrival of a far result writes no register but its own, and a result for x0 writes none, whatever other results are in
flight. -/
theorem State.arriveFar_getX (s : State) (c u reg n : Nat) (hn : n ≠ reg ∨ reg = 0) :
    ((s.arriveFar c u reg).thrAt c u).getX n = (s.thrAt c u).getX n := by
  unfold State.arriveFar
  split
  · rfl
  · next s' w e hfirst =>
    rw [Thr.getX_congr (State.settle_thrAt_x ..), State.upThrAt, State.thrAt_setThrAt_self]
    calc Thr.getX { (s'.thrAt c u).setX reg w with far := dropFar e (s'.thrAt c u).far } n
        = ((s'.thrAt c u).setX reg w).getX n := rfl
      _ = (s'.thrAt c u).getX n := by rw [Thr.getX_setX, if_neg (by omega)]
      _ = (s.thrAt c u).getX n := by rw [State.firstFar_thrAt hfirst]

/-- Settles O8: the reads after writes are `x_setX` and `f_setF`; a far result for x0 is `farp_issueFar_zero` when it issues
and `arriveFar_getX` when it arrives. -/
theorem zeroRegisters : Obligations.ZeroRegisters := by
  unfold Obligations.ZeroRegisters
  refine ⟨fun s n m v b => ⟨fun hn => ?_, fun hm => ?_, s.f_setX n m v, fun hn h8 => ?_, fun hm => ?_, s.x_setF n m b⟩,
    fun t => ⟨t.getX_zero, t.getF_zero, t.setX_zero, t.setF_zero, t.farp_issueFar_zero,
      fun s c u n _ _ _ _ => ⟨s.arriveFar_getX c u 0 n (.inr rfl), Thr.getX_zero _⟩⟩⟩
  · rw [State.x_setX, if_pos ⟨rfl, hn⟩]
  · rw [State.x_setX, if_neg fun h => hm h.1]
  · rw [State.f_setF, if_pos ⟨rfl, hn, h8⟩]
  · rw [State.f_setF, if_neg fun h => hm h.1]

end Sys2Proof.Machine

/-! The scalar instructions that touch registers and predicates only: `bext` and `bins`, `li` and `addi`, the comparisons and
`sel`, `nop` and `trap` (03 R82–R85, R92, R111). What they share stands first: immediates as bit vectors (02 R46), fields of words,
and the checks on prefixes and fields (02 R63 items 12–15) as one cause. -/
namespace Sys2Proof.Machine

/-! ## Prefixes -/

@[simp] theorem hasImm_eq_false {p : Pfx} : hasImm p = false ↔ p.imms = [] := by simp [hasImm]
@[simp] theorem hasImm_eq_true {p : Pfx} : hasImm p = true ↔ p.imms ≠ [] := by simp [hasImm]
@[simp] theorem hasReg_eq_false {p : Pfx} : hasReg p = false ↔ p.reg = none := by simp [hasReg]
@[simp] theorem hasReg_eq_true {p : Pfx} : hasReg p = true ↔ p.reg.isSome := Iff.rfl

theorem bits_toNat {n : Nat} (x : BitVec n) (hi lo : Nat) :
    bits x.toNat hi lo = (x.extractLsb' lo (hi + 1 - lo)).toNat := (BitVec.extractLsb'_toNat ..).symm

theorem regT_of_reg {p : Pfx} {r : BitVec 11} (h : p.reg = some r) : regT p = (r.extractLsb' 7 4).toNat := by
  simp [regT, regPay, h, bits_toNat]
theorem regV_of_reg {p : Pfx} {r : BitVec 11} (h : p.reg = some r) : regV p = (r.extractLsb' 0 7).toNat := by
  simp [regV, regPay, h, bits_toNat]

/-- A field within the variant bits is one of the payload. -/
theorem bits_regV_of_reg {p : Pfx} {r : BitVec 11} (h : p.reg = some r) {hi lo : Nat} (hhi : hi < 7) :
    bits (regV p) hi lo = (r.extractLsb' lo (hi + 1 - lo)).toNat := by
  rw [← bits_toNat, regV, regPay, h]
  refine Nat.eq_of_testBit_eq fun i => ?_
  simp only [bits, Nat.testBit_mod_two_pow, Nat.testBit_shiftRight]
  grind

/-! ## Immediates (02 R46) -/

theorem toNat_append_eq_add {m n : Nat} (x : BitVec m) (y : BitVec n) : (x ++ y).toNat = x.toNat * 2 ^ n + y.toNat := by
  rw [BitVec.toNat_append, ← Nat.shiftLeft_add_eq_or_of_lt y.isLt, Nat.shiftLeft_eq]

theorem sextI_toNat {n : Nat} (x : BitVec n) : sextI x.toNat n = x.toInt := by
  cases n with
  | zero => simp [sextI, BitVec.toInt_zero_length]
  | succ n =>
    have hpow : 2 ^ (n + 1) = 2 * 2 ^ n := by ring
    rw [BitVec.toInt_eq_toNat_cond, sextI, Nat.mod_eq_of_lt x.isLt, if_neg n.succ_ne_zero, Nat.add_sub_cancel]
    exact if_congr (by omega) rfl rfl

section
variable {p : Pfx}

theorem immBits_one {v : BitVec 11} (h : p.imms = [v]) : immBits p = v.toNat := by simp [immBits, h]
theorem immBits_two {v w : BitVec 11} (h : p.imms = [v, w]) : immBits p = (v ++ w).toNat := by
  rw [immBits, h, toNat_append_eq_add]; simp
theorem immBits_three {u v w : BitVec 11} (h : p.imms = [u, v, w]) : immBits p = (u ++ v ++ w).toNat := by
  rw [immBits, h, toNat_append_eq_add, toNat_append_eq_add]; simp
theorem immBits_four {t u v w : BitVec 11} (h : p.imms = [t, u, v, w]) : immBits p = (t ++ u ++ v ++ w).toNat := by
  rw [immBits, h, toNat_append_eq_add, toNat_append_eq_add, toNat_append_eq_add]; simp

variable {m w : Nat} {x : BitVec m}

/-- The bits of the prefixes stand above the base field. -/
theorem uimm_eq_append (i : BitVec w) (h : immBits p = x.toNat) : uimm p w i.toNat = (x ++ i).toNat := by
  rw [uimm, h, toNat_append_eq_add]

theorem uimm_eq_toNat (h : immBits p = x.toNat) : uimm p 0 0 = x.toNat := by simp [uimm, h]

/-- The signed immediate is the sign extension of any bit vector that has its bits. -/
theorem wordOfInt_simm {b : Nat} (hm : 11 * p.imms.length + w = m) (hx : uimm p w b = x.toNat) :
    wordOfInt (simm p w b) = x.signExtend 64 := by
  rw [simm, hm, hx, sextI_toNat]; rfl

end

/-! ## Fields of words -/

theorem zextW_shiftRight (x : Word) (k n : Nat) : zextW (x.toNat >>> k) n = (x >>> k) &&& BitVec.ofNat 64 (2 ^ n - 1) := by
  refine BitVec.eq_of_getLsbD_eq fun i hi => ?_
  simp only [zextW, BitVec.getLsbD_and, BitVec.getLsbD_ofNat, Nat.testBit_mod_two_pow, Nat.testBit_two_pow_sub_one,
    Nat.testBit_shiftRight, BitVec.getLsbD_ushiftRight, BitVec.testBit_toNat]
  grind

theorem testBit_setBits (v lo w f i : Nat) (hw : w ≠ 0) :
    (setBits v (lo + w - 1) lo f).testBit i = if lo ≤ i ∧ i < lo + w then f.testBit (i - lo) else v.testBit i := by
  have hlo : v % 2 ^ lo < 2 ^ lo := Nat.mod_lt _ (Nat.two_pow_pos _)
  have hmid : ∀ m, m % 2 ^ w < 2 ^ w := fun m => Nat.mod_lt _ (Nat.two_pow_pos _)
  have hv : v = 2 ^ lo * (2 ^ w * (v / 2 ^ lo / 2 ^ w) + v / 2 ^ lo % 2 ^ w) + v % 2 ^ lo := by
    rw [Nat.div_add_mod, Nat.div_add_mod]
  have hset : setBits v (lo + w - 1) lo f = 2 ^ lo * (2 ^ w * (v / 2 ^ lo / 2 ^ w) + f % 2 ^ w) + v % 2 ^ lo := by
    rw [setBits, bits, show lo + w - 1 + 1 - lo = w by omega, Nat.shiftRight_eq_div_pow]
    conv_lhs => lhs; lhs; rw [hv]
    grind
  rw [hset, Nat.testBit_two_pow_mul_add _ hlo, Nat.testBit_two_pow_mul_add _ (hmid f), Nat.testBit_mod_two_pow,
    Nat.testBit_mod_two_pow, Nat.testBit_div_two_pow, Nat.testBit_div_two_pow]
  grind

theorem setFld_eq_or (x v : Word) (lo w : Nat) (hw : w ≠ 0) :
    setFld x (lo + w - 1) lo v.toNat =
      (x &&& ~~~(BitVec.ofNat 64 (2 ^ w - 1) <<< lo)) ||| ((v &&& BitVec.ofNat 64 (2 ^ w - 1)) <<< lo) := by
  refine BitVec.eq_of_getLsbD_eq fun i hi => ?_
  simp only [setFld, BitVec.getLsbD_ofNat, testBit_setBits _ _ _ _ _ hw, BitVec.getLsbD_or, BitVec.getLsbD_and,
    BitVec.getLsbD_not, BitVec.getLsbD_shiftLeft, Nat.testBit_two_pow_sub_one, BitVec.testBit_toNat]
  grind

/-! ## The checks on prefixes and fields (02 R63 items 12–15) -/

/-- The cause of the first check on prefixes and fields that fails. -/
def Rules.fieldCause (r : Rules) (p : Pfx) : Option Cause :=
  if (hasReg p && !r.reg) || (hasImm p && !r.imm) || (p.md.isSome && !r.md) || r.extra then some 0x06
  else if r.lack then some 0x07
  else if r.bad || p.pg.getD 0 != 0 then some 0x08
  else if r.range then some 0x09
  else none

/-- The rules put no condition on the thread and the block that execute the instruction. -/
def Rules.Unrestricted (r : Rules) : Prop :=
  r.undef = false ∧ r.transfer = false ∧ r.who = .any ∧ r.super = false ∧ r.page2 = false

theorem chk_bind {α : Type} (fails : Bool) (c : Cause) (k : Unit → Except Stop α) :
    (chk fails c >>= k) = if fails then .error (.cause c 0) else k () := by
  cases fails <;> rfl

/-- An instruction for every thread and block checks its prefixes and fields, and then the hazard set. -/
theorem State.gate_of_unrestricted (s : State) (p : Pfx) {r : Rules} (h : r.Unrestricted) :
    s.gate p r = (r.fieldCause p).elim (chk (s.thr.hazard r.named) 0x10) (fun c => .error (.cause c 0)) := by
  obtain ⟨hundef, htransfer, hwho, hsuper, hpage⟩ := h
  have hwho : s.whoCause r = none := by simp [State.whoCause, hwho, hpage]
  simp only [State.gate, Rules.fieldCause, chk_bind, hundef, htransfer, hsuper, hwho,
    Bool.false_and, Bool.false_eq_true, if_false]
  split_ifs <;> rfl

end Sys2Proof.Machine

namespace Sys2Proof

open Machine

/-- A check on prefixes or fields that fails raises its cause. -/
theorem Plain.raises {i : Instr} {s : State} {p : Pfx} {r : State → Rules} {b : State → Res} {c : Cause} (h : Plain s)
    (hi : exec i s = s.instr p r b) (hr : (r s).Unrestricted) (hc : (r s).fieldCause p = some c) : Raises i s c 0 := by
  rw [Raises, hi, h.instr_error (by rw [s.gate_of_unrestricted p hr, hc]; rfl)]

/-- Where every check passes, the instruction has the effect of its body. -/
theorem Passes.does {i : Instr} {s e : State} {p : Pfx} {r : State → Rules} {b : State → Res} (h : Passes s p (r s))
    (hi : exec i s = s.instr p r b) (hb : b s = next e) : Does i s e := by
  rw [Does, Performs, hi, h.instr, hb]; rfl

theorem Passes.fieldCause_eq_none {s : State} {p : Pfx} {r : Rules} (h : Passes s p r) (hr : r.Unrestricted) :
    r.fieldCause p = none := by
  have hgate := h.2
  rw [s.gate_of_unrestricted p hr] at hgate
  cases hc : r.fieldCause p with
  | none => rfl
  | some c => rw [hc] at hgate; cases hgate

/-- What passes has no immediate out of range. -/
theorem Passes.range_eq_false {s : State} {p : Pfx} {r : Rules} (h : Passes s p r) (hr : r.Unrestricted) : r.range = false := by
  have hcause := h.fieldCause_eq_none hr
  unfold Rules.fieldCause at hcause
  split_ifs at hcause with _ _ _ hrange
  exact eq_false_of_ne_true hrange

/-- An instruction that names no register passes when its prefixes and fields do. -/
theorem Plain.passes_of_unnamed {s : State} {p : Pfx} {r : Rules} (h : Plain s) (hr : r.Unrestricted)
    (hc : r.fieldCause p = none) (hn : r.named = []) : Passes s p r := by
  refine ⟨h, ?_⟩
  rw [s.gate_of_unrestricted p hr, hc, hn]; rfl

/-! ## `bext` and `bins` (03 R82) -/

theorem fieldRules_unrestricted (p : Pfx) (f : FA) : (fieldRules p f).Unrestricted := ⟨rfl, rfl, rfl, rfl, rfl⟩

theorem fieldPos_eq (p : Pfx) : fieldPos p = uimm p 0 0 % 64 := rfl
theorem fieldLen_eq (p : Pfx) : fieldLen p = uimm p 0 0 / 64 % 128 :=
  congrArg (· % 128) (Nat.shiftRight_eq_div_pow (uimm p 0 0) 6)

/-- A field that passes the checks is not empty. -/
theorem Passes.fieldLen_ne_zero {s : State} {p : Pfx} {f : FA} (h : Passes s p (fieldRules p f)) : fieldLen p ≠ 0 := by
  intro hlen
  have hrange : (fieldRules p f).range = false := h.range_eq_false (fieldRules_unrestricted p f)
  simp [fieldRules, hlen] at hrange

/-- Settles O12: a field that passes its checks is not empty, so `bins` replaces exactly the bits under its mask. -/
theorem bitFields : Obligations.BitFields := by
  unfold Obligations.BitFields
  intro p f s hs imm pos len ones bare
  have hr := fieldRules_unrestricted p f
  have hpos : fieldPos p = pos := fieldPos_eq p
  have hlen : fieldLen p = len := fieldLen_eq p
  have raises : ∀ {c}, (fieldRules p f).fieldCause p = some c → Raises (.bext p f) s c 0 ∧ Raises (.bins p f) s c 0 :=
    fun hc => ⟨hs.raises rfl hr hc, hs.raises rfl hr hc⟩
  refine ⟨⟨rfl, rfl⟩, fun v h => uimm_eq_toNat (immBits_one h), fun v w h => uimm_eq_toNat (immBits_two h),
    fun u v w h => uimm_eq_toNat (immBits_three h), fun t u v w h => uimm_eq_toNat (immBits_four h),
    fun hpass => ⟨hpass.does rfl ?_, hpass.does rfl ?_⟩, fun hreg => raises ?_, fun hreg hmd himm => raises ?_,
    fun hreg hmd himm hpg hrange => raises ?_⟩
  · rw [zextW_shiftRight, hpos, hlen]
  · rw [setFld_eq_or _ _ _ _ hpass.fieldLen_ne_zero, hpos, hlen]
  · simp [Rules.fieldCause, fieldRules, hreg]
  · simp [Rules.fieldCause, fieldRules, hreg, hmd, himm]
  · have hrange : (fieldRules p f).range = true := by simpa [fieldRules, hpos, hlen, or_assoc] using hrange
    simp_all [Rules.fieldCause, fieldRules]

/-! ## `li` and `addi` (03 R83) -/

/-- Settles O13: with its base field an immediate has the bits of the prefixes followed by the field. -/
theorem immediates : Obligations.Immediates := by
  unfold Obligations.Immediates
  intro p f s hs
  refine ⟨fun hpass => ⟨hpass.does rfl rfl, hpass.does rfl rfl⟩, ⟨rfl, rfl⟩, fun h => ?_, fun a h => ?_, fun a b h => ?_,
    fun a b c h => ?_, fun a b c d h => ?_, fun hreg => ?_⟩
  · exact wordOfInt_simm (by simp [h]) (by simp [uimm, immBits, h])
  · exact wordOfInt_simm (by simp [h]) (uimm_eq_append f.i (immBits_one h))
  · exact wordOfInt_simm (by simp [h]) (uimm_eq_append f.i (immBits_two h))
  · exact wordOfInt_simm (by simp [h]) (uimm_eq_append f.i (immBits_three h))
  · exact wordOfInt_simm (by simp [h]) (uimm_eq_append f.i (immBits_four h))
  · have hr : ({ imm := true, named := [f.d.toNat] } : Rules).Unrestricted := ⟨rfl, rfl, rfl, rfl, rfl⟩
    have hc : ({ imm := true, named := [f.d.toNat] } : Rules).fieldCause p = some 0x06 := by simp [Rules.fieldCause, hreg]
    exact ⟨hs.raises rfl hr hc, hs.raises rfl hr hc⟩

/-! ## The comparisons and `sel` (03 R84, R85) -/

@[simp] theorem cmpRules_reg (p : Pfx) (f : FA) : (cmpRules p f).reg = true := rfl
@[simp] theorem cmpRules_imm (p : Pfx) (f : FA) : (cmpRules p f).imm = true := rfl
theorem cmpRules_unrestricted (p : Pfx) (f : FA) : (cmpRules p f).Unrestricted := ⟨rfl, rfl, rfl, rfl, rfl⟩

theorem cmpB_of_reg (s : State) {p : Pfx} {r : BitVec 11} (h : p.reg = some r) :
    s.cmpB p = s.x (r.extractLsb' 7 4).toNat := by
  rw [State.cmpB, hasReg, h, regT_of_reg h]; rfl
theorem cmpB_of_no_reg (s : State) {p : Pfx} (h : p.reg = none) : s.cmpB p = wordOfInt (simm p 0 0) := by
  rw [State.cmpB, hasReg, h]; rfl

/-- A check on prefixes or fields that fails raises its cause in each comparison. -/
theorem Plain.compare_raises {s : State} {p : Pfx} {f : FA} {c : Cause} (h : Plain s) (hc : (cmpRules p f).fieldCause p = some c) :
    Raises (.cmpEq p f) s c 0 ∧ Raises (.cmpNe p f) s c 0 ∧ Raises (.cmpLt p f) s c 0 ∧
    Raises (.cmpGe p f) s c 0 ∧ Raises (.cmpLtn p f) s c 0 ∧ Raises (.cmpGen p f) s c 0 := by
  have hr := cmpRules_unrestricted p f
  exact ⟨h.raises rfl hr hc, h.raises rfl hr hc, h.raises rfl hr hc, h.raises rfl hr hc, h.raises rfl hr hc, h.raises rfl hr hc⟩

/-- The checks of `sel` (03 R85). -/
def selRules (p : Pfx) (f : FA) : Rules :=
  { reg := true, lack := !hasReg p, bad := bits (regV p) 6 3 != 0, named := [f.d.toNat, f.s.toNat, regT p] }

theorem exec_sel (p : Pfx) (f : FA) (s : State) : exec (.sel p f) s = s.instr p (fun _ => selRules p f) (fun s =>
    next (s.setX f.d.toNat (if s.f (bits (regV p) 2 0) then s.x f.s.toNat else s.x (regT p)))) := rfl

theorem selRules_unrestricted (p : Pfx) (f : FA) : (selRules p f).Unrestricted := ⟨rfl, rfl, rfl, rfl, rfl⟩

/-- `sel` reads its predicate and its second source from the payload of REG. -/
theorem Passes.sel_does {s : State} {p : Pfx} {f : FA} {r : BitVec 11} (h : Passes s p (selRules p f)) (hreg : p.reg = some r) :
    Does (.sel p f) s (s.setX f.d.toNat
      (if s.f (r.extractLsb' 0 3).toNat then s.x f.s.toNat else s.x (r.extractLsb' 7 4).toNat)) := by
  refine h.does (exec_sel p f s) ?_
  rw [bits_regV_of_reg hreg (by decide), regT_of_reg hreg]

/-- A check on prefixes or fields of `sel` that fails raises its cause. -/
theorem Plain.sel_raises {s : State} {p : Pfx} {f : FA} {c : Cause} (h : Plain s) (hc : (selRules p f).fieldCause p = some c) :
    Raises (.sel p f) s c 0 :=
  h.raises (exec_sel p f s) (selRules_unrestricted p f) hc

/-- Settles O14: the causes are those of the rules that the six comparisons share, and of `selRules`. -/
theorem comparisonsAndSelect : Obligations.ComparisonsAndSelect := by
  unfold Obligations.ComparisonsAndSelect
  intro p f s hs a b
  have hb : s.cmpB p = b := by
    cases hreg : p.reg with
    | none => rw [cmpB_of_no_reg s hreg]; simp only [b, hreg]
    | some r => rw [cmpB_of_reg s hreg]; simp only [b, hreg]
  refine ⟨⟨rfl, rfl, rfl, rfl, rfl, rfl⟩, ?_, ?_, ?_, ?_, fun hpass => ?_, fun hmd hone hbad => hs.compare_raises ?_,
    fun hmd hreg himm => hs.compare_raises ?_, fun hreg himm => hs.compare_raises ?_, rfl, fun r hreg => ⟨fun hpass hvar => ?_,
    fun himm hmd hvar => hs.sel_raises ?_⟩, fun hreg himm hmd => hs.sel_raises ?_, fun himm => hs.sel_raises ?_⟩
  · exact fun v h => wordOfInt_simm (by simp [h]) (uimm_eq_toNat (immBits_one h))
  · exact fun v w h => wordOfInt_simm (by simp [h]) (uimm_eq_toNat (immBits_two h))
  · exact fun u v w h => wordOfInt_simm (by simp [h]) (uimm_eq_toNat (immBits_three h))
  · exact fun t u v w h => wordOfInt_simm (by simp [h]) (uimm_eq_toNat (immBits_four h))
  · rw [← hb]
    exact ⟨hpass.does rfl rfl, hpass.does rfl rfl, hpass.does rfl rfl, hpass.does rfl rfl, hpass.does rfl rfl, hpass.does rfl rfl⟩
  · have hbad : (cmpRules p f).bad = true := by
      obtain hd | ⟨r, hreg, hvar⟩ := hbad
      · simp [cmpRules, hd]
      · have hvar : regV p ≠ 0 := by rw [regV_of_reg hreg]; simpa [← BitVec.toNat_inj] using hvar
        simp [cmpRules, hreg, hvar]
    have himm : hasImm p = !hasReg p := by rw [Bool.eq_iff_iff]; simp [← hone]
    have haccept : (cmpRules p f).extra = false ∧ (cmpRules p f).lack = false := by simp [cmpRules, himm]
    simp [Rules.fieldCause, hbad, haccept, hmd]
  · have hlack : (cmpRules p f).extra = false ∧ (cmpRules p f).lack = true := by simp [cmpRules, hreg, himm]
    simp [Rules.fieldCause, hlack, hmd]
  · have hextra : (cmpRules p f).extra = true := by simp [cmpRules, hreg, himm]
    simp [Rules.fieldCause, hextra]
  · have hrules : selRules p f = { reg := true, named := [f.d.toNat, f.s.toNat, (r.extractLsb' 7 4).toNat] } := by
      simp [selRules, hreg, regT_of_reg hreg, bits_regV_of_reg hreg, hvar]
    exact (hrules ▸ hpass).sel_does hreg
  · have hvar : bits (regV p) 6 3 ≠ 0 := by
      rw [bits_regV_of_reg hreg (by decide)]; simpa [← BitVec.toNat_inj] using hvar
    simp [Rules.fieldCause, selRules, hreg, himm, hmd, hvar]
  · simp [Rules.fieldCause, selRules, hreg, himm, hmd]
  · simp [Rules.fieldCause, selRules, himm]

/-! ## `nop` and `trap` (03 R92, R111) -/

/-- Settles O17: without prefixes `nop` passes its checks just when its fields are 0. -/
theorem noOperation : Obligations.NoOperation := by
  unfold Obligations.NoOperation
  intro p f s hs hreg himm hmd hpg
  have hr : ({ bad := f.d != 0 || f.s != 0 } : Rules).Unrestricted := ⟨rfl, rfl, rfl, rfl, rfl⟩
  refine ⟨rfl, fun hd hf => ?_, fun hfield => hs.raises rfl hr ?_⟩
  · have hpass := hs.passes_of_unnamed (p := p) hr (by simp_all [Rules.fieldCause]) rfl
    exact hpass.does rfl rfl
  · have hbad : (f.d != 0 || f.s != 0) = true := by simpa using hfield
    simp_all [Rules.fieldCause]

/-- Settles O23: where its prefixes and fields pass, `trap` raises its cause as the effect of its body. -/
theorem trapInstruction : Obligations.TrapInstruction := by
  unfold Obligations.TrapInstruction
  intro p f s hs hmd hreg hpg
  have hr : ({ bad := f.d != 0, range := decide (31 < f.i.toNat) } : Rules).Unrestricted := ⟨rfl, rfl, rfl, rfl, rfl⟩
  refine ⟨fun himm hd hi => ?_, fun himm hd hi => hs.raises rfl hr ?_, fun himm hd => hs.raises rfl hr ?_,
    fun himm => hs.raises rfl hr ?_, rfl⟩
  · have hrange : ¬ 31 < f.i.toNat := by omega
    have hpass := hs.passes_of_unnamed (p := p) hr (by simp_all [Rules.fieldCause]) rfl
    have hcause : BitVec.ofNat 8 (0xE0 + f.i.toNat) = 0xE0 + f.i.setWidth 8 := by
      rw [BitVec.ofNat_add, BitVec.ofNat_toNat]; rfl
    rw [Raises, ← hcause]
    exact hpass.instr _
  · have hrange : 31 < f.i.toNat := by omega
    simp_all [Rules.fieldCause]
  · simp_all [Rules.fieldCause]
  · simp [Rules.fieldCause, himm]

end Sys2Proof
